-- ==== Sys2Proof/Word.lean ====
section
/-! DEFINITION. The word types of the machine (spec/03_encoding.md R41, spec/00_scope.md R3). -/

namespace Sys2Proof

/-- A byte of memory. -/
abbrev Byte := BitVec 8
/-- A 32-bit lane or element. -/
abbrev W32 := BitVec 32
/-- A 64-bit scalar, address or control word. -/
abbrev W64 := BitVec 64
/-- A scalar register number s0-s63 (R41). -/
abbrev Reg := BitVec 6

end Sys2Proof
end

