-- ==== Sys2Proof/Syntax.lean ====
section
/-! DEFINITION. The instruction set: one constructor for each row of the opcode table. Fields are the raw encoding fields;
WellFormed says which values are legal. Event rows carry no fields: what an event acts on, and each choice
that the spec leaves open in it, stands in the turn that runs it (State.choice, DESIGN CHOICE, log 12). -/

namespace Sys2Proof

/-- The four sequencers, numbered as XFINFO.SEQ numbers them (spec/08 R151). -/
inductive Seq where
  | control | matrix | vector | copy
deriving DecidableEq, Repr

/-- The predicate fields of a control word (R44). -/
structure Guard where
  pr : BitVec 4
  pn : Bool
deriving DecidableEq, Repr

/-- The fields of a CM word (R45): order, scope, size and offset. -/
structure MemF where
  ord : BitVec 3
  scope : BitVec 3
  sz : BitVec 2
  off : BitVec 12
deriving DecidableEq, Repr

/-- The fields of a CA word (R45). -/
structure AtomF where
  sz : BitVec 2
  ord : BitVec 3
  scope : BitVec 3
  off : BitVec 12
deriving DecidableEq, Repr

/-- The common fields of a vector word (R56): mask gate, signed step, repeat count. -/
structure VH where
  m : Bool
  step : BitVec 4
  rpt : BitVec 6
deriving DecidableEq, Repr

/-- The common fields of a copy word (R56). -/
structure XH where
  step : BitVec 4
  rpt : BitVec 6
deriving DecidableEq, Repr

/-- Acquire, release and scope of a transfer word or drain (R176). -/
structure Order where
  acq : Bool
  rel : Bool
  scope : BitVec 3
deriving DecidableEq, Repr

/-- Where an uncorrectable error strikes (spec/18 R405, R406). -/
inductive ErrSite where
  | memory (sector : Nat)
  | l2Line (key : Nat) (sector : Nat)
  | spad (word : Nat)
  | vreg (r : Nat)
  | sreg (r : Reg)
  | preg (p : BitVec 4)
  | mreg (m : Nat)
  | areg (a : Nat)
  | irb (n : Nat)
  | deferred (n : Nat)
  | counted (k : BitVec 3) (n : Nat)
  /-- A line of the hand-over area of the executor's context (R124). -/
  | ksr
  /-- A tensor shape slot, an event counter, a row of a stream register, an accumulator bank, an entry of a channel's data queue (R406). -/
  | tslot (t : Nat)
  | counter (e : BitVec 6)
  | srow (q n : Nat)
  | bank (b : Bool)
  | queued (ch : BitVec 2) (n : Nat)
  | fatal
deriving DecidableEq, Repr

/-- A unit that can be retired (spec/18 R407, R463). -/
inductive Unit' where
  | core (n : Nat)
  | slice (n : Nat)
  | channel (stack chan : Nat)
deriving DecidableEq, Repr

/-- What an event row acts on and the choices the spec leaves open in it, as plain data (DESIGN CHOICE, log 12). Each event's meaning says which
of the fields it reads; `cut` is the number of bytes that an access of several atomic units makes now, 0 all of them (R349). -/
structure Choice where
  sq : Seq := .control
  n : Nat := 0
  m : Nat := 0
  k : Nat := 0
  flag : Bool := false
  v : W64 := 0
  data : List Byte := []
  list : List Nat := []
  list2 : List Nat := []
  pairs : List (Nat × W64) := []
  ints : List Int := []
  cut : Nat := 0
  site : ErrSite := .fatal
  target : Unit' := .core 0
deriving DecidableEq, Repr

/-- One row of the opcode table with its fields. -/
inductive Instr where
  -- control words: integer (R54, R289)
  | nop (g : Guard)
  | add (g : Guard) (d a b : Reg)
  | sub (g : Guard) (d a b : Reg)
  | mul (g : Guard) (d a b : Reg)
  | mulh (g : Guard) (d a b : Reg)
  | mulhu (g : Guard) (d a b : Reg)
  | div (g : Guard) (d a b : Reg)
  | divu (g : Guard) (d a b : Reg)
  | rem (g : Guard) (d a b : Reg)
  | remu (g : Guard) (d a b : Reg)
  | and (g : Guard) (d a b : Reg)
  | or (g : Guard) (d a b : Reg)
  | xor (g : Guard) (d a b : Reg)
  | andn (g : Guard) (d a b : Reg)
  | shl (g : Guard) (d a b : Reg)
  | shr (g : Guard) (d a b : Reg)
  | sra (g : Guard) (d a b : Reg)
  | min (g : Guard) (d a b : Reg)
  | max (g : Guard) (d a b : Reg)
  | minu (g : Guard) (d a b : Reg)
  | maxu (g : Guard) (d a b : Reg)
  | clz (g : Guard) (d a : Reg)
  | popc (g : Guard) (d a : Reg)
  -- predicates (R290)
  | sel (g : Guard) (d a b : Reg) (x : BitVec 4)
  | cmpeq (g : Guard) (pd : BitVec 4) (a b : Reg)
  | cmpne (g : Guard) (pd : BitVec 4) (a b : Reg)
  | cmplt (g : Guard) (pd : BitVec 4) (a b : Reg)
  | cmple (g : Guard) (pd : BitVec 4) (a b : Reg)
  | cmpltu (g : Guard) (pd : BitVec 4) (a b : Reg)
  | cmpleu (g : Guard) (pd : BitVec 4) (a b : Reg)
  | plog (g : Guard) (pd pa pb : BitVec 4) (tt : BitVec 4)
  | pmov (g : Guard) (d a : Reg) (x : BitVec 4)
  -- immediates (R291)
  | addi (g : Guard) (d a : Reg) (imm : BitVec 12)
  | andi (g : Guard) (d a : Reg) (imm : BitVec 12)
  | ori (g : Guard) (d a : Reg) (imm : BitVec 12)
  | xori (g : Guard) (d a : Reg) (imm : BitVec 12)
  | shli (g : Guard) (d a : Reg) (imm : BitVec 12)
  | shri (g : Guard) (d a : Reg) (imm : BitVec 12)
  | srai (g : Guard) (d a : Reg) (imm : BitVec 12)
  | sethi (g : Guard) (d : Reg) (imm : BitVec 20)
  | addpc (g : Guard) (d : Reg) (imm : BitVec 20)
  | movi (g : Guard) (d : Reg) (imm : BitVec 32)
  | cmpeqi (g : Guard) (pd : BitVec 4) (a : Reg) (imm : BitVec 12)
  | cmplti (g : Guard) (pd : BitVec 4) (a : Reg) (imm : BitVec 12)
  | cmpltui (g : Guard) (pd : BitVec 4) (a : Reg) (imm : BitVec 12)
  -- scalar memory (R292, R472) and tagged words (R229)
  | ld (g : Guard) (d a : Reg) (f : MemF)
  | ldu (g : Guard) (d a : Reg) (f : MemF)
  | st (g : Guard) (a b : Reg) (f : MemF)
  | ldfw (g : Guard) (d a b c : Reg) (e : Bool) (off : BitVec 12)
  | ldfe (g : Guard) (d a b c : Reg) (e : Bool) (off : BitVec 12)
  | stef (g : Guard) (d a b c : Reg) (e : Bool) (off : BitVec 12)
  | stff (g : Guard) (a b : Reg) (off : BitVec 12)
  | purge (g : Guard) (a : Reg) (off : BitVec 12)
  | tagrd (g : Guard) (d a b : Reg) (off : BitVec 12)
  -- atomics (R162)
  | aadd (g : Guard) (d a b : Reg) (f : AtomF)
  | amin (g : Guard) (d a b : Reg) (f : AtomF)
  | amax (g : Guard) (d a b : Reg) (f : AtomF)
  | aminu (g : Guard) (d a b : Reg) (f : AtomF)
  | amaxu (g : Guard) (d a b : Reg) (f : AtomF)
  | aand (g : Guard) (d a b : Reg) (f : AtomF)
  | aor (g : Guard) (d a b : Reg) (f : AtomF)
  | axor (g : Guard) (d a b : Reg) (f : AtomF)
  | axchg (g : Guard) (d a b : Reg) (f : AtomF)
  | acas (g : Guard) (d a b c : Reg) (f : AtomF)
  | afadd (g : Guard) (d a b : Reg) (f : AtomF)
  | aincb (g : Guard) (d a b c : Reg) (f : AtomF)
  -- synchronisation (R328-R342)
  | fence (g : Guard) (d b c : Reg) (e : Bool) (scope : BitVec 3) (eng : Bool)
  | waitc (g : Guard) (d c : Reg) (e : Bool) (ld st cp tl : BitVec 3)
  | barr (g : Guard) (d : Reg) (bar : BitVec 10)
  | bwait (g : Guard) (d c : Reg) (e : Bool) (bar : BitVec 10)
  | bsync (g : Guard) (d c : Reg) (e : Bool) (bar : BitVec 10)
  | bwdr (g : Guard) (d : Reg) (bar : BitVec 10)
  | bcfg (g : Guard) (d b : Reg) (bar : BitVec 10)
  | waitq (g : Guard) (d a b c : Reg) (e : Bool) (off : BitVec 12) (sz : Bool) (scope : BitVec 3)
  | wake (g : Guard) (d a b : Reg) (off : BitVec 12) (sz : Bool) (scope : BitVec 3)
  | qsend (g : Guard) (d a b c : Reg) (e : Bool) (off : BitVec 12) (scope : BitVec 3)
  | qrecv (g : Guard) (d a b c : Reg) (e : Bool) (off : BitVec 12) (scope : BitVec 3)
  | ewait (g : Guard) (d b c : Reg) (e : Bool) (fl : BitVec 6)
  | eadd (g : Guard) (b : Reg) (fl : BitVec 6)
  | evcfg (g : Guard) (d a : Reg) (off : BitVec 12) (rule : BitVec 4)
  -- engine commands (R301-R304), stream binding (R190, R191)
  | fork (g : Guard) (d a c : Reg) (mask : BitVec 3) (rdv : BitVec 10)
  | join (g : Guard) (d c : Reg) (mask : BitVec 3) (rdv : BitVec 10)
  | epushRun (g : Guard) (d a b c : Reg) (mask : BitVec 3)
  | epushSetf (g : Guard) (d a b c : Reg) (mask : BitVec 3)
  | epushWaitf (g : Guard) (d a b c : Reg) (mask : BitVec 3)
  | sbind (g : Guard) (d c : Reg) (e : Bool) (q : BitVec 4) (t : BitVec 6) (ch : BitVec 2)
  | sfree (g : Guard) (d : Reg) (q : BitVec 4)
  | halt (g : Guard)
  -- branches and loops (R293-R297)
  | br (g : Guard) (disp : BitVec 32)
  | call (g : Guard) (disp : BitVec 32)
  | callr (g : Guard) (a : Reg)
  | jmpr (g : Guard) (a : Reg)
  | ret (g : Guard)
  | loop (g : Guard) (a : Reg) (lv : BitVec 3) (len : BitVec 16) (cnt : BitVec 20)
  | loopq (g : Guard) (k : BitVec 3) (lv : BitVec 3) (len : BitVec 16)
  | lbrk (g : Guard) (lv : BitVec 3)
  -- seams, tiers, launches
  | seam (g : Guard) (d c : Reg) (e : Bool) (idx : BitVec 14)
  | tlift (g : Guard) (d a b : Reg) (x : BitVec 4)
  | tdrop (g : Guard) (d a b : Reg) (x : BitVec 4)
  | thome (g : Guard) (d a : Reg)
  | spawn (g : Guard) (d a : Reg)
  -- CSRs and time (R310, R311)
  | rdcsr (g : Guard) (d : Reg) (num : BitVec 16)
  | wrcsr (g : Guard) (a : Reg) (num : BitVec 16)
  | frrctlCommit (g : Guard) (a : Reg)
  | frrselWrite (g : Guard) (a : Reg)
  | xfinfoReplay (g : Guard) (a : Reg)
  | kqpush (g : Guard) (a : Reg) (k : BitVec 3)
  | tbctlEnableWrite (g : Guard) (a : Reg)
  | rdtime (g : Guard) (d : Reg)
  | rdctime (g : Guard) (d : Reg)
  -- system words
  | trap (g : Guard) (num : BitVec 16)
  | eret (g : Guard)
  | tlbinv (g : Guard) (a : Reg) (num : BitVec 16)
  | dcf (g : Guard) (d a c : Reg) (e : Bool) (off : BitVec 12)
  | cinv (g : Guard) (a : Reg) (num : BitVec 16)
  | bkpt (g : Guard) (num : BitVec 16)
  | snapbc (g : Guard)
  -- vector words (R67, R206-R220)
  | vnop (rpt : BitVec 6)
  | vaddI32 (h : VH) (vd va vb : BitVec 10)
  | vsubI32 (h : VH) (vd va vb : BitVec 10)
  | vmulI32 (h : VH) (vd va vb : BitVec 10)
  | vmulhI32 (h : VH) (vd va vb : BitVec 10)
  | vminI32 (h : VH) (vd va vb : BitVec 10)
  | vmaxI32 (h : VH) (vd va vb : BitVec 10)
  | vminuI32 (h : VH) (vd va vb : BitVec 10)
  | vmaxuI32 (h : VH) (vd va vb : BitVec 10)
  | vand (h : VH) (vd va vb : BitVec 10)
  | vor (h : VH) (vd va vb : BitVec 10)
  | vxor (h : VH) (vd va vb : BitVec 10)
  | vshl (h : VH) (vd va vb : BitVec 10)
  | vshr (h : VH) (vd va vb : BitVec 10)
  | vsra (h : VH) (vd va vb : BitVec 10)
  | vaddsI32 (h : VH) (vd va vb : BitVec 10)
  | vsubsI32 (h : VH) (vd va vb : BitVec 10)
  | vaddI16x2 (h : VH) (vd va vb : BitVec 10)
  | vaddI8x4 (h : VH) (vd va vb : BitVec 10)
  | vdotI8x4 (h : VH) (vd va vb : BitVec 10)
  | vaddF32 (h : VH) (vd va vb : BitVec 10)
  | vsubF32 (h : VH) (vd va vb : BitVec 10)
  | vmulF32 (h : VH) (vd va vb : BitVec 10)
  | vfmaF32 (h : VH) (vd va vb : BitVec 10)
  | vminF32 (h : VH) (vd va vb : BitVec 10)
  | vmaxF32 (h : VH) (vd va vb : BitVec 10)
  | vrcpF32 (h : VH) (vd va : BitVec 10)
  | vrsqF32 (h : VH) (vd va : BitVec 10)
  | vexp2F32 (h : VH) (vd va : BitVec 10)
  | vlog2F32 (h : VH) (vd va : BitVec 10)
  | vabsF32 (h : VH) (vd va : BitVec 10)
  | vnegF32 (h : VH) (vd va : BitVec 10)
  | vfmaBf16x2 (h : VH) (vd va vb : BitVec 10)
  | vmaxabsF32 (h : VH) (vd va vb : BitVec 10)
  | vcmpeqI32 (h : VH) (md : BitVec 4) (va vb : BitVec 10)
  | vcmpltI32 (h : VH) (md : BitVec 4) (va vb : BitVec 10)
  | vcmpltuI32 (h : VH) (md : BitVec 4) (va vb : BitVec 10)
  | vcmpeqF32 (h : VH) (md : BitVec 4) (va vb : BitVec 10)
  | vcmpltF32 (h : VH) (md : BitVec 4) (va vb : BitVec 10)
  | vcmpleF32 (h : VH) (md : BitVec 4) (va vb : BitVec 10)
  | vcmpunF32 (h : VH) (md : BitVec 4) (va vb : BitVec 10)
  | vmact (md : BitVec 4)
  | vmlog (h : VH) (md tt ma mb : BitVec 4)
  | vsel (h : VH) (vd va vb : BitVec 10)
  | vcvtF32I32 (h : VH) (vd va : BitVec 10)
  | vcvtI32F32Rz (h : VH) (vd va : BitVec 10)
  | vcvtI32F32Rne (h : VH) (vd va : BitVec 10)
  | vcvtBf16F32 (h : VH) (vd va : BitVec 10)
  | vcvtF16F32 (h : VH) (vd va : BitVec 10)
  | vcvtE4m3F32 (h : VH) (vd va : BitVec 10)
  | vcvtE5m2F32 (h : VH) (vd va : BitVec 10)
  | vcvtF32Bf16 (h : VH) (vd va : BitVec 10)
  | vcvtF32F16 (h : VH) (vd va : BitVec 10)
  | vcvtF32E4m3 (h : VH) (vd va : BitVec 10)
  | vcvtF32E5m2 (h : VH) (vd va : BitVec 10)
  | vcvtI8F32 (h : VH) (vd va : BitVec 10)
  | vcvtF32I8 (h : VH) (vd va : BitVec 10)
  | vqntE2m1 (h : VH) (vd va vb : BitVec 10)
  | vdqntE2m1 (h : VH) (vd va vb : BitVec 10)
  | vredaddF32 (h : VH) (vd va : BitVec 10)
  | vredmaxF32 (h : VH) (vd va : BitVec 10)
  | vredaddI32 (h : VH) (vd va : BitVec 10)
  | vscanI32 (h : VH) (vd va : BitVec 10)
  | vperm (h : VH) (vd va vb : BitVec 10)
  | vrot (h : VH) (vd va : BitVec 10) (n : BitVec 6)
  | vbcast (h : VH) (vd va : BitVec 10) (n : BitVec 6)
  | viota (h : VH) (vd : BitVec 10) (imm : BitVec 20)
  | vmovi (h : VH) (vd : BitVec 10) (imm : BitVec 20)
  | vmov (h : VH) (vd va : BitVec 10)
  | vld (h : VH) (vd : BitVec 10) (ab : BitVec 3) (off : BitVec 17)
  | vst (h : VH) (vd : BitVec 10) (ab : BitVec 3) (off : BitVec 17)
  | vldfw (h : VH) (vd : BitVec 10) (ab : BitVec 3) (off : BitVec 17)
  | vstef (h : VH) (vd : BitVec 10) (ab : BitVec 3) (off : BitVec 17)
  | vgath (h : VH) (vd va : BitVec 10)
  | vscat (h : VH) (vd va : BitVec 10)
  | vdefer (h : VH) (va : BitVec 10) (c : BitVec 2)
  | vdrain (h : VH) (vd : BitVec 10) (c : BitVec 2)
  | vseta (n : BitVec 3) (off : BitVec 24)
  | vsetdl (dl : BitVec 24)
  | vsetf (fl : BitVec 6)
  | vwaitf (fl : BitVec 6)
  | vrdv (id : BitVec 10)
  | vloop (lev : BitVec 1) (len trips : BitVec 12)
  | vloopq (lev : BitVec 1) (k : BitVec 3) (len : BitVec 12)
  -- matrix words (R242) and nest events
  | mnop (rpt : BitVec 6)
  | mlvl (lv role : BitVec 3) (trip : BitVec 24)
  | mstra (lv dim : BitVec 3) (inc : BitVec 12)
  | mstrb (lv dim : BitVec 3) (inc : BitVec 12)
  | mstrc (lv dim : BitVec 3) (inc : BitVec 12)
  | mbind (opnd : BitVec 2) (t : BitVec 6) (unb : Bool)
  | mfmt (fa fb : BitVec 4) (mode spn : BitVec 2) (blk acci bank : Bool)
  | mhld (hsz : BitVec 2) (diag : BitVec 16)
  | mdrain (rpt : BitVec 6) (ch : BitVec 2) (o : Order) (dmode : BitVec 2) (all : Bool)
  | mzero (z0 z1 : Bool)
  | msetf (fl : BitVec 6)
  | mwaitf (fl : BitVec 6)
  | mrdv (id : BitVec 10)
  | msetdl (dl : BitVec 24)
  -- copy words (R69)
  | xnop (rpt : BitVec 6)
  | xcopy (h : XH) (td ts : BitVec 6) (ch : BitVec 2) (o : Order) (tag : Bool)
  | xadd (h : XH) (td ts : BitVec 6) (ch : BitVec 2) (o : Order)
  | xgath (h : XH) (td ts ti : BitVec 6) (ch : BitVec 2) (o : Order) (tag : Bool)
  | xscat (h : XH) (td ts ti : BitVec 6) (ch : BitVec 2) (o : Order)
  | xfill (h : XH) (td : BitVec 6) (ch : BitVec 2) (o : Order) (tag : Bool) (pw : BitVec 10)
  | xmove (h : XH) (t : BitVec 6) (npg : BitVec 16) (ch : BitVec 2)
  | xstrm (q : BitVec 4) (t : BitVec 6) (ch : BitVec 2)
  | xtsrld (rpt : BitVec 6) (t : BitVec 6) (ch : BitVec 2) (pw : BitVec 10)
  | xpatch (h : XH) (t : BitVec 6) (fld : BitVec 5) (add : Bool) (ch : BitVec 2) (pw : BitVec 10)
  | xroute (ts tq : BitVec 6) (ch : BitVec 2) (rat : BitVec 4)
  | xrret (h : XH) (ts : BitVec 6) (ring : BitVec 4) (ch : BitVec 2) (o : Order)
  | xratRat (n : BitVec 4) (ch : BitVec 2) (pw : BitVec 10)
  | xratRing (n : BitVec 4) (ch : BitVec 2) (pw : BitVec 10)
  | xrcloseClose (ring : BitVec 4) (ch : BitVec 2)
  | xrcloseRelease (ring : BitVec 4) (ch : BitVec 2)
  | xcoll (rpt : BitVec 6) (ch : BitVec 2) (pw : BitVec 10)
  | xdcf (h : XH) (t : BitVec 6) (ch : BitVec 2)
  | xsetf (fl : BitVec 6)
  | xwaitf (fl : BitVec 6)
  | xrdv (id : BitVec 10)
  | xsetdl (dl : BitVec 24)
  | xloop (lev : BitVec 1) (len trips : BitVec 12)
  | xloopq (lev : BitVec 1) (k : BitVec 3) (len : BitVec 12)
  -- any word that does not decode (R72, R73)
  | illegalOpcode (sq : Seq) (w : W64)
  -- engine words without fields
  | vend
  | mgo
  | mend
  | xend
  | loadReply
  | sliceServiceEvent
  | ruleFiring
  | loopqExpiry
  | seamInstant
  | ksrWriteDone
  | handoverCommit
  | handoverPolicy
  | gatherLaneArrival
  | irbLanding
  | streamRowArrival
  | streamTimeout
  | tagWaitExpiry
  | gatherWaitExpiry
  | vsetaExpiry
  | queueLoopExpiry
  | rendezvousStopExpiry
  | reductionStart
  | accumulatorRetirement
  | drainTileReadDone
  | matrixWaitExpiry
  | tileFetchReturn
  -- events of the copy engine and the engine queues
  | addressQueueRequest
  | copyCommandCompletion
  | commandWaitExpiry
  | engineRun
  | setfCommand
  | waitfCommand
  | waitfCommandExpiry
  | deadlineExpiry
  -- tier moves
  | moveClaim
  | pageCommit
  | moveFinalCommit
  | claimPass
  | heldWriteExpiry
  | demandHalving
  -- attention decode engines
  | adeDispatch
  | adeChunkDone
  | adeCompletion
  -- routing
  | placementArrival
  | answerArrival
  | returnArrival
  | xrouteDeadlineExpiry
  | windowAutoClose
  | wcFlush
  -- launches
  | launchDoorbell
  | launchAccept
  | dispatch
  | overlayLoadDone
  | kernelEntry
  | bootMailboxWrite
  | preemptRequest
  | preemptStop
  | imageSaveDone
  | restore
  | completionRecord
  | gangArm
  | gangAckArrival
  | gangDeadlineExpiry
  | gangAbortMessage
  -- traps, errors, debug
  | interrupt
  | uncorrectableError
  | unitRetire
  | preciseStop
  | traceTrigger
  -- host
  | hostRead
  | hostWrite
  | bar0RegisterWrite
  | hcqerrOverrunClear
  | createContext
  | destroyContext
  | register
  | deregister
  | suspend
  | suspendStart
  | suspendMessage
  | collectiveQuiesceExpiry
  | resume
  | attest
  | lctoken
  | recover
  | debugStop
  | debugResume
  | debugRead
  | debugTrace
  | setdev
  | readst
  -- links, power
  | flitArrival
  | collectivePieceArrival
  | portTraining
  | timeSync
  | powerWindow
  | railPointChange
  | thermalSweep
  | reset
  | flagWaitExpiry
  | slotLoadCompletion
  | slotWriteExpiry
  | parameterWordArrival
  | streamBindExpiry
  | ratBusyWaitExpiry
  | countQueueRoomExpiry
  | l2LineEviction
  | hostWriteAcknowledgement
  | imagePublication
  | imageUnload
deriving DecidableEq, Repr

end Sys2Proof
end

