-- ==== Sys2Proof/WellFormed.lean ====
section
/-! DEFINITION. Which field values of an instruction word are legal: the checks of spec/03_encoding.md R72 and of the
encoding tables that add to it. A word that breaks one traps ILLEGAL (R73). Event rows have no word and are always legal. -/

namespace Sys2Proof

namespace Wf

/-- A SCOPE field: 0 to 4 (R7). -/
def scope (s : BitVec 3) : Bool := decide (s.toNat ≤ 4)

/-- A CM word's ORD and SCOPE (R46): plain with scope 0, or the one ordering `o` the word accepts. -/
def memF (f : MemF) (o : BitVec 3) : Bool :=
  (f.ord == 0 && f.scope == 0) || (f.ord == o && scope f.scope)

/-- A CA word's SZ, ORD and SCOPE (R46). -/
def atomF (f : AtomF) : Bool := decide (2 ≤ f.sz.toNat) && decide (f.ord.toNat ≤ 3) && scope f.scope

/-- Acquire, release and scope of a transfer (R176, R179, R243). -/
def order (o : Order) : Bool := scope o.scope && (o.acq || o.rel || o.scope == 0)

/-- The signed step of an engine word (R56). -/
def stepInt (s : BitVec 4) : Int := s.toInt

/-- Every repeat's index of a stepped v register field with `extra` further registers lies in 0 to 767 (R61). Linear in the
repeat number, so the first and the last repeat decide. -/
def vspan (r : BitVec 10) (step : BitVec 4) (rpt : BitVec 6) (extra : Nat := 0) : Bool :=
  let a : Int := r.toNat
  let z : Int := a + (rpt.toNat : Int) * stepInt step
  decide (a + extra ≤ 767) && decide (0 ≤ z) && decide (z + extra ≤ 767)

/-- A vector register field that the word writes: v registers only (R60, R61). -/
def vdst (r : BitVec 10) (h : VH) : Bool := vspan r h.step h.rpt

/-- A vector register field that the word only reads: a v register that steps, or a q register 768 to 783 (R60, R61). -/
def vsrc (r : BitVec 10) (h : VH) : Bool :=
  if r.toNat < 768 then vspan r h.step h.rpt else decide (r.toNat < 784)

/-- The VR word with two sources. -/
def vr3 (h : VH) (vd va vb : BitVec 10) : Bool := vdst vd h && vsrc va h && vsrc vb h

/-- The VR word with one source. -/
def vr2 (h : VH) (vd va : BitVec 10) : Bool := vdst vd h && vsrc va h

/-- The compare words of format VK: m0 cannot be written (R41, R72). -/
def vk (h : VH) (md : BitVec 4) (va vb : BitVec 10) : Bool := md != 0 && vsrc va h && vsrc vb h

/-- A VM word: VD + RPT at most 767 (R62). -/
def vm (h : VH) (vd : BitVec 10) : Bool := decide (vd.toNat + h.rpt.toNat ≤ 767)

/-- The address pair of VGATH and VSCAT: VA and VA + RPT × STEP in 0 to 766 (R233). -/
def vpair (va : BitVec 10) (h : VH) : Bool := vspan va h.step h.rpt 1

/-- The shift amounts of SHLI, SHRI and SRAI: IMM12[11:6] zero (R47). -/
def shamt (imm : BitVec 12) : Bool := decide (imm.toNat < 64)

/-- The allocated CSR numbers (R76, R151, R153, R155, R285, R312, R313, R382, R393, R442, R455). -/
def csr (n : BitVec 16) : Bool :=
  let k := n.toNat
  decide (k ≤ 0x007) || (decide (0x010 ≤ k) && decide (k ≤ 0x018)) || (decide (0x100 ≤ k) && decide (k ≤ 0x103)) ||
  (decide (0x200 ≤ k) && decide (k ≤ 0x202)) || (decide (0x210 ≤ k) && decide (k ≤ 0x214)) || decide (k = 0x220) ||
  (decide (0x300 ≤ k) && decide (k ≤ 0x304)) || (decide (0x308 ≤ k) && decide (k ≤ 0x30F)) ||
  (decide (0x400 ≤ k) && decide (k ≤ 0x405)) || (decide (0x408 ≤ k) && decide (k ≤ 0x40A)) ||
  (decide (0x410 ≤ k) && decide (k ≤ 0x414)) || (decide (0x418 ≤ k) && decide (k ≤ 0x41F)) ||
  (decide (0x500 ≤ k) && decide (k ≤ 0x502)) || (decide (0x600 ≤ k) && decide (k ≤ 0x604))

/-- The CSR numbers whose write is a row of its own of the opcode table: XFINFO_REPLAY, FRRSEL_WRITE, FRRCTL_COMMIT, KQPUSH
and TBCTL_ENABLE_WRITE. -/
def csrOwnRow (n : BitVec 16) : Bool :=
  let k := n.toNat
  decide (k = 0x202) || decide (k = 0x210) || decide (k = 0x214) || (decide (0x308 ≤ k) && decide (k ≤ 0x30F)) ||
  decide (k = 0x410)

end Wf

/-- Whether the fields of an instruction are legal (R72). -/
def wf : Instr → Bool
  | .pmov _ d a x => (x == 0 && a == 0) || (x == 1 && d == 0)
  | .shli _ _ _ imm => Wf.shamt imm
  | .shri _ _ _ imm => Wf.shamt imm
  | .srai _ _ _ imm => Wf.shamt imm
  | .ld _ _ _ f => Wf.memF f 1
  | .ldu _ _ _ f => Wf.memF f 1
  | .st _ _ _ f => Wf.memF f 2
  | .aadd _ _ _ _ f => Wf.atomF f
  | .amin _ _ _ _ f => Wf.atomF f
  | .amax _ _ _ _ f => Wf.atomF f
  | .aminu _ _ _ _ f => Wf.atomF f
  | .amaxu _ _ _ _ f => Wf.atomF f
  | .aand _ _ _ _ f => Wf.atomF f
  | .aor _ _ _ _ f => Wf.atomF f
  | .axor _ _ _ _ f => Wf.atomF f
  | .axchg _ _ _ _ f => Wf.atomF f
  | .acas _ _ _ _ _ f => Wf.atomF f
  | .afadd _ _ _ _ f => Wf.atomF f && f.sz == 2
  | .aincb _ _ _ _ _ f => Wf.atomF f
  | .fence _ _ _ _ _ scope _ => Wf.scope scope
  | .waitq _ _ _ _ _ _ _ _ scope => Wf.scope scope
  | .wake _ _ _ _ _ _ scope => Wf.scope scope
  | .qsend _ _ _ _ _ _ _ scope => Wf.scope scope
  | .qrecv _ _ _ _ _ _ _ scope => Wf.scope scope
  | .fork _ _ _ _ mask _ => mask != 0
  | .epushRun _ _ _ _ _ mask => mask != 0
  | .epushSetf _ _ _ _ _ mask => mask != 0
  | .epushWaitf _ _ _ _ _ mask => mask != 0
  | .loop _ a lv len cnt => decide (lv.toNat ≤ 3) && len != 0 && (a == 0 || cnt == 0)
  | .loopq _ _ lv len => decide (lv.toNat ≤ 3) && len != 0
  | .lbrk _ lv => decide (lv.toNat ≤ 3)
  | .tlift _ _ _ _ x => decide (x.toNat < 8)
  | .tdrop _ _ _ _ x => decide (x.toNat < 8)
  | .rdcsr _ _ num => Wf.csr num
  | .wrcsr _ _ num => Wf.csr num && !Wf.csrOwnRow num
  | .trap _ num => decide (num.toNat < 128)
  | .tlbinv _ _ num => decide (num.toNat ≤ 2)
  | .cinv _ _ num => decide (num.toNat ≤ 2)
  | .vaddI32 h vd va vb => Wf.vr3 h vd va vb
  | .vsubI32 h vd va vb => Wf.vr3 h vd va vb
  | .vmulI32 h vd va vb => Wf.vr3 h vd va vb
  | .vmulhI32 h vd va vb => Wf.vr3 h vd va vb
  | .vminI32 h vd va vb => Wf.vr3 h vd va vb
  | .vmaxI32 h vd va vb => Wf.vr3 h vd va vb
  | .vminuI32 h vd va vb => Wf.vr3 h vd va vb
  | .vmaxuI32 h vd va vb => Wf.vr3 h vd va vb
  | .vand h vd va vb => Wf.vr3 h vd va vb
  | .vor h vd va vb => Wf.vr3 h vd va vb
  | .vxor h vd va vb => Wf.vr3 h vd va vb
  | .vshl h vd va vb => Wf.vr3 h vd va vb
  | .vshr h vd va vb => Wf.vr3 h vd va vb
  | .vsra h vd va vb => Wf.vr3 h vd va vb
  | .vaddsI32 h vd va vb => Wf.vr3 h vd va vb
  | .vsubsI32 h vd va vb => Wf.vr3 h vd va vb
  | .vaddI16x2 h vd va vb => Wf.vr3 h vd va vb
  | .vaddI8x4 h vd va vb => Wf.vr3 h vd va vb
  | .vdotI8x4 h vd va vb => Wf.vr3 h vd va vb
  | .vaddF32 h vd va vb => Wf.vr3 h vd va vb
  | .vsubF32 h vd va vb => Wf.vr3 h vd va vb
  | .vmulF32 h vd va vb => Wf.vr3 h vd va vb
  | .vfmaF32 h vd va vb => Wf.vr3 h vd va vb
  | .vminF32 h vd va vb => Wf.vr3 h vd va vb
  | .vmaxF32 h vd va vb => Wf.vr3 h vd va vb
  | .vrcpF32 h vd va => Wf.vr2 h vd va
  | .vrsqF32 h vd va => Wf.vr2 h vd va
  | .vexp2F32 h vd va => Wf.vr2 h vd va
  | .vlog2F32 h vd va => Wf.vr2 h vd va
  | .vabsF32 h vd va => Wf.vr2 h vd va
  | .vnegF32 h vd va => Wf.vr2 h vd va
  | .vfmaBf16x2 h vd va vb => Wf.vr3 h vd va vb
  | .vmaxabsF32 h vd va vb => Wf.vr3 h vd va vb
  | .vcmpeqI32 h md va vb => Wf.vk h md va vb
  | .vcmpltI32 h md va vb => Wf.vk h md va vb
  | .vcmpltuI32 h md va vb => Wf.vk h md va vb
  | .vcmpeqF32 h md va vb => Wf.vk h md va vb
  | .vcmpltF32 h md va vb => Wf.vk h md va vb
  | .vcmpleF32 h md va vb => Wf.vk h md va vb
  | .vcmpunF32 h md va vb => Wf.vk h md va vb
  | .vmlog _ md _ _ _ => md != 0
  | .vsel h vd va vb => !h.m && Wf.vr3 h vd va vb
  | .vcvtF32I32 h vd va => Wf.vr2 h vd va
  | .vcvtI32F32Rz h vd va => Wf.vr2 h vd va
  | .vcvtI32F32Rne h vd va => Wf.vr2 h vd va
  | .vcvtBf16F32 h vd va => Wf.vr2 h vd va
  | .vcvtF16F32 h vd va => Wf.vr2 h vd va
  | .vcvtE4m3F32 h vd va => Wf.vr2 h vd va
  | .vcvtE5m2F32 h vd va => Wf.vr2 h vd va
  | .vcvtF32Bf16 h vd va => Wf.vr2 h vd va
  | .vcvtF32F16 h vd va => Wf.vr2 h vd va
  | .vcvtF32E4m3 h vd va => Wf.vr2 h vd va
  | .vcvtF32E5m2 h vd va => Wf.vr2 h vd va
  | .vcvtI8F32 h vd va => Wf.vr2 h vd va
  | .vcvtF32I8 h vd va => Wf.vr2 h vd va
  | .vqntE2m1 h vd va vb => !h.m && Wf.vdst vd h && Wf.vsrc va h && Wf.vdst vb h && vd != vb
  | .vdqntE2m1 h vd va vb => !h.m && Wf.vr3 h vd va vb
  | .vredaddF32 h vd va => Wf.vr2 h vd va
  | .vredmaxF32 h vd va => Wf.vr2 h vd va
  | .vredaddI32 h vd va => Wf.vr2 h vd va
  | .vscanI32 h vd va => Wf.vr2 h vd va
  | .vperm h vd va vb => Wf.vr3 h vd va vb
  | .vrot h vd va _ => Wf.vr2 h vd va
  | .vbcast h vd va _ => Wf.vr2 h vd va
  | .viota h vd _ => Wf.vdst vd h
  | .vmovi h vd _ => Wf.vdst vd h
  | .vmov h vd va => Wf.vr2 h vd va
  | .vld h vd _ _ => Wf.vm h vd
  | .vst h vd _ _ => Wf.vm h vd
  | .vldfw h vd _ _ => Wf.vm h vd
  | .vstef h vd _ _ => Wf.vm h vd
  | .vgath h vd va => Wf.vdst vd h && Wf.vpair va h
  | .vscat h vd va => Wf.vsrc vd h && Wf.vpair va h
  | .vdefer h va c => Wf.vspan va h.step h.rpt c.toNat
  | .vdrain h vd c => !h.m && Wf.vspan vd h.step h.rpt c.toNat
  | .vseta _ off => off.toNat % 8 == 0
  | .vloop _ len _ => len != 0
  | .vloopq _ _ len => len != 0
  | .mlvl lv role trip =>
      decide (lv.toNat ≤ 5) && decide (role.toNat ≤ 4) && (if role == 0 then trip == 0 else trip != 0)
  | .mstra lv dim _ => decide (lv.toNat ≤ 5) && decide (dim.toNat ≤ 4)
  | .mstrb lv dim _ => decide (lv.toNat ≤ 5) && decide (dim.toNat ≤ 4)
  | .mstrc lv dim _ => decide (lv.toNat ≤ 5) && decide (dim.toNat ≤ 4)
  | .mbind _ t unb => !unb || t == 0
  | .mfmt fa fb mode _ _ _ _ => decide (fa.toNat ≤ 5) && decide (fb.toNat ≤ 5) && mode != 3
  | .mhld hsz _ => hsz != 3
  | .mdrain rpt _ o dmode all => Wf.order o && dmode != 3 && (!all || rpt == 0)
  | .mzero z0 z1 => z0 || z1
  | .xcopy _ _ _ _ o _ => Wf.order o
  | .xadd _ _ _ _ o => Wf.order o
  | .xgath _ _ _ _ _ o _ => Wf.order o
  | .xscat _ _ _ _ _ o => Wf.order o
  | .xfill _ _ _ o _ _ => Wf.order o
  | .xmove h _ _ _ => h.step == 0
  | .xtsrld rpt t _ _ => decide (t.toNat + rpt.toNat ≤ 63)
  | .xpatch _ _ fld _ _ _ => decide (fld.toNat ≤ 20)
  | .xrret _ _ _ _ o => Wf.order o
  | .xloop _ len _ => len != 0
  | .xloopq _ _ len => len != 0
  | .nop _ => true
  | .add _ _ _ _ => true
  | .sub _ _ _ _ => true
  | .mul _ _ _ _ => true
  | .mulh _ _ _ _ => true
  | .mulhu _ _ _ _ => true
  | .div _ _ _ _ => true
  | .divu _ _ _ _ => true
  | .rem _ _ _ _ => true
  | .remu _ _ _ _ => true
  | .and _ _ _ _ => true
  | .or _ _ _ _ => true
  | .xor _ _ _ _ => true
  | .andn _ _ _ _ => true
  | .shl _ _ _ _ => true
  | .shr _ _ _ _ => true
  | .sra _ _ _ _ => true
  | .min _ _ _ _ => true
  | .max _ _ _ _ => true
  | .minu _ _ _ _ => true
  | .maxu _ _ _ _ => true
  | .clz _ _ _ => true
  | .popc _ _ _ => true
  | .sel _ _ _ _ _ => true
  | .cmpeq _ _ _ _ => true
  | .cmpne _ _ _ _ => true
  | .cmplt _ _ _ _ => true
  | .cmple _ _ _ _ => true
  | .cmpltu _ _ _ _ => true
  | .cmpleu _ _ _ _ => true
  | .plog _ _ _ _ _ => true
  | .addi _ _ _ _ => true
  | .andi _ _ _ _ => true
  | .ori _ _ _ _ => true
  | .xori _ _ _ _ => true
  | .sethi _ _ _ => true
  | .addpc _ _ _ => true
  | .movi _ _ _ => true
  | .cmpeqi _ _ _ _ => true
  | .cmplti _ _ _ _ => true
  | .cmpltui _ _ _ _ => true
  | .ldfw _ _ _ _ _ _ _ => true
  | .ldfe _ _ _ _ _ _ _ => true
  | .stef _ _ _ _ _ _ _ => true
  | .stff _ _ _ _ => true
  | .purge _ _ _ => true
  | .tagrd _ _ _ _ _ => true
  | .waitc _ _ _ _ _ _ _ _ => true
  | .barr _ _ _ => true
  | .bwait _ _ _ _ _ => true
  | .bsync _ _ _ _ _ => true
  | .bwdr _ _ _ => true
  | .bcfg _ _ _ _ => true
  | .ewait _ _ _ _ _ _ => true
  | .eadd _ _ _ => true
  | .evcfg _ _ _ _ _ => true
  | .join _ _ _ _ _ => true
  | .sbind _ _ _ _ _ _ _ => true
  | .sfree _ _ _ => true
  | .halt _ => true
  | .br _ _ => true
  | .call _ _ => true
  | .callr _ _ => true
  | .jmpr _ _ => true
  | .ret _ => true
  | .seam _ _ _ _ _ => true
  | .thome _ _ _ => true
  | .spawn _ _ _ => true
  | .frrctlCommit _ _ => true
  | .frrselWrite _ _ => true
  | .xfinfoReplay _ _ => true
  | .kqpush _ _ _ => true
  | .tbctlEnableWrite _ _ => true
  | .rdtime _ _ => true
  | .rdctime _ _ => true
  | .eret _ => true
  | .dcf _ _ _ _ _ _ => true
  | .bkpt _ _ => true
  | .snapbc _ => true
  | .vnop _ => true
  | .vmact _ => true
  | .vsetdl _ => true
  | .vsetf _ => true
  | .vwaitf _ => true
  | .vrdv _ => true
  | .mnop _ => true
  | .msetf _ => true
  | .mwaitf _ => true
  | .mrdv _ => true
  | .msetdl _ => true
  | .xnop _ => true
  | .xstrm _ _ _ => true
  | .xroute _ _ _ _ => true
  | .xratRat _ _ _ => true
  | .xratRing _ _ _ => true
  | .xrcloseClose _ _ => true
  | .xrcloseRelease _ _ => true
  | .xcoll _ _ _ => true
  | .xdcf _ _ _ => true
  | .xsetf _ => true
  | .xwaitf _ => true
  | .xrdv _ => true
  | .xsetdl _ => true
  | .illegalOpcode _ _ => true
  | .vend => true
  | .mgo => true
  | .mend => true
  | .xend => true
  | .loadReply => true
  | .sliceServiceEvent => true
  | .ruleFiring => true
  | .loopqExpiry => true
  | .seamInstant => true
  | .ksrWriteDone => true
  | .handoverCommit => true
  | .handoverPolicy => true
  | .gatherLaneArrival => true
  | .irbLanding => true
  | .streamRowArrival => true
  | .streamTimeout => true
  | .tagWaitExpiry => true
  | .gatherWaitExpiry => true
  | .vsetaExpiry => true
  | .queueLoopExpiry => true
  | .rendezvousStopExpiry => true
  | .reductionStart => true
  | .accumulatorRetirement => true
  | .drainTileReadDone => true
  | .matrixWaitExpiry => true
  | .tileFetchReturn => true
  | .addressQueueRequest => true
  | .copyCommandCompletion => true
  | .commandWaitExpiry => true
  | .engineRun => true
  | .setfCommand => true
  | .waitfCommand => true
  | .waitfCommandExpiry => true
  | .deadlineExpiry => true
  | .moveClaim => true
  | .pageCommit => true
  | .moveFinalCommit => true
  | .claimPass => true
  | .heldWriteExpiry => true
  | .demandHalving => true
  | .adeDispatch => true
  | .adeChunkDone => true
  | .adeCompletion => true
  | .placementArrival => true
  | .answerArrival => true
  | .returnArrival => true
  | .xrouteDeadlineExpiry => true
  | .windowAutoClose => true
  | .wcFlush => true
  | .launchDoorbell => true
  | .launchAccept => true
  | .dispatch => true
  | .overlayLoadDone => true
  | .kernelEntry => true
  | .bootMailboxWrite => true
  | .preemptRequest => true
  | .preemptStop => true
  | .imageSaveDone => true
  | .restore => true
  | .completionRecord => true
  | .gangArm => true
  | .gangAckArrival => true
  | .gangDeadlineExpiry => true
  | .gangAbortMessage => true
  | .interrupt => true
  | .uncorrectableError => true
  | .unitRetire => true
  | .preciseStop => true
  | .traceTrigger => true
  | .hostRead => true
  | .hostWrite => true
  | .bar0RegisterWrite => true
  | .hcqerrOverrunClear => true
  | .createContext => true
  | .destroyContext => true
  | .register => true
  | .deregister => true
  | .suspend => true
  | .suspendStart => true
  | .suspendMessage => true
  | .collectiveQuiesceExpiry => true
  | .resume => true
  | .attest => true
  | .lctoken => true
  | .recover => true
  | .debugStop => true
  | .debugResume => true
  | .debugRead => true
  | .debugTrace => true
  | .setdev => true
  | .readst => true
  | .flitArrival => true
  | .collectivePieceArrival => true
  | .portTraining => true
  | .timeSync => true
  | .powerWindow => true
  | .railPointChange => true
  | .thermalSweep => true
  | .reset => true
  | .flagWaitExpiry => true
  | .slotLoadCompletion => true
  | .slotWriteExpiry => true
  | .parameterWordArrival => true
  | .streamBindExpiry => true
  | .ratBusyWaitExpiry => true
  | .countQueueRoomExpiry => true
  | .l2LineEviction => true
  | .hostWriteAcknowledgement => true
  | .imagePublication => true
  | .imageUnload => true

/-- The instruction's fields are legal (R72). -/
abbrev WellFormed (i : Instr) : Prop := wf i = true

end Sys2Proof
end

