-- ==== Sys2Proof/Decode.lean ====
section
/-! DEFINITION. Decoding of control words (64 bits) and engine words (48 bits), total on any bytes, and the encoder, both
from the tables of spec/03_encoding.md R44 to R72, spec/09_copy.md R179 to R193, spec/12_matrix.md R242 and
spec/13_route.md R280. A word decodes to the instruction its opcode and used fields name exactly when the encoder writes
the word back (so every reserved bit and every unused field is zero) and every field is legal (WellFormed). -/

namespace Sys2Proof

/-- A 48-bit engine word (R55). -/
abbrev W48 := BitVec 48

/-- Why bytes do not decode (R72); a whole word that does not decode traps ILLEGAL. -/
inductive DecodeError where
  /-- An opcode that R53 or R70 lists. -/
  | unassignedOpcode
  /-- A reserved bit, or a field the instruction does not use, is not zero. -/
  | reservedBits
  /-- A field holds a value that its rule does not allow. -/
  | illegalField
  /-- Fewer bytes than one word. -/
  | truncated
deriving DecidableEq, Repr

/-- The word of an instruction, with the map it belongs to. Event rows have none. -/
inductive Code where
  | control (w : W64)
  | vector (w : W48)
  | matrix (w : W48)
  | copy (w : W48)
  | event
deriving DecidableEq, Repr

namespace Enc

/-- A control word from its common fields and its format part (R44). -/
def ctl (op : BitVec 8) (g : Guard) (d a : Reg) (part : BitVec 39) : W64 :=
  op ++ g.pr ++ BitVec.ofBool g.pn ++ d ++ a ++ part
/-- Format CR (R45). -/
def fCr (b : Reg) (x : BitVec 4) : BitVec 39 := b ++ x ++ 0#29
/-- Format CI12 (R45). -/
def fCi12 (imm : BitVec 12) : BitVec 39 := 0#27 ++ imm
/-- Format CI20 (R45). -/
def fCi20 (imm : BitVec 20) : BitVec 39 := 0#19 ++ imm
/-- Format CI32 (R45). -/
def fCi32 (imm : BitVec 32) : BitVec 39 := 0#7 ++ imm
/-- Format CM (R45). -/
def fCm (b : Reg) (f : MemF) : BitVec 39 := b ++ f.ord ++ f.scope ++ f.sz ++ 0#13 ++ f.off
/-- Format CT (R45). -/
def fCt (b c : Reg) (e : Bool) (tgt : BitVec 14) (off : BitVec 12) : BitVec 39 := b ++ c ++ BitVec.ofBool e ++ tgt ++ off
/-- Format CA (R45). -/
def fCa (b c : Reg) (f : AtomF) : BitVec 39 := b ++ c ++ f.sz ++ f.ord ++ f.scope ++ 0#7 ++ f.off
/-- Format CB (R45). -/
def fCb (disp : BitVec 32) : BitVec 39 := 0#7 ++ disp
/-- Format CL (R45). -/
def fCl (lv : BitVec 3) (len : BitVec 16) (cnt : BitVec 20) : BitVec 39 := lv ++ len ++ cnt
/-- Format CE (R45). -/
def fCe (b c : Reg) (mask : BitVec 3) (rdv : BitVec 10) : BitVec 39 := b ++ c ++ mask ++ rdv ++ 0#14
/-- Format CS (R45). -/
def fCs (num : BitVec 16) : BitVec 39 := 0#23 ++ num

/-- A vector word (R56). -/
def vw (op : BitVec 7) (h : VH) (part : BitVec 30) : W48 := BitVec.ofBool h.m ++ op ++ h.step ++ h.rpt ++ part
/-- Format VR (R59). -/
def fVr (vd va vb : BitVec 10) : BitVec 30 := vd ++ va ++ vb
/-- Format VI (R59). -/
def fVi (vd : BitVec 10) (imm : BitVec 20) : BitVec 30 := vd ++ imm
/-- Format VM (R59). -/
def fVm (vd : BitVec 10) (ab : BitVec 3) (off : BitVec 17) : BitVec 30 := vd ++ ab ++ off
/-- Format VK (R59). -/
def fVk (md tt : BitVec 4) (va vb : BitVec 10) : BitVec 30 := md ++ tt ++ 0#2 ++ va ++ vb
/-- Format VC, the sequencer layout of all three engines (R59, R66). -/
def fVc (sel : BitVec 6) (imm : BitVec 24) : BitVec 30 := sel ++ imm
/-- A matrix or copy word (R56). -/
def mw (op : BitVec 8) (step : BitVec 4) (rpt : BitVec 6) (part : BitVec 30) : W48 := op ++ step ++ rpt ++ part
/-- The bits ACQ, REL and SCOPE of a transfer word (R179, R242). -/
def fOrder (o : Order) : BitVec 5 := BitVec.ofBool o.acq ++ BitVec.ofBool o.rel ++ o.scope
/-- The transfer layout (R179): TD, TS, CH, order, and the low eleven bits. -/
def fX (td ts : BitVec 6) (ch : BitVec 2) (o : Order) (low : BitVec 11) : BitVec 30 := td ++ ts ++ ch ++ fOrder o ++ low

end Enc

open Enc in
/-- The word of an instruction, written from the encoding tables. -/
def encode : Instr → Code
  | .nop g => .control (ctl 0x00 g 0 0 (fCr 0 0))
  | .add g d a b => .control (ctl 0x01 g d a (fCr b 0))
  | .sub g d a b => .control (ctl 0x02 g d a (fCr b 0))
  | .mul g d a b => .control (ctl 0x03 g d a (fCr b 0))
  | .mulh g d a b => .control (ctl 0x04 g d a (fCr b 0))
  | .mulhu g d a b => .control (ctl 0x05 g d a (fCr b 0))
  | .div g d a b => .control (ctl 0x06 g d a (fCr b 0))
  | .divu g d a b => .control (ctl 0x07 g d a (fCr b 0))
  | .rem g d a b => .control (ctl 0x08 g d a (fCr b 0))
  | .remu g d a b => .control (ctl 0x09 g d a (fCr b 0))
  | .and g d a b => .control (ctl 0x0A g d a (fCr b 0))
  | .or g d a b => .control (ctl 0x0B g d a (fCr b 0))
  | .xor g d a b => .control (ctl 0x0C g d a (fCr b 0))
  | .andn g d a b => .control (ctl 0x0D g d a (fCr b 0))
  | .shl g d a b => .control (ctl 0x0E g d a (fCr b 0))
  | .shr g d a b => .control (ctl 0x0F g d a (fCr b 0))
  | .sra g d a b => .control (ctl 0x10 g d a (fCr b 0))
  | .min g d a b => .control (ctl 0x11 g d a (fCr b 0))
  | .max g d a b => .control (ctl 0x12 g d a (fCr b 0))
  | .minu g d a b => .control (ctl 0x13 g d a (fCr b 0))
  | .maxu g d a b => .control (ctl 0x14 g d a (fCr b 0))
  | .clz g d a => .control (ctl 0x15 g d a (fCr 0 0))
  | .popc g d a => .control (ctl 0x16 g d a (fCr 0 0))
  | .sel g d a b x => .control (ctl 0x17 g d a (fCr b x))
  | .cmpeq g pd a b => .control (ctl 0x18 g (pd.setWidth 6) a (fCr b 0))
  | .cmpne g pd a b => .control (ctl 0x19 g (pd.setWidth 6) a (fCr b 0))
  | .cmplt g pd a b => .control (ctl 0x1A g (pd.setWidth 6) a (fCr b 0))
  | .cmple g pd a b => .control (ctl 0x1B g (pd.setWidth 6) a (fCr b 0))
  | .cmpltu g pd a b => .control (ctl 0x1C g (pd.setWidth 6) a (fCr b 0))
  | .cmpleu g pd a b => .control (ctl 0x1D g (pd.setWidth 6) a (fCr b 0))
  | .plog g pd pa pb tt => .control (ctl 0x1E g (pd.setWidth 6) (pa.setWidth 6) (fCr (pb.setWidth 6) tt))
  | .pmov g d a x => .control (ctl 0x1F g d a (fCr 0 x))
  | .addi g d a imm => .control (ctl 0x20 g d a (fCi12 imm))
  | .andi g d a imm => .control (ctl 0x21 g d a (fCi12 imm))
  | .ori g d a imm => .control (ctl 0x22 g d a (fCi12 imm))
  | .xori g d a imm => .control (ctl 0x23 g d a (fCi12 imm))
  | .shli g d a imm => .control (ctl 0x24 g d a (fCi12 imm))
  | .shri g d a imm => .control (ctl 0x25 g d a (fCi12 imm))
  | .srai g d a imm => .control (ctl 0x26 g d a (fCi12 imm))
  | .sethi g d imm => .control (ctl 0x27 g d 0 (fCi20 imm))
  | .addpc g d imm => .control (ctl 0x28 g d 0 (fCi20 imm))
  | .movi g d imm => .control (ctl 0x29 g d 0 (fCi32 imm))
  | .cmpeqi g pd a imm => .control (ctl 0x2A g (pd.setWidth 6) a (fCi12 imm))
  | .cmplti g pd a imm => .control (ctl 0x2B g (pd.setWidth 6) a (fCi12 imm))
  | .cmpltui g pd a imm => .control (ctl 0x2C g (pd.setWidth 6) a (fCi12 imm))
  | .ld g d a f => .control (ctl 0x30 g d a (fCm 0 f))
  | .ldu g d a f => .control (ctl 0x31 g d a (fCm 0 f))
  | .st g a b f => .control (ctl 0x32 g 0 a (fCm b f))
  | .ldfw g d a b c e off => .control (ctl 0x34 g d a (fCt b c e 0 off))
  | .ldfe g d a b c e off => .control (ctl 0x35 g d a (fCt b c e 0 off))
  | .stef g d a b c e off => .control (ctl 0x36 g d a (fCt b c e 0 off))
  | .stff g a b off => .control (ctl 0x37 g 0 a (fCt b 0 false 0 off))
  | .purge g a off => .control (ctl 0x38 g 0 a (fCt 0 0 false 0 off))
  | .tagrd g d a b off => .control (ctl 0x39 g d a (fCt b 0 false 0 off))
  | .aadd g d a b f => .control (ctl 0x40 g d a (fCa b 0 f))
  | .amin g d a b f => .control (ctl 0x41 g d a (fCa b 0 f))
  | .amax g d a b f => .control (ctl 0x42 g d a (fCa b 0 f))
  | .aminu g d a b f => .control (ctl 0x43 g d a (fCa b 0 f))
  | .amaxu g d a b f => .control (ctl 0x44 g d a (fCa b 0 f))
  | .aand g d a b f => .control (ctl 0x45 g d a (fCa b 0 f))
  | .aor g d a b f => .control (ctl 0x46 g d a (fCa b 0 f))
  | .axor g d a b f => .control (ctl 0x47 g d a (fCa b 0 f))
  | .axchg g d a b f => .control (ctl 0x48 g d a (fCa b 0 f))
  | .acas g d a b c f => .control (ctl 0x49 g d a (fCa b c f))
  | .afadd g d a b f => .control (ctl 0x4A g d a (fCa b 0 f))
  | .aincb g d a b c f => .control (ctl 0x4B g d a (fCa b c f))
  | .fence g d b c e scope eng => .control (ctl 0x50 g d 0 (fCt b c e (0#10 ++ BitVec.ofBool eng ++ scope) 0))
  | .waitc g d c e ld st cp tl => .control (ctl 0x51 g d 0 (fCt 0 c e (0#2 ++ tl ++ cp ++ st ++ ld) 0))
  | .barr g d bar => .control (ctl 0x52 g d 0 (fCt 0 0 false (0#4 ++ bar) 0))
  | .bwait g d c e bar => .control (ctl 0x53 g d 0 (fCt 0 c e (0#4 ++ bar) 0))
  | .bsync g d c e bar => .control (ctl 0x54 g d 0 (fCt 0 c e (0#4 ++ bar) 0))
  | .bwdr g d bar => .control (ctl 0x55 g d 0 (fCt 0 0 false (0#4 ++ bar) 0))
  | .bcfg g d b bar => .control (ctl 0x56 g d 0 (fCt b 0 false (0#4 ++ bar) 0))
  | .waitq g d a b c e off sz scope => .control (ctl 0x57 g d a (fCt b c e (0#10 ++ scope ++ BitVec.ofBool sz) off))
  | .wake g d a b off sz scope => .control (ctl 0x58 g d a (fCt b 0 false (0#10 ++ scope ++ BitVec.ofBool sz) off))
  | .qsend g d a b c e off scope => .control (ctl 0x59 g d a (fCt b c e (0#10 ++ scope ++ 0#1) off))
  | .qrecv g d a b c e off scope => .control (ctl 0x5A g d a (fCt b c e (0#10 ++ scope ++ 0#1) off))
  | .ewait g d b c e fl => .control (ctl 0x5B g d 0 (fCt b c e (0#8 ++ fl) 0))
  | .eadd g b fl => .control (ctl 0x5C g 0 0 (fCt b 0 false (0#8 ++ fl) 0))
  | .evcfg g d a off rule => .control (ctl 0x5D g d a (fCt 0 0 false (0#10 ++ rule) off))
  | .fork g d a c mask rdv => .control (ctl 0x60 g d a (fCe 0 c mask rdv))
  | .join g d c mask rdv => .control (ctl 0x61 g d 0 (fCe 0 c mask rdv))
  | .epushRun g d a b c mask => .control (ctl 0x62 g d a (fCe b c mask 0))
  | .epushSetf g d a b c mask => .control (ctl 0x62 g d a (fCe b c mask 0))
  | .epushWaitf g d a b c mask => .control (ctl 0x62 g d a (fCe b c mask 0))
  | .sbind g d c e q t ch => .control (ctl 0x63 g d 0 (fCt 0 c e (0#2 ++ ch ++ t ++ q) 0))
  | .sfree g d q => .control (ctl 0x64 g d 0 (fCt 0 0 false (0#10 ++ q) 0))
  | .halt g => .control (ctl 0x65 g 0 0 (fCr 0 0))
  | .br g disp => .control (ctl 0x70 g 0 0 (fCb disp))
  | .call g disp => .control (ctl 0x71 g 0 0 (fCb disp))
  | .callr g a => .control (ctl 0x72 g 0 a (fCr 0 0))
  | .jmpr g a => .control (ctl 0x73 g 0 a (fCr 0 0))
  | .ret g => .control (ctl 0x74 g 0 0 (fCr 0 0))
  | .loop g a lv len cnt => .control (ctl 0x75 g 0 a (fCl lv len cnt))
  | .loopq g k lv len => .control (ctl 0x76 g 0 (k.setWidth 6) (fCl lv len 0))
  | .lbrk g lv => .control (ctl 0x77 g 0 0 (fCl lv 0 0))
  | .seam g d c e idx => .control (ctl 0x78 g d 0 (fCt 0 c e idx 0))
  | .tlift g d a b x => .control (ctl 0x79 g d a (fCr b x))
  | .tdrop g d a b x => .control (ctl 0x7A g d a (fCr b x))
  | .thome g d a => .control (ctl 0x7B g d a (fCr 0 0))
  | .spawn g d a => .control (ctl 0x7C g d a (fCr 0 0))
  | .rdcsr g d num => .control (ctl 0x80 g d 0 (fCs num))
  | .wrcsr g a num => .control (ctl 0x81 g 0 a (fCs num))
  | .frrctlCommit g a => .control (ctl 0x81 g 0 a (fCs 0x214))
  | .frrselWrite g a => .control (ctl 0x81 g 0 a (fCs 0x210))
  | .xfinfoReplay g a => .control (ctl 0x81 g 0 a (fCs 0x202))
  | .kqpush g a k => .control (ctl 0x81 g 0 a (fCs (0x61#13 ++ k)))
  | .tbctlEnableWrite g a => .control (ctl 0x81 g 0 a (fCs 0x410))
  | .rdtime g d => .control (ctl 0x82 g d 0 (fCs 0))
  | .rdctime g d => .control (ctl 0x83 g d 0 (fCs 0))
  | .trap g num => .control (ctl 0x84 g 0 0 (fCs num))
  | .eret g => .control (ctl 0x85 g 0 0 (fCs 0))
  | .tlbinv g a num => .control (ctl 0x86 g 0 a (fCs num))
  | .dcf g d a c e off => .control (ctl 0x87 g d a (fCt 0 c e 0 off))
  | .cinv g a num => .control (ctl 0x88 g 0 a (fCs num))
  | .bkpt g num => .control (ctl 0x89 g 0 0 (fCs num))
  | .snapbc g => .control (ctl 0x8A g 0 0 (fCs 0))
  | .vnop rpt => .vector (vw 0x00 ⟨false, 0, rpt⟩ (fVr 0 0 0))
  | .vaddI32 h vd va vb => .vector (vw 0x01 h (fVr vd va vb))
  | .vsubI32 h vd va vb => .vector (vw 0x02 h (fVr vd va vb))
  | .vmulI32 h vd va vb => .vector (vw 0x03 h (fVr vd va vb))
  | .vmulhI32 h vd va vb => .vector (vw 0x04 h (fVr vd va vb))
  | .vminI32 h vd va vb => .vector (vw 0x05 h (fVr vd va vb))
  | .vmaxI32 h vd va vb => .vector (vw 0x06 h (fVr vd va vb))
  | .vminuI32 h vd va vb => .vector (vw 0x07 h (fVr vd va vb))
  | .vmaxuI32 h vd va vb => .vector (vw 0x08 h (fVr vd va vb))
  | .vand h vd va vb => .vector (vw 0x09 h (fVr vd va vb))
  | .vor h vd va vb => .vector (vw 0x0a h (fVr vd va vb))
  | .vxor h vd va vb => .vector (vw 0x0b h (fVr vd va vb))
  | .vshl h vd va vb => .vector (vw 0x0c h (fVr vd va vb))
  | .vshr h vd va vb => .vector (vw 0x0d h (fVr vd va vb))
  | .vsra h vd va vb => .vector (vw 0x0e h (fVr vd va vb))
  | .vaddsI32 h vd va vb => .vector (vw 0x0f h (fVr vd va vb))
  | .vsubsI32 h vd va vb => .vector (vw 0x10 h (fVr vd va vb))
  | .vaddI16x2 h vd va vb => .vector (vw 0x11 h (fVr vd va vb))
  | .vaddI8x4 h vd va vb => .vector (vw 0x12 h (fVr vd va vb))
  | .vdotI8x4 h vd va vb => .vector (vw 0x13 h (fVr vd va vb))
  | .vaddF32 h vd va vb => .vector (vw 0x18 h (fVr vd va vb))
  | .vsubF32 h vd va vb => .vector (vw 0x19 h (fVr vd va vb))
  | .vmulF32 h vd va vb => .vector (vw 0x1a h (fVr vd va vb))
  | .vfmaF32 h vd va vb => .vector (vw 0x1b h (fVr vd va vb))
  | .vminF32 h vd va vb => .vector (vw 0x1c h (fVr vd va vb))
  | .vmaxF32 h vd va vb => .vector (vw 0x1d h (fVr vd va vb))
  | .vrcpF32 h vd va => .vector (vw 0x1e h (fVr vd va 0))
  | .vrsqF32 h vd va => .vector (vw 0x1f h (fVr vd va 0))
  | .vexp2F32 h vd va => .vector (vw 0x20 h (fVr vd va 0))
  | .vlog2F32 h vd va => .vector (vw 0x21 h (fVr vd va 0))
  | .vabsF32 h vd va => .vector (vw 0x22 h (fVr vd va 0))
  | .vnegF32 h vd va => .vector (vw 0x23 h (fVr vd va 0))
  | .vfmaBf16x2 h vd va vb => .vector (vw 0x24 h (fVr vd va vb))
  | .vmaxabsF32 h vd va vb => .vector (vw 0x25 h (fVr vd va vb))
  | .vcmpeqI32 h md va vb => .vector (vw 0x28 h (fVk md 0 va vb))
  | .vcmpltI32 h md va vb => .vector (vw 0x29 h (fVk md 0 va vb))
  | .vcmpltuI32 h md va vb => .vector (vw 0x2a h (fVk md 0 va vb))
  | .vcmpeqF32 h md va vb => .vector (vw 0x2b h (fVk md 0 va vb))
  | .vcmpltF32 h md va vb => .vector (vw 0x2c h (fVk md 0 va vb))
  | .vcmpleF32 h md va vb => .vector (vw 0x2d h (fVk md 0 va vb))
  | .vcmpunF32 h md va vb => .vector (vw 0x2e h (fVk md 0 va vb))
  | .vmact md => .vector (vw 0x2f ⟨false, 0, 0⟩ (fVk md 0 0 0))
  | .vmlog h md tt ma mb => .vector (vw 0x30 h (fVk md tt (ma.setWidth 10) (mb.setWidth 10)))
  | .vsel h vd va vb => .vector (vw 0x31 h (fVr vd va vb))
  | .vcvtF32I32 h vd va => .vector (vw 0x38 h (fVr vd va 0))
  | .vcvtI32F32Rz h vd va => .vector (vw 0x39 h (fVr vd va 0))
  | .vcvtI32F32Rne h vd va => .vector (vw 0x3a h (fVr vd va 0))
  | .vcvtBf16F32 h vd va => .vector (vw 0x3b h (fVr vd va 0))
  | .vcvtF16F32 h vd va => .vector (vw 0x3c h (fVr vd va 0))
  | .vcvtE4m3F32 h vd va => .vector (vw 0x3d h (fVr vd va 0))
  | .vcvtE5m2F32 h vd va => .vector (vw 0x3e h (fVr vd va 0))
  | .vcvtF32Bf16 h vd va => .vector (vw 0x40 h (fVr vd va 0))
  | .vcvtF32F16 h vd va => .vector (vw 0x41 h (fVr vd va 0))
  | .vcvtF32E4m3 h vd va => .vector (vw 0x42 h (fVr vd va 0))
  | .vcvtF32E5m2 h vd va => .vector (vw 0x43 h (fVr vd va 0))
  | .vcvtI8F32 h vd va => .vector (vw 0x45 h (fVr vd va 0))
  | .vcvtF32I8 h vd va => .vector (vw 0x46 h (fVr vd va 0))
  | .vqntE2m1 h vd va vb => .vector (vw 0x3f h (fVr vd va vb))
  | .vdqntE2m1 h vd va vb => .vector (vw 0x44 h (fVr vd va vb))
  | .vredaddF32 h vd va => .vector (vw 0x48 h (fVr vd va 0))
  | .vredmaxF32 h vd va => .vector (vw 0x49 h (fVr vd va 0))
  | .vredaddI32 h vd va => .vector (vw 0x4a h (fVr vd va 0))
  | .vscanI32 h vd va => .vector (vw 0x4b h (fVr vd va 0))
  | .vperm h vd va vb => .vector (vw 0x4c h (fVr vd va vb))
  | .vrot h vd va n => .vector (vw 0x4d h (fVr vd va (n.setWidth 10)))
  | .vbcast h vd va n => .vector (vw 0x4e h (fVr vd va (n.setWidth 10)))
  | .viota h vd imm => .vector (vw 0x4f h (fVi vd imm))
  | .vmovi h vd imm => .vector (vw 0x50 h (fVi vd imm))
  | .vmov h vd va => .vector (vw 0x51 h (fVr vd va 0))
  | .vld h vd ab off => .vector (vw 0x58 h (fVm vd ab off))
  | .vst h vd ab off => .vector (vw 0x59 h (fVm vd ab off))
  | .vldfw h vd ab off => .vector (vw 0x5a h (fVm vd ab off))
  | .vstef h vd ab off => .vector (vw 0x5b h (fVm vd ab off))
  | .vgath h vd va => .vector (vw 0x5c h (fVr vd va 0))
  | .vscat h vd va => .vector (vw 0x5d h (fVr vd va 0))
  | .vdefer h va c => .vector (vw 0x60 h (fVr 0 va (c.setWidth 10)))
  | .vdrain h vd c => .vector (vw 0x61 h (fVr vd 0 (c.setWidth 10)))
  | .vseta n off => .vector (vw 0x68 ⟨false, 0, 0⟩ (fVc (n.setWidth 6) off))
  | .vsetdl dl => .vector (vw 0x69 ⟨false, 0, 0⟩ (fVc 0 dl))
  | .vsetf fl => .vector (vw 0x6a ⟨false, 0, 0⟩ (fVc fl 0))
  | .vwaitf fl => .vector (vw 0x6b ⟨false, 0, 0⟩ (fVc fl 0))
  | .vrdv id => .vector (vw 0x6c ⟨false, 0, 0⟩ (fVc 0 (id.setWidth 24)))
  | .vloop lev len trips => .vector (vw 0x6e ⟨false, 0, 0⟩ (fVc (lev.setWidth 6) (len ++ trips)))
  | .vloopq lev k len => .vector (vw 0x6f ⟨false, 0, 0⟩ (fVc (0#2 ++ k ++ lev) (len ++ 0#12)))
  | .mnop rpt => .matrix (mw 0x00 0 rpt (0))
  | .mlvl lv role trip => .matrix (mw 0x01 0 0 (lv ++ role ++ trip))
  | .mstra lv dim inc => .matrix (mw 0x02 0 0 (lv ++ dim ++ 0#12 ++ inc))
  | .mstrb lv dim inc => .matrix (mw 0x03 0 0 (lv ++ dim ++ 0#12 ++ inc))
  | .mstrc lv dim inc => .matrix (mw 0x04 0 0 (lv ++ dim ++ 0#12 ++ inc))
  | .mbind opnd t unb => .matrix (mw 0x05 0 0 (opnd ++ t ++ BitVec.ofBool unb ++ 0#21))
  | .mfmt fa fb mode spn blk acci bank => .matrix (mw 0x06 0 0 (fa ++ fb ++ mode ++ spn ++ BitVec.ofBool blk ++ BitVec.ofBool acci ++ BitVec.ofBool bank ++ 0#15))
  | .mhld hsz diag => .matrix (mw 0x07 0 0 (hsz ++ 0#12 ++ diag))
  | .mdrain rpt ch o dmode all => .matrix (mw 0x09 0 rpt (0#12 ++ ch ++ fOrder o ++ dmode ++ BitVec.ofBool all ++ 0#8))
  | .mzero z0 z1 => .matrix (mw 0x0a 0 0 (BitVec.ofBool z0 ++ BitVec.ofBool z1 ++ 0#28))
  | .msetf fl => .matrix (mw 0x0b 0 0 (fVc fl 0))
  | .mwaitf fl => .matrix (mw 0x0c 0 0 (fVc fl 0))
  | .mrdv id => .matrix (mw 0x0d 0 0 (fVc 0 (id.setWidth 24)))
  | .msetdl dl => .matrix (mw 0x0f 0 0 (fVc 0 dl))
  | .xnop rpt => .copy (mw 0x00 0 rpt (0))
  | .xcopy h td ts ch o tag => .copy (mw 0x01 h.step h.rpt (fX td ts ch o (BitVec.ofBool tag ++ 0#10)))
  | .xadd h td ts ch o => .copy (mw 0x02 h.step h.rpt (fX td ts ch o (0#11)))
  | .xgath h td ts ti ch o tag => .copy (mw 0x03 h.step h.rpt (fX td ts ch o (BitVec.ofBool tag ++ ti ++ 0#4)))
  | .xscat h td ts ti ch o => .copy (mw 0x04 h.step h.rpt (fX td ts ch o (0#1 ++ ti ++ 0#4)))
  | .xfill h td ch o tag pw => .copy (mw 0x0f h.step h.rpt (fX td 0 ch o (BitVec.ofBool tag ++ pw)))
  | .xmove h t npg ch => .copy (mw 0x05 h.step h.rpt (t ++ npg ++ ch ++ 0#6))
  | .xstrm q t ch => .copy (mw 0x06 0 0 (q ++ t ++ ch ++ 0#18))
  | .xtsrld rpt t ch pw => .copy (mw 0x07 0 rpt (t ++ 0#6 ++ ch ++ 0#6 ++ pw))
  | .xpatch h t fld add ch pw => .copy (mw 0x08 h.step h.rpt (t ++ fld ++ BitVec.ofBool add ++ ch ++ 0#6 ++ pw))
  | .xroute ts tq ch rat => .copy (mw 0x09 0 0 (ts ++ tq ++ ch ++ rat ++ 0#12))
  | .xrret h ts ring ch o => .copy (mw 0x0a h.step h.rpt (fX ts (ring ++ 0#2) ch o (0#11)))
  | .xratRat n ch pw => .copy (mw 0x0b 0 0 (0#2 ++ n ++ 0#6 ++ ch ++ 0#6 ++ pw))
  | .xratRing n ch pw => .copy (mw 0x0b 0 0 (1#2 ++ n ++ 0#6 ++ ch ++ 0#6 ++ pw))
  | .xrcloseClose ring ch => .copy (mw 0x0c 0 0 (0#2 ++ 0#4 ++ ring ++ 0#2 ++ ch ++ 0#16))
  | .xrcloseRelease ring ch => .copy (mw 0x0c 0 0 (1#2 ++ 0#4 ++ ring ++ 0#2 ++ ch ++ 0#16))
  | .xcoll rpt ch pw => .copy (mw 0x0d 0 rpt (0#12 ++ ch ++ 0#6 ++ pw))
  | .xdcf h t ch => .copy (mw 0x0e h.step h.rpt (t ++ 0#6 ++ ch ++ 0#16))
  | .xsetf fl => .copy (mw 0x10 0 0 (fVc fl 0))
  | .xwaitf fl => .copy (mw 0x11 0 0 (fVc fl 0))
  | .xrdv id => .copy (mw 0x12 0 0 (fVc 0 (id.setWidth 24)))
  | .xsetdl dl => .copy (mw 0x14 0 0 (fVc 0 dl))
  | .xloop lev len trips => .copy (mw 0x15 0 0 (fVc (lev.setWidth 6) (len ++ trips)))
  | .xloopq lev k len => .copy (mw 0x16 0 0 (fVc (0#2 ++ k ++ lev) (len ++ 0#12)))
  | .illegalOpcode _ _ => .event
  | .vend => .vector (vw 0x6d ⟨false, 0, 0⟩ (fVc 0 0))
  | .mgo => .matrix (mw 0x08 0 0 (0))
  | .mend => .matrix (mw 0x0e 0 0 (fVc 0 0))
  | .xend => .copy (mw 0x13 0 0 (fVc 0 0))
  | .loadReply => .event
  | .sliceServiceEvent => .event
  | .ruleFiring => .event
  | .loopqExpiry => .event
  | .seamInstant => .event
  | .ksrWriteDone => .event
  | .handoverCommit => .event
  | .handoverPolicy => .event
  | .gatherLaneArrival => .event
  | .irbLanding => .event
  | .streamRowArrival => .event
  | .streamTimeout => .event
  | .tagWaitExpiry => .event
  | .gatherWaitExpiry => .event
  | .vsetaExpiry => .event
  | .queueLoopExpiry => .event
  | .rendezvousStopExpiry => .event
  | .reductionStart => .event
  | .accumulatorRetirement => .event
  | .drainTileReadDone => .event
  | .matrixWaitExpiry => .event
  | .tileFetchReturn => .event
  | .addressQueueRequest => .event
  | .copyCommandCompletion => .event
  | .commandWaitExpiry => .event
  | .engineRun => .event
  | .setfCommand => .event
  | .waitfCommand => .event
  | .waitfCommandExpiry => .event
  | .deadlineExpiry => .event
  | .moveClaim => .event
  | .pageCommit => .event
  | .moveFinalCommit => .event
  | .claimPass => .event
  | .heldWriteExpiry => .event
  | .demandHalving => .event
  | .adeDispatch => .event
  | .adeChunkDone => .event
  | .adeCompletion => .event
  | .placementArrival => .event
  | .answerArrival => .event
  | .returnArrival => .event
  | .xrouteDeadlineExpiry => .event
  | .windowAutoClose => .event
  | .wcFlush => .event
  | .launchDoorbell => .event
  | .launchAccept => .event
  | .dispatch => .event
  | .overlayLoadDone => .event
  | .kernelEntry => .event
  | .bootMailboxWrite => .event
  | .preemptRequest => .event
  | .preemptStop => .event
  | .imageSaveDone => .event
  | .restore => .event
  | .completionRecord => .event
  | .gangArm => .event
  | .gangAckArrival => .event
  | .gangDeadlineExpiry => .event
  | .gangAbortMessage => .event
  | .interrupt => .event
  | .uncorrectableError => .event
  | .unitRetire => .event
  | .preciseStop => .event
  | .traceTrigger => .event
  | .hostRead => .event
  | .hostWrite => .event
  | .bar0RegisterWrite => .event
  | .hcqerrOverrunClear => .event
  | .createContext => .event
  | .destroyContext => .event
  | .register => .event
  | .deregister => .event
  | .suspend => .event
  | .suspendStart => .event
  | .suspendMessage => .event
  | .collectiveQuiesceExpiry => .event
  | .resume => .event
  | .attest => .event
  | .lctoken => .event
  | .recover => .event
  | .debugStop => .event
  | .debugResume => .event
  | .debugRead => .event
  | .debugTrace => .event
  | .setdev => .event
  | .readst => .event
  | .flitArrival => .event
  | .collectivePieceArrival => .event
  | .portTraining => .event
  | .timeSync => .event
  | .powerWindow => .event
  | .railPointChange => .event
  | .thermalSweep => .event
  | .reset => .event
  | .flagWaitExpiry => .event
  | .slotLoadCompletion => .event
  | .slotWriteExpiry => .event
  | .parameterWordArrival => .event
  | .streamBindExpiry => .event
  | .ratBusyWaitExpiry => .event
  | .countQueueRoomExpiry => .event
  | .l2LineEviction => .event
  | .hostWriteAcknowledgement => .event
  | .imagePublication => .event
  | .imageUnload => .event

/-! Fields of a control word (R44, R45). -/

namespace Dec

def fG (w : W64) : Guard := ⟨w.extractLsb' 52 4, w.getLsbD 51⟩
def fD (w : W64) : Reg := w.extractLsb' 45 6
def fA (w : W64) : Reg := w.extractLsb' 39 6
def fB (w : W64) : Reg := w.extractLsb' 33 6
def fC (w : W64) : Reg := w.extractLsb' 27 6
def fX (w : W64) : BitVec 4 := w.extractLsb' 29 4
def fE (w : W64) : Bool := w.getLsbD 26
def fTgt (w : W64) : BitVec 14 := w.extractLsb' 12 14
def fImm12 (w : W64) : BitVec 12 := w.extractLsb' 0 12
def fImm20 (w : W64) : BitVec 20 := w.extractLsb' 0 20
def fImm32 (w : W64) : BitVec 32 := w.extractLsb' 0 32
def fMem (w : W64) : MemF := ⟨w.extractLsb' 30 3, w.extractLsb' 27 3, w.extractLsb' 25 2, w.extractLsb' 0 12⟩
def fAtom (w : W64) : AtomF := ⟨w.extractLsb' 25 2, w.extractLsb' 22 3, w.extractLsb' 19 3, w.extractLsb' 0 12⟩
def fLv (w : W64) : BitVec 3 := w.extractLsb' 36 3
def fLen (w : W64) : BitVec 16 := w.extractLsb' 20 16
def fMask (w : W64) : BitVec 3 := w.extractLsb' 24 3
def fRdv (w : W64) : BitVec 10 := w.extractLsb' 14 10
def fNum (w : W64) : BitVec 16 := w.extractLsb' 0 16

/-! Fields of an engine word (R56, R59, R66). -/

def vH (w : W48) : VH := ⟨w.getLsbD 47, w.extractLsb' 36 4, w.extractLsb' 30 6⟩
def xH (w : W48) : XH := ⟨w.extractLsb' 36 4, w.extractLsb' 30 6⟩
def eRpt (w : W48) : BitVec 6 := w.extractLsb' 30 6
def vVd (w : W48) : BitVec 10 := w.extractLsb' 20 10
def vVa (w : W48) : BitVec 10 := w.extractLsb' 10 10
def vVb (w : W48) : BitVec 10 := w.extractLsb' 0 10
def vImm20 (w : W48) : BitVec 20 := w.extractLsb' 0 20
def vAb (w : W48) : BitVec 3 := w.extractLsb' 17 3
def vOff (w : W48) : BitVec 17 := w.extractLsb' 0 17
def vMd (w : W48) : BitVec 4 := w.extractLsb' 26 4
def vTt (w : W48) : BitVec 4 := w.extractLsb' 22 4
def eSel (w : W48) : BitVec 6 := w.extractLsb' 24 6
def eImm (w : W48) : BitVec 24 := w.extractLsb' 0 24
def eOrder (w : W48) : Order := ⟨w.getLsbD 15, w.getLsbD 14, w.extractLsb' 11 3⟩

/-- The row of a WRCSR word: five CSRs have a row of their own for their write. -/
def candidateWrcsr (g : Guard) (a : Reg) (num : BitVec 16) : Instr :=
  match num.toNat with
  | 0x202 => .xfinfoReplay g a
  | 0x210 => .frrselWrite g a
  | 0x214 => .frrctlCommit g a
  | 0x410 => .tbctlEnableWrite g a
  | n => if n / 8 = 0x61 then .kqpush g a (num.setWidth 3) else .wrcsr g a num

/-- The instruction that a control word's opcode and used fields name (R52). EPUSH is one row of R52 whose kind stands in
s[B] (R302): it reads as `epushRun`, and the step chooses the row when the kind is known. -/
def control (w : W64) : Option Instr :=
  match (w.extractLsb' 56 8).toNat with
  | 0x00 => some (.nop (fG w))
  | 0x01 => some (.add (fG w) (fD w) (fA w) (fB w))
  | 0x02 => some (.sub (fG w) (fD w) (fA w) (fB w))
  | 0x03 => some (.mul (fG w) (fD w) (fA w) (fB w))
  | 0x04 => some (.mulh (fG w) (fD w) (fA w) (fB w))
  | 0x05 => some (.mulhu (fG w) (fD w) (fA w) (fB w))
  | 0x06 => some (.div (fG w) (fD w) (fA w) (fB w))
  | 0x07 => some (.divu (fG w) (fD w) (fA w) (fB w))
  | 0x08 => some (.rem (fG w) (fD w) (fA w) (fB w))
  | 0x09 => some (.remu (fG w) (fD w) (fA w) (fB w))
  | 0x0A => some (.and (fG w) (fD w) (fA w) (fB w))
  | 0x0B => some (.or (fG w) (fD w) (fA w) (fB w))
  | 0x0C => some (.xor (fG w) (fD w) (fA w) (fB w))
  | 0x0D => some (.andn (fG w) (fD w) (fA w) (fB w))
  | 0x0E => some (.shl (fG w) (fD w) (fA w) (fB w))
  | 0x0F => some (.shr (fG w) (fD w) (fA w) (fB w))
  | 0x10 => some (.sra (fG w) (fD w) (fA w) (fB w))
  | 0x11 => some (.min (fG w) (fD w) (fA w) (fB w))
  | 0x12 => some (.max (fG w) (fD w) (fA w) (fB w))
  | 0x13 => some (.minu (fG w) (fD w) (fA w) (fB w))
  | 0x14 => some (.maxu (fG w) (fD w) (fA w) (fB w))
  | 0x15 => some (.clz (fG w) (fD w) (fA w))
  | 0x16 => some (.popc (fG w) (fD w) (fA w))
  | 0x17 => some (.sel (fG w) (fD w) (fA w) (fB w) (fX w))
  | 0x18 => some (.cmpeq (fG w) ((fD w).setWidth 4) (fA w) (fB w))
  | 0x19 => some (.cmpne (fG w) ((fD w).setWidth 4) (fA w) (fB w))
  | 0x1A => some (.cmplt (fG w) ((fD w).setWidth 4) (fA w) (fB w))
  | 0x1B => some (.cmple (fG w) ((fD w).setWidth 4) (fA w) (fB w))
  | 0x1C => some (.cmpltu (fG w) ((fD w).setWidth 4) (fA w) (fB w))
  | 0x1D => some (.cmpleu (fG w) ((fD w).setWidth 4) (fA w) (fB w))
  | 0x1E => some (.plog (fG w) ((fD w).setWidth 4) ((fA w).setWidth 4) ((fB w).setWidth 4) (fX w))
  | 0x1F => some (.pmov (fG w) (fD w) (fA w) (fX w))
  | 0x20 => some (.addi (fG w) (fD w) (fA w) (fImm12 w))
  | 0x21 => some (.andi (fG w) (fD w) (fA w) (fImm12 w))
  | 0x22 => some (.ori (fG w) (fD w) (fA w) (fImm12 w))
  | 0x23 => some (.xori (fG w) (fD w) (fA w) (fImm12 w))
  | 0x24 => some (.shli (fG w) (fD w) (fA w) (fImm12 w))
  | 0x25 => some (.shri (fG w) (fD w) (fA w) (fImm12 w))
  | 0x26 => some (.srai (fG w) (fD w) (fA w) (fImm12 w))
  | 0x27 => some (.sethi (fG w) (fD w) (fImm20 w))
  | 0x28 => some (.addpc (fG w) (fD w) (fImm20 w))
  | 0x29 => some (.movi (fG w) (fD w) (fImm32 w))
  | 0x2A => some (.cmpeqi (fG w) ((fD w).setWidth 4) (fA w) (fImm12 w))
  | 0x2B => some (.cmplti (fG w) ((fD w).setWidth 4) (fA w) (fImm12 w))
  | 0x2C => some (.cmpltui (fG w) ((fD w).setWidth 4) (fA w) (fImm12 w))
  | 0x30 => some (.ld (fG w) (fD w) (fA w) (fMem w))
  | 0x31 => some (.ldu (fG w) (fD w) (fA w) (fMem w))
  | 0x32 => some (.st (fG w) (fA w) (fB w) (fMem w))
  | 0x34 => some (.ldfw (fG w) (fD w) (fA w) (fB w) (fC w) (fE w) (fImm12 w))
  | 0x35 => some (.ldfe (fG w) (fD w) (fA w) (fB w) (fC w) (fE w) (fImm12 w))
  | 0x36 => some (.stef (fG w) (fD w) (fA w) (fB w) (fC w) (fE w) (fImm12 w))
  | 0x37 => some (.stff (fG w) (fA w) (fB w) (fImm12 w))
  | 0x38 => some (.purge (fG w) (fA w) (fImm12 w))
  | 0x39 => some (.tagrd (fG w) (fD w) (fA w) (fB w) (fImm12 w))
  | 0x40 => some (.aadd (fG w) (fD w) (fA w) (fB w) (fAtom w))
  | 0x41 => some (.amin (fG w) (fD w) (fA w) (fB w) (fAtom w))
  | 0x42 => some (.amax (fG w) (fD w) (fA w) (fB w) (fAtom w))
  | 0x43 => some (.aminu (fG w) (fD w) (fA w) (fB w) (fAtom w))
  | 0x44 => some (.amaxu (fG w) (fD w) (fA w) (fB w) (fAtom w))
  | 0x45 => some (.aand (fG w) (fD w) (fA w) (fB w) (fAtom w))
  | 0x46 => some (.aor (fG w) (fD w) (fA w) (fB w) (fAtom w))
  | 0x47 => some (.axor (fG w) (fD w) (fA w) (fB w) (fAtom w))
  | 0x48 => some (.axchg (fG w) (fD w) (fA w) (fB w) (fAtom w))
  | 0x49 => some (.acas (fG w) (fD w) (fA w) (fB w) (fC w) (fAtom w))
  | 0x4A => some (.afadd (fG w) (fD w) (fA w) (fB w) (fAtom w))
  | 0x4B => some (.aincb (fG w) (fD w) (fA w) (fB w) (fC w) (fAtom w))
  | 0x50 => some (.fence (fG w) (fD w) (fB w) (fC w) (fE w) ((fTgt w).extractLsb' 0 3) ((fTgt w).getLsbD 3))
  | 0x51 => some (.waitc (fG w) (fD w) (fC w) (fE w) ((fTgt w).extractLsb' 0 3) ((fTgt w).extractLsb' 3 3) ((fTgt w).extractLsb' 6 3) ((fTgt w).extractLsb' 9 3))
  | 0x52 => some (.barr (fG w) (fD w) ((fTgt w).extractLsb' 0 10))
  | 0x53 => some (.bwait (fG w) (fD w) (fC w) (fE w) ((fTgt w).extractLsb' 0 10))
  | 0x54 => some (.bsync (fG w) (fD w) (fC w) (fE w) ((fTgt w).extractLsb' 0 10))
  | 0x55 => some (.bwdr (fG w) (fD w) ((fTgt w).extractLsb' 0 10))
  | 0x56 => some (.bcfg (fG w) (fD w) (fB w) ((fTgt w).extractLsb' 0 10))
  | 0x57 => some (.waitq (fG w) (fD w) (fA w) (fB w) (fC w) (fE w) (fImm12 w) ((fTgt w).getLsbD 0) ((fTgt w).extractLsb' 1 3))
  | 0x58 => some (.wake (fG w) (fD w) (fA w) (fB w) (fImm12 w) ((fTgt w).getLsbD 0) ((fTgt w).extractLsb' 1 3))
  | 0x59 => some (.qsend (fG w) (fD w) (fA w) (fB w) (fC w) (fE w) (fImm12 w) ((fTgt w).extractLsb' 1 3))
  | 0x5A => some (.qrecv (fG w) (fD w) (fA w) (fB w) (fC w) (fE w) (fImm12 w) ((fTgt w).extractLsb' 1 3))
  | 0x5B => some (.ewait (fG w) (fD w) (fB w) (fC w) (fE w) ((fTgt w).extractLsb' 0 6))
  | 0x5C => some (.eadd (fG w) (fB w) ((fTgt w).extractLsb' 0 6))
  | 0x5D => some (.evcfg (fG w) (fD w) (fA w) (fImm12 w) ((fTgt w).extractLsb' 0 4))
  | 0x60 => some (.fork (fG w) (fD w) (fA w) (fC w) (fMask w) (fRdv w))
  | 0x61 => some (.join (fG w) (fD w) (fC w) (fMask w) (fRdv w))
  | 0x62 => some (.epushRun (fG w) (fD w) (fA w) (fB w) (fC w) (fMask w))
  | 0x63 => some (.sbind (fG w) (fD w) (fC w) (fE w) ((fTgt w).extractLsb' 0 4) ((fTgt w).extractLsb' 4 6) ((fTgt w).extractLsb' 10 2))
  | 0x64 => some (.sfree (fG w) (fD w) ((fTgt w).extractLsb' 0 4))
  | 0x65 => some (.halt (fG w))
  | 0x70 => some (.br (fG w) (fImm32 w))
  | 0x71 => some (.call (fG w) (fImm32 w))
  | 0x72 => some (.callr (fG w) (fA w))
  | 0x73 => some (.jmpr (fG w) (fA w))
  | 0x74 => some (.ret (fG w))
  | 0x75 => some (.loop (fG w) (fA w) (fLv w) (fLen w) (fImm20 w))
  | 0x76 => some (.loopq (fG w) ((fA w).setWidth 3) (fLv w) (fLen w))
  | 0x77 => some (.lbrk (fG w) (fLv w))
  | 0x78 => some (.seam (fG w) (fD w) (fC w) (fE w) (fTgt w))
  | 0x79 => some (.tlift (fG w) (fD w) (fA w) (fB w) (fX w))
  | 0x7A => some (.tdrop (fG w) (fD w) (fA w) (fB w) (fX w))
  | 0x7B => some (.thome (fG w) (fD w) (fA w))
  | 0x7C => some (.spawn (fG w) (fD w) (fA w))
  | 0x80 => some (.rdcsr (fG w) (fD w) (fNum w))
  | 0x81 => some (candidateWrcsr (fG w) (fA w) (fNum w))
  | 0x82 => some (.rdtime (fG w) (fD w))
  | 0x83 => some (.rdctime (fG w) (fD w))
  | 0x84 => some (.trap (fG w) (fNum w))
  | 0x85 => some (.eret (fG w))
  | 0x86 => some (.tlbinv (fG w) (fA w) (fNum w))
  | 0x87 => some (.dcf (fG w) (fD w) (fA w) (fC w) (fE w) (fImm12 w))
  | 0x88 => some (.cinv (fG w) (fA w) (fNum w))
  | 0x89 => some (.bkpt (fG w) (fNum w))
  | 0x8A => some (.snapbc (fG w))
  | _ => none

/-- The instruction that a vector word's opcode and used fields name (R67). -/
def vector (w : W48) : Option Instr :=
  match (w.extractLsb' 40 7).toNat with
  | 0x00 => some (.vnop (eRpt w))
  | 0x01 => some (.vaddI32 (vH w) (vVd w) (vVa w) (vVb w))
  | 0x02 => some (.vsubI32 (vH w) (vVd w) (vVa w) (vVb w))
  | 0x03 => some (.vmulI32 (vH w) (vVd w) (vVa w) (vVb w))
  | 0x04 => some (.vmulhI32 (vH w) (vVd w) (vVa w) (vVb w))
  | 0x05 => some (.vminI32 (vH w) (vVd w) (vVa w) (vVb w))
  | 0x06 => some (.vmaxI32 (vH w) (vVd w) (vVa w) (vVb w))
  | 0x07 => some (.vminuI32 (vH w) (vVd w) (vVa w) (vVb w))
  | 0x08 => some (.vmaxuI32 (vH w) (vVd w) (vVa w) (vVb w))
  | 0x09 => some (.vand (vH w) (vVd w) (vVa w) (vVb w))
  | 0x0A => some (.vor (vH w) (vVd w) (vVa w) (vVb w))
  | 0x0B => some (.vxor (vH w) (vVd w) (vVa w) (vVb w))
  | 0x0C => some (.vshl (vH w) (vVd w) (vVa w) (vVb w))
  | 0x0D => some (.vshr (vH w) (vVd w) (vVa w) (vVb w))
  | 0x0E => some (.vsra (vH w) (vVd w) (vVa w) (vVb w))
  | 0x0F => some (.vaddsI32 (vH w) (vVd w) (vVa w) (vVb w))
  | 0x10 => some (.vsubsI32 (vH w) (vVd w) (vVa w) (vVb w))
  | 0x11 => some (.vaddI16x2 (vH w) (vVd w) (vVa w) (vVb w))
  | 0x12 => some (.vaddI8x4 (vH w) (vVd w) (vVa w) (vVb w))
  | 0x13 => some (.vdotI8x4 (vH w) (vVd w) (vVa w) (vVb w))
  | 0x18 => some (.vaddF32 (vH w) (vVd w) (vVa w) (vVb w))
  | 0x19 => some (.vsubF32 (vH w) (vVd w) (vVa w) (vVb w))
  | 0x1A => some (.vmulF32 (vH w) (vVd w) (vVa w) (vVb w))
  | 0x1B => some (.vfmaF32 (vH w) (vVd w) (vVa w) (vVb w))
  | 0x1C => some (.vminF32 (vH w) (vVd w) (vVa w) (vVb w))
  | 0x1D => some (.vmaxF32 (vH w) (vVd w) (vVa w) (vVb w))
  | 0x1E => some (.vrcpF32 (vH w) (vVd w) (vVa w))
  | 0x1F => some (.vrsqF32 (vH w) (vVd w) (vVa w))
  | 0x20 => some (.vexp2F32 (vH w) (vVd w) (vVa w))
  | 0x21 => some (.vlog2F32 (vH w) (vVd w) (vVa w))
  | 0x22 => some (.vabsF32 (vH w) (vVd w) (vVa w))
  | 0x23 => some (.vnegF32 (vH w) (vVd w) (vVa w))
  | 0x24 => some (.vfmaBf16x2 (vH w) (vVd w) (vVa w) (vVb w))
  | 0x25 => some (.vmaxabsF32 (vH w) (vVd w) (vVa w) (vVb w))
  | 0x28 => some (.vcmpeqI32 (vH w) (vMd w) (vVa w) (vVb w))
  | 0x29 => some (.vcmpltI32 (vH w) (vMd w) (vVa w) (vVb w))
  | 0x2A => some (.vcmpltuI32 (vH w) (vMd w) (vVa w) (vVb w))
  | 0x2B => some (.vcmpeqF32 (vH w) (vMd w) (vVa w) (vVb w))
  | 0x2C => some (.vcmpltF32 (vH w) (vMd w) (vVa w) (vVb w))
  | 0x2D => some (.vcmpleF32 (vH w) (vMd w) (vVa w) (vVb w))
  | 0x2E => some (.vcmpunF32 (vH w) (vMd w) (vVa w) (vVb w))
  | 0x2F => some (.vmact (vMd w))
  | 0x30 => some (.vmlog (vH w) (vMd w) (vTt w) ((vVa w).setWidth 4) ((vVb w).setWidth 4))
  | 0x31 => some (.vsel (vH w) (vVd w) (vVa w) (vVb w))
  | 0x38 => some (.vcvtF32I32 (vH w) (vVd w) (vVa w))
  | 0x39 => some (.vcvtI32F32Rz (vH w) (vVd w) (vVa w))
  | 0x3A => some (.vcvtI32F32Rne (vH w) (vVd w) (vVa w))
  | 0x3B => some (.vcvtBf16F32 (vH w) (vVd w) (vVa w))
  | 0x3C => some (.vcvtF16F32 (vH w) (vVd w) (vVa w))
  | 0x3D => some (.vcvtE4m3F32 (vH w) (vVd w) (vVa w))
  | 0x3E => some (.vcvtE5m2F32 (vH w) (vVd w) (vVa w))
  | 0x3F => some (.vqntE2m1 (vH w) (vVd w) (vVa w) (vVb w))
  | 0x40 => some (.vcvtF32Bf16 (vH w) (vVd w) (vVa w))
  | 0x41 => some (.vcvtF32F16 (vH w) (vVd w) (vVa w))
  | 0x42 => some (.vcvtF32E4m3 (vH w) (vVd w) (vVa w))
  | 0x43 => some (.vcvtF32E5m2 (vH w) (vVd w) (vVa w))
  | 0x44 => some (.vdqntE2m1 (vH w) (vVd w) (vVa w) (vVb w))
  | 0x45 => some (.vcvtI8F32 (vH w) (vVd w) (vVa w))
  | 0x46 => some (.vcvtF32I8 (vH w) (vVd w) (vVa w))
  | 0x48 => some (.vredaddF32 (vH w) (vVd w) (vVa w))
  | 0x49 => some (.vredmaxF32 (vH w) (vVd w) (vVa w))
  | 0x4A => some (.vredaddI32 (vH w) (vVd w) (vVa w))
  | 0x4B => some (.vscanI32 (vH w) (vVd w) (vVa w))
  | 0x4C => some (.vperm (vH w) (vVd w) (vVa w) (vVb w))
  | 0x4D => some (.vrot (vH w) (vVd w) (vVa w) ((vVb w).setWidth 6))
  | 0x4E => some (.vbcast (vH w) (vVd w) (vVa w) ((vVb w).setWidth 6))
  | 0x4F => some (.viota (vH w) (vVd w) (vImm20 w))
  | 0x50 => some (.vmovi (vH w) (vVd w) (vImm20 w))
  | 0x51 => some (.vmov (vH w) (vVd w) (vVa w))
  | 0x58 => some (.vld (vH w) (vVd w) (vAb w) (vOff w))
  | 0x59 => some (.vst (vH w) (vVd w) (vAb w) (vOff w))
  | 0x5A => some (.vldfw (vH w) (vVd w) (vAb w) (vOff w))
  | 0x5B => some (.vstef (vH w) (vVd w) (vAb w) (vOff w))
  | 0x5C => some (.vgath (vH w) (vVd w) (vVa w))
  | 0x5D => some (.vscat (vH w) (vVd w) (vVa w))
  | 0x60 => some (.vdefer (vH w) (vVa w) ((vVb w).setWidth 2))
  | 0x61 => some (.vdrain (vH w) (vVd w) ((vVb w).setWidth 2))
  | 0x68 => some (.vseta ((eSel w).setWidth 3) (eImm w))
  | 0x69 => some (.vsetdl (eImm w))
  | 0x6A => some (.vsetf (eSel w))
  | 0x6B => some (.vwaitf (eSel w))
  | 0x6C => some (.vrdv ((eImm w).setWidth 10))
  | 0x6D => some (.vend)
  | 0x6E => some (.vloop ((eSel w).setWidth 1) ((eImm w).extractLsb' 12 12) ((eImm w).extractLsb' 0 12))
  | 0x6F => some (.vloopq ((eSel w).setWidth 1) ((eSel w).extractLsb' 1 3) ((eImm w).extractLsb' 12 12))
  | _ => none

/-- The instruction that a matrix word's opcode and used fields name (R68, R242). -/
def matrix (w : W48) : Option Instr :=
  match (w.extractLsb' 40 8).toNat with
  | 0x00 => some (.mnop (eRpt w))
  | 0x01 => some (.mlvl (w.extractLsb' 27 3) (w.extractLsb' 24 3) (w.extractLsb' 0 24))
  | 0x02 => some (.mstra (w.extractLsb' 27 3) (w.extractLsb' 24 3) (w.extractLsb' 0 12))
  | 0x03 => some (.mstrb (w.extractLsb' 27 3) (w.extractLsb' 24 3) (w.extractLsb' 0 12))
  | 0x04 => some (.mstrc (w.extractLsb' 27 3) (w.extractLsb' 24 3) (w.extractLsb' 0 12))
  | 0x05 => some (.mbind (w.extractLsb' 28 2) (w.extractLsb' 22 6) (w.getLsbD 21))
  | 0x06 => some (.mfmt (w.extractLsb' 26 4) (w.extractLsb' 22 4) (w.extractLsb' 20 2) (w.extractLsb' 18 2) (w.getLsbD 17) (w.getLsbD 16) (w.getLsbD 15))
  | 0x07 => some (.mhld (w.extractLsb' 28 2) (w.extractLsb' 0 16))
  | 0x08 => some (.mgo)
  | 0x09 => some (.mdrain (eRpt w) (w.extractLsb' 16 2) (eOrder w) (w.extractLsb' 9 2) (w.getLsbD 8))
  | 0x0A => some (.mzero (w.getLsbD 29) (w.getLsbD 28))
  | 0x0B => some (.msetf (eSel w))
  | 0x0C => some (.mwaitf (eSel w))
  | 0x0D => some (.mrdv ((eImm w).setWidth 10))
  | 0x0E => some (.mend)
  | 0x0F => some (.msetdl (eImm w))
  | _ => none

/-- The instruction that a copy word's opcode and used fields name (R69). -/
def copy (w : W48) : Option Instr :=
  match (w.extractLsb' 40 8).toNat with
  | 0x00 => some (.xnop (eRpt w))
  | 0x01 => some (.xcopy (xH w) (w.extractLsb' 24 6) (w.extractLsb' 18 6) (w.extractLsb' 16 2) (eOrder w) (w.getLsbD 10))
  | 0x02 => some (.xadd (xH w) (w.extractLsb' 24 6) (w.extractLsb' 18 6) (w.extractLsb' 16 2) (eOrder w))
  | 0x03 => some (.xgath (xH w) (w.extractLsb' 24 6) (w.extractLsb' 18 6) (w.extractLsb' 4 6) (w.extractLsb' 16 2) (eOrder w) (w.getLsbD 10))
  | 0x04 => some (.xscat (xH w) (w.extractLsb' 24 6) (w.extractLsb' 18 6) (w.extractLsb' 4 6) (w.extractLsb' 16 2) (eOrder w))
  | 0x05 => some (.xmove (xH w) (w.extractLsb' 24 6) (w.extractLsb' 8 16) (w.extractLsb' 6 2))
  | 0x06 => some (.xstrm (w.extractLsb' 26 4) (w.extractLsb' 20 6) (w.extractLsb' 18 2))
  | 0x07 => some (.xtsrld (eRpt w) (w.extractLsb' 24 6) (w.extractLsb' 16 2) (w.extractLsb' 0 10))
  | 0x08 => some (.xpatch (xH w) (w.extractLsb' 24 6) (w.extractLsb' 19 5) (w.getLsbD 18) (w.extractLsb' 16 2) (w.extractLsb' 0 10))
  | 0x09 => some (.xroute (w.extractLsb' 24 6) (w.extractLsb' 18 6) (w.extractLsb' 16 2) (w.extractLsb' 12 4))
  | 0x0A => some (.xrret (xH w) (w.extractLsb' 24 6) (w.extractLsb' 20 4) (w.extractLsb' 16 2) (eOrder w))
  | 0x0B => some (if w.getLsbD 28 then .xratRing (w.extractLsb' 24 4) (w.extractLsb' 16 2) (w.extractLsb' 0 10) else .xratRat (w.extractLsb' 24 4) (w.extractLsb' 16 2) (w.extractLsb' 0 10))
  | 0x0C => some (if w.getLsbD 28 then .xrcloseRelease (w.extractLsb' 20 4) (w.extractLsb' 16 2) else .xrcloseClose (w.extractLsb' 20 4) (w.extractLsb' 16 2))
  | 0x0D => some (.xcoll (eRpt w) (w.extractLsb' 16 2) (w.extractLsb' 0 10))
  | 0x0E => some (.xdcf (xH w) (w.extractLsb' 24 6) (w.extractLsb' 16 2))
  | 0x0F => some (.xfill (xH w) (w.extractLsb' 24 6) (w.extractLsb' 16 2) (eOrder w) (w.getLsbD 10) (w.extractLsb' 0 10))
  | 0x10 => some (.xsetf (eSel w))
  | 0x11 => some (.xwaitf (eSel w))
  | 0x12 => some (.xrdv ((eImm w).setWidth 10))
  | 0x13 => some (.xend)
  | 0x14 => some (.xsetdl (eImm w))
  | 0x15 => some (.xloop ((eSel w).setWidth 1) ((eImm w).extractLsb' 12 12) ((eImm w).extractLsb' 0 12))
  | 0x16 => some (.xloopq ((eSel w).setWidth 1) ((eSel w).extractLsb' 1 3) ((eImm w).extractLsb' 12 12))
  | _ => none

/-- A candidate stands when it encodes to the word itself and its fields are legal (R72). -/
def check (cand : Option Instr) (word : Code) : Except DecodeError Instr :=
  match cand with
  | none => .error .unassignedOpcode
  | some i => if encode i = word then (if wf i then .ok i else .error .illegalField) else .error .reservedBits

end Dec

/-- Decode a control word (R44, R72). -/
def decodeControl (w : W64) : Except DecodeError Instr := Dec.check (Dec.control w) (.control w)
/-- Decode a vector word (R56, R72). -/
def decodeVector (w : W48) : Except DecodeError Instr := Dec.check (Dec.vector w) (.vector w)
/-- Decode a matrix word (R56, R72). -/
def decodeMatrix (w : W48) : Except DecodeError Instr := Dec.check (Dec.matrix w) (.matrix w)
/-- Decode a copy word (R56, R72). -/
def decodeCopy (w : W48) : Except DecodeError Instr := Dec.check (Dec.copy w) (.copy w)

/-- Decode an engine word by the sequencer that fetches it (R55). -/
def decodeEngine (sq : Seq) (w : W48) : Except DecodeError Instr :=
  match sq with
  | .control => .error .unassignedOpcode
  | .matrix => decodeMatrix w
  | .vector => decodeVector w
  | .copy => decodeCopy w

/-- Decode a word by the map it belongs to; an event row has no word. -/
def decodeCode (c : Code) : Except DecodeError Instr :=
  match c with
  | .control w => decodeControl w
  | .vector w => decodeVector w
  | .matrix w => decodeMatrix w
  | .copy w => decodeCopy w
  | .event => .error .truncated

/-- The row as which an instruction's word is read: one word stands for the three rows of EPUSH, whose kind stands in s[B] (R302). -/
def wordRow : Instr → Instr
  | .epushSetf g d a b c mask => .epushRun g d a b c mask
  | .epushWaitf g d a b c mask => .epushRun g d a b c mask
  | i => i

/-! Words and bytes: little-endian (R3, R44, R55). -/

/-- The number that bytes hold, the first lowest. -/
def bytesToNat : List Byte → Nat
  | [] => 0
  | b :: r => b.toNat + 256 * bytesToNat r

/-- The low n bytes of a number, the lowest first. -/
def natToBytes : Nat → Nat → List Byte
  | 0, _ => []
  | n + 1, v => BitVec.ofNat 8 v :: natToBytes n (v / 256)

/-- Decode the first control word of bytes and return the rest (R44). -/
def decodeControlBytes (bs : List Byte) : Except DecodeError (Instr × List Byte) :=
  if bs.length < 8 then .error .truncated
  else (decodeControl (BitVec.ofNat 64 (bytesToNat (bs.take 8)))).map (fun i => (i, bs.drop 8))

/-- Decode the first engine word of bytes and return the rest (R55). -/
def decodeEngineBytes (sq : Seq) (bs : List Byte) : Except DecodeError (Instr × List Byte) :=
  if bs.length < 6 then .error .truncated
  else (decodeEngine sq (BitVec.ofNat 48 (bytesToNat (bs.take 6)))).map (fun i => (i, bs.drop 6))

/-- The sequencer whose map a 48-bit table word is read with: vector, else matrix, else copy (DESIGN CHOICE, log 13). -/
def tableSeq (w : W48) : Seq :=
  match decodeVector w with
  | .ok _ => .vector
  | .error _ => (match decodeMatrix w with | .ok _ => .matrix | .error _ => .copy)

/-- The instruction that the decoder reads from a table word of nbits bits: more than 48 bits is a control word, otherwise an
engine word (DESIGN CHOICE, log 13). -/
def decodeTableWord (nbits w : Nat) : Option Instr :=
  if 48 < nbits then
    (match decodeControlBytes (natToBytes 8 w) with | .ok (i, _) => some i | .error _ => none)
  else
    (match decodeEngineBytes (tableSeq (BitVec.ofNat 48 w)) (natToBytes 6 w) with | .ok (i, _) => some i | .error _ => none)

end Sys2Proof
end

