-- ==== Sys2Proof/Machine/Bits.lean ====
section
/-! DEFINITION. Bit-field, sign-extension and byte-order helpers. -/

namespace Sys2Proof.Machine

/-- Bits [hi:lo] of a 64-bit word as a number (R3). -/
def bits (w : W64) (hi lo : Nat) : Nat := (w.toNat / 2 ^ lo) % 2 ^ (hi + 1 - lo)

/-- Bit n of a 64-bit word. -/
def bit (w : W64) (n : Nat) : Bool := w.getLsbD n

/-- Sext(x, n) to 64 bits (R5). -/
def sext64 {n : Nat} (x : BitVec n) : W64 := x.signExtend 64

/-- Zext(x, n) to 64 bits (R5). -/
def zext64 {n : Nat} (x : BitVec n) : W64 := x.setWidth 64

/-- The number that little-endian bytes hold (R3). -/
def leNat : List Byte → Nat
  | [] => 0
  | b :: r => b.toNat + 256 * leNat r

/-- The low n bytes of a number, little-endian (R3). -/
def leBytes : Nat → Nat → List Byte
  | 0, _ => []
  | n + 1, v => BitVec.ofNat 8 v :: leBytes n (v / 256)

/-- n bytes from offset o of a byte string, as a number; bytes past the end read as zero. -/
def field (bs : List Byte) (o n : Nat) : Nat := leNat ((bs.drop o).take n)

/-- n bytes from offset o as a 64-bit word. -/
def field64 (bs : List Byte) (o n : Nat) : W64 := BitVec.ofNat 64 (field bs o n)

/-- Every byte of a string is zero. -/
def allZero (bs : List Byte) : Bool := bs.all (fun b => b == 0)

/-- n zero bytes. -/
def zeros (n : Nat) : List Byte := List.replicate n 0

/-- Replace the bytes of a string from offset o. -/
def splice (bs : List Byte) (o : Nat) (new : List Byte) : List Byte :=
  bs.take o ++ new ++ bs.drop (o + new.length)

/-- Replace element i of a list. -/
def listSet {α : Type} : List α → Nat → α → List α
  | [], _, _ => []
  | _ :: r, 0, v => v :: r
  | x :: r, n + 1, v => x :: listSet r n v

/-- Element i of a list, d past the end. -/
def listGet {α : Type} (d : α) : List α → Nat → α
  | [], _ => d
  | x :: _, 0 => x
  | _ :: r, n + 1 => listGet d r n

/-- Round n up to a multiple of m (m above 0). -/
def roundUp (n m : Nat) : Nat := (n + m - 1) / m * m

end Sys2Proof.Machine
end

