-- ==== Sys2Proof/Machine/State.lean ====
section
/-! DEFINITION. The state of the machine: every piece of state the spec gives it, as plain data (INVENTORY.md, State), its
faults and refusals, and the state after reset. -/

namespace Sys2Proof.Machine

/-- Why a step stops with a fault. -/
inductive Fault where
  /-- Raised by no meaning; kept for a physical address that no range of spec/08 R149 holds, were one to reach memory. Safe: the
  model stops where the spec gives no memory. -/
  | noSuchMemory
deriving DecidableEq, Repr

/-- Why a step is refused. -/
inductive Refusal where
  /-- The arm of an instruction that has no meaning yet, raised by Dispatch alone. Safe: nothing is claimed of it. -/
  | notModelled (mnemonic : String)
deriving DecidableEq, Repr

/-! ## Scalar state -/

/-- A control loop level l0-l3 (R41, R294). `order` is its activation number (R295). -/
structure Loop where
  count : W64 := 0
  start : W64 := 0
  len : BitVec 16 := 0
  act : Bool := false
  order : Nat := 0
deriving DecidableEq, Repr

/-- The registers of the control sequencer (R41, R44); `bad` and `badp` mark the poisoned scalar and predicate registers (R406); `late` lists the
registers that a word may not yet read, each with the cycles still to pass (R288). -/
structure Ctl where
  s : Vector W64 64 := Vector.replicate 64 0
  p : Vector Bool 16 := Vector.replicate 16 false
  loops : Vector Loop 4 := Vector.replicate 4 {}
  pc : W64 := 0
  bad : BitVec 64 := 0
  badp : BitVec 16 := 0
  late : List (Reg × Nat) := []
deriving DecidableEq, Repr

/-- The control and engine CSRs of an executor that software reads whole (R312, R313, R393, R151, R155, R285, R382, R129). -/
structure Csr where
  tocnt : BitVec 16 := 0
  dbgp : Bool := false
  lqto : Bool := false
  sup : Bool := false
  hovers : BitVec 16 := 0
  opt : BitVec 2 := 3
  cause : W64 := 0
  epc : W64 := 0
  dlmax : W32 := 1000000
  toesc : BitVec 16 := 16
  maxred : BitVec 16 := 8192
  spwin : BitVec 34 := 0
  tseg : W64 := 0
  tpos : W64 := 0
  tval : W64 := 0
  tvec : W64 := 0
  tctl : BitVec 2 := 0
  sscr : Vector W64 4 := Vector.replicate 4 0
  mpace : BitVec 12 := 0
  vpace : BitVec 12 := 0
  xpace : BitVec 12 := 0
  estat : W64 := 0
deriving DecidableEq, Repr

/-- The memory and routing CSRs of an executor (R151, R155, R153, R285, R382). -/
structure Csr2 where
  ptroot : W64 := 0
  xfaddr : W64 := 0
  xfinfo : BitVec 8 := 0
  frrsel : BitVec 8 := 0
  frrbase : W64 := 0
  frrlim : W64 := 0
  frrscb : W64 := 0
  rrdepth : BitVec 3 := 0
  ratlate : W32 := 0
  rttbase : W64 := 0
  rttsz : BitVec 13 := 0
  kqovf : BitVec 8 := 0
  lgen : BitVec 22 := 0
  lnode : BitVec 12 := 0
deriving DecidableEq, Repr

/-- The debug CSRs of an executor (R442). -/
structure CsrD where
  dbgctl : BitVec 5 := 0
  bcbase : W64 := 0
  bcctl : W32 := 0
  bccnt : W64 := 0
  bcsel : BitVec 9 := 0
  slbase : W64 := 0
  slctl : W64 := 0
  slhead : W64 := 0
  tbctl : W32 := 0
  tbtrig : W64 := 0
  tbidx : BitVec 12 := 0
  dstops : Vector W64 4 := Vector.replicate 4 0
  dstopc : Vector W32 4 := Vector.replicate 4 0
deriving DecidableEq, Repr

/-! ## Waits and replies of the control sequencer -/

/-- A command of an engine command queue; a WAITF holds the promised count recorded at push (R298). -/
inductive Cmd where
  | run (seg param : W64) (group : Option Nat)
  | setf (fl : BitVec 6)
  | waitf (fl : BitVec 6) (promised : W32)
deriving DecidableEq, Repr

/-- An outstanding operation (R340): a request, command, gather or MGO by number, or a row of a stream's binding. -/
inductive OpId where
  | num (n : Nat)
  | row (bind r : Nat)
deriving DecidableEq, Repr

/-- What a waiting control word waits for and what its outcomes do (R317, R319). -/
inductive WKind where
  /-- LDFW 0, LDFE 1, STEF 2 (R230): its place among the word's waiters holds the rest; address, data register. -/
  | tagged (op : Nat) (va : W64) (dst : Reg)
  /-- FENCE (R342): the operations it waits for, the flushed writes that are to be served and acknowledged, scope, count register. -/
  | fence (ids : List OpId) (flushed : List Nat) (scope : BitVec 3) (b : Reg)
  /-- WAITC (R341): thresholds. -/
  | waitc (ld st cp tl : BitVec 3)
  | bwait (bar : Nat)
  | bsync (bar : Nat)
  /-- WAITQ (R337): place at the slice's queue of the word, scope. -/
  | waitq (pa place : Nat) (scope : BitVec 3)
  /-- QSEND (R339): header, message, place among the senders, scope. -/
  | qsend (pa : Nat) (msg : W64) (place : Nat) (scope : BitVec 3)
  /-- QRECV (R339): header and its address, data register, place among the receivers, scope. -/
  | qrecv (pa : Nat) (va : W64) (dst : Reg) (place : Nat) (scope : BitVec 3)
  /-- EWAIT (R328): flag, count claimed. -/
  | ewait (fl : BitVec 6) (k : Nat)
  /-- FORK and EPUSH (R301, R302): engines, commands by engine, rendezvous id of a FORK, the earlier stores. -/
  | push (mask : BitVec 3) (cmds : List (Nat × Cmd)) (rdv : Option (BitVec 10)) (ids : List Nat)
  /-- JOIN (R303): group number, engines. -/
  | join (group : Nat) (mask : BitVec 3)
  /-- LOOPQ (R296). -/
  | loopq (k lv : BitVec 3) (len : BitVec 16)
  /-- SBIND (R190). -/
  | sbind (q : BitVec 4) (t : BitVec 6) (ch : BitVec 2)
  /-- DCF (R159): page, the writes it waits for by executor and number, lines joined. -/
  | dcf (page : Nat) (ids : List (Nat × Nat))
  /-- SEAM (R131): seam table index. -/
  | seam (idx : Nat)
  /-- TLBINV (R152): the requests numbered below this one are still to reach their slices, those of every context or of its own. -/
  | tlbinv (below : Nat) (all : Bool)
deriving DecidableEq, Repr

/-- A waiting control word: context time at its start, effective deadline, whether it polls, E, status register, kind. -/
structure CWait where
  t0 : W64 := 0
  dl : Nat := 0
  poll : Bool := false
  e : Bool := false
  d : Reg := 0
  kind : WKind
deriving DecidableEq, Repr

/-- What a reply that a control word awaits will do (R472). -/
inductive PKind where
  /-- LD, LDU: address, size, sign extension, acquire, SO page, scratchpad window. -/
  | load (pa size : Nat) (signed acq so win : Bool)
  /-- An atomic not yet served at its slice: the request's number. -/
  | atomic (id : Nat) (acq : Bool)
  /-- A reply on its way: the value, whether the word acquires. -/
  | value (v : W64) (acq : Bool)
  /-- A POISON reply on its way. -/
  | poisoned
  /-- SPAWN (R381): descriptor address. -/
  | spawn (va : W64)
deriving DecidableEq, Repr

/-- A control word whose reply has not arrived, the state to which a POISON reply returns, and the loop levels whose ends are held with it, with
the snapshots they take, each with the slot of its word (R431, R472). -/
structure Pend where
  kind : PKind
  d : Reg
  va : W64
  saved : Ctl
  snaps : List (Nat × Nat) := []
deriving DecidableEq, Repr

/-- The kind of a memory request (R163, R348). -/
inductive ReqKind where
  | store (data : List Byte)
  | atomic (op : Nat) (size : Nat) (b c : W64)
  /-- One lane of VSCAT (R233). -/
  | scatter (data : List Byte)
  /-- Consecutive adds of XADD or MDRAIN (R182): INT32 or FP32, the addends. -/
  | add (int : Bool) (v : List W32)
  /-- An EADD whose V rises once the earlier stores are served (R329): flag and count. -/
  | eadd (fl : BitVec 6) (k : Nat)
  /-- A snapshot record written in order (R432, R433): its address, whether SNAPBC took it, its bytes. -/
  | record (va : W64) (snap : Bool) (data : List Byte)
deriving DecidableEq, Repr

/-- Poisoned bytes among those that a read or a write carries: runs of offset and length (R174, R405). -/
abbrev Marks := List (Nat × Nat)

/-- A request on its way to its slice or bank: number; physical address (bit 51 the view), or the byte of executor `spad`'s
scratchpad; kind; agent (sequencer and channel); the command or scatter it belongs to; release and scope; SO page; host range; whether a scratchpad write sets
tags; poisoned bytes to mark; the format tag and side bytes of the blocks at offsets of a copy of a scaled line; runs of bytes between its first and last that it
does not write. -/
structure Req where
  id : Nat := 0
  pa : Nat := 0
  spad : Option Nat := none
  kind : ReqKind := .store []
  sq : Seq := .control
  ch : Nat := 0
  op : Option Nat := none
  rel : Bool := false
  scope : BitVec 3 := 0
  so : Bool := false
  host : Bool := false
  tag : Bool := false
  marks : Marks := []
  side : List (Nat × BitVec 4 × List Byte) := []
  holes : Marks := []
deriving DecidableEq, Repr

/-- An entry of a write-combining buffer (R353). -/
structure WcEnt where
  id : Nat := 0
  pa : Nat := 0
  data : List Byte := []
  t0 : W64 := 0
  sq : Seq := .control
  op : Option Nat := none
deriving DecidableEq, Repr

/-- A host write that has been served and that the host's memory has not acknowledged (R348, R353): its request, its executor and sequencer, and
the number of the operation that it belongs to. -/
structure Ack where
  id : Nat := 0
  ex : Nat := 0
  sq : Seq := .control
  op : Nat := 0
deriving DecidableEq, Repr

/-! ## Synchronisation state -/

/-- An event-crossbar rule (R330): the 32 bytes of its descriptor. -/
structure Rule where
  terms : List Byte := []
  armed : Bool := false
  engine : BitVec 2 := 0
  seg : W64 := 0
  param : W64 := 0
deriving DecidableEq, Repr

/-- The debug unit of an executor: conflict cells, schedule-log buffer, branch outcomes held, trace buffer, records still to take
after its trigger, records since the last TIME (R429, R436, R438, R439); the stalls that have begun, by sequencer, with REASON and slot, and how
many have ended (R288, R436; DESIGN CHOICE, log 32); the requester that each bank's port 1 served last (R429). -/
structure Dbg where
  cells : Tbl Nat := []
  slbuf : List (List Byte) := []
  brOut : List Bool := []
  tb : List (List Byte) := []
  post : Option Nat := none
  sinceTime : Nat := 0
  stall : List (Seq × Nat × Nat) := []
  stalled : Nat := 0
  last : Tbl Nat := []
deriving DecidableEq, Repr

/-- The part of a barrier that a context keeps, with the unit whose object counted its arrival (R333, R417). -/
structure BarLoc where
  arr : Bool := false
  unit : Nat := 0
  ph : Bool := false
deriving DecidableEq, Repr

/-- A member segment of a rendezvous group (R303). -/
structure Member where
  sq : Seq
  ended : Bool := false
deriving DecidableEq, Repr

/-- An open rendezvous group: its number (1024 times a fresh number plus its id), its id and its members (R303). -/
structure Group where
  num : Nat := 0
  id : BitVec 10 := 0
  members : List Member := []
deriving DecidableEq, Repr

/-- Flags, barriers, rules, count queues, command queues and groups of an executor; a poisoned count-queue entry is none, and
`bad` marks the poisoned event counters (R406). -/
structure Sync where
  v : Vector W32 64 := Vector.replicate 64 0
  p : Vector W32 64 := Vector.replicate 64 0
  rules : Tbl Rule := []
  bars : Tbl BarLoc := []
  kq : Vector (List (Option W32)) 8 := Vector.replicate 8 []
  xq : List Cmd := []
  mq : List Cmd := []
  vq : List Cmd := []
  groups : List Group := []
  bad : BitVec 64 := 0
deriving DecidableEq, Repr

/-! ## Memory system -/

/-- An L2 cache-way line of one view: 128 bytes, a dirty bit and a poison mark for each sector, the format tag and side bytes
of the sideband (R153, R157, R405). -/
structure Line where
  data : List Byte := []
  dirty : BitVec 4 := 0
  poison : BitVec 4 := 0
  tag : BitVec 4 := 0xF
  side : List Byte := []
  sideDirty : Bool := false
deriving DecidableEq, Repr

/-- The format tag and side bytes held beside a Bud or Root line (R468). -/
structure Side where
  tag : BitVec 4 := 0xF
  bytes : List Byte := []
deriving DecidableEq, Repr

/-- A format range register of a memory controller (R155). -/
structure Frr where
  en : Bool := false
  fmt : BitVec 4 := 0
  blk : Bool := false
  base : W64 := 0
  lim : W64 := 0
  scb : W64 := 0
  ref : Bool := false
deriving DecidableEq, Repr

/-- A TLB entry: context, first virtual address, page-offset bits, the leaf entry and where it lies (R150). -/
structure TlbEnt where
  ctx : Nat := 0
  va : Nat := 0
  shift : Nat := 16
  pte : W64 := 0
  loc : Nat := 0
deriving DecidableEq, Repr

/-- An L1 line: its physical line (with the view bit), its bytes, poison marks and the time of its fill (R235). -/
structure L1Line where
  data : List Byte := []
  poison : BitVec 4 := 0
  fill : W64 := 0
deriving DecidableEq, Repr

/-- A run record of an atomic order log (R165); `shut` once another requester, whose services are not logged, has been served at its address. -/
structure AoRun where
  slice : Nat := 0
  addr : Nat := 0
  src : BitVec 16 := 0
  len : Nat := 0
  t : W32 := 0
  shut : Bool := false
deriving DecidableEq, Repr

/-- Memory and caches by physical address. `mem` holds the bytes of every tier and of host memory, those of HBM and Stalk cells as the writer saw
them; `enc` is the encryption tag under which each 64-byte data unit of those cells was written, 0 where it is plain (R136, R161, log 84); `aolog`
holds the atomic order logs, `aocap` the records that each slice's ring still takes (R165); `gone`
lists the retired slices that have handed their owner role over (R407). -/
structure MemSys where
  mem : Tbl Byte := []
  poison : Tbl Bool := []
  enc : Tbl Nat := []
  l2 : Tbl (Option Line) := []
  side : Tbl Side := []
  frr : Tbl Frr := []
  dieTlb : Tbl (List TlbEnt) := []
  aolog : List AoRun := []
  aocap : Nat := 4096
  gone : List Nat := []
deriving DecidableEq, Repr

/-! ## Engines -/

/-- A vector register: 64 lanes of 32 bits (R41). -/
abbrev Row := Vector W32 64

/-- An engine loop level (R308). -/
structure ELoop where
  count : Nat := 0
  start : Nat := 0
  len : Nat := 0
  act : Bool := false
  order : Nat := 0
deriving DecidableEq, Repr

/-- The state of an engine sequencer (R298). `waitf` executes a WAITF command of a flag; an abandoned segment is `ending` until the
words that had issued have completed (R306). -/
inductive EngSt where
  | idle
  | running
  | stopped
  | ending
  | waitf (fl : BitVec 6)
deriving DecidableEq, Repr

/-- What an engine word waits for: rows of the stream registers it reads in order, its tags, registers pending (and room for one more
gather), its parameter word, anything else. -/
inductive WFor where
  | stream (srcs : List Nat)
  | tag
  | gather (regs : List Nat) (ninth : Bool)
  | param
  | other
deriving DecidableEq, Repr

/-- An engine sequencer: segment, parameter block, word and repeat index, slots since the segment started, group, loops, the
start and length of a wait in progress and what it waits for, abandonment, the last dequeue (R58, R204, R298, R299, R308, R427). After
an expiry in the current word: the repeat and place of the stream read that expired, whether tagged accesses and gathers are off
(R204, R232, R234). A trap that its present repeat has raised and that is not yet taken, with code, TVAL and what XFADDR and XFINFO receive (R397). `stall` is the tick to which
a change of its rail's point stalls it (R453). -/
structure Eng where
  st : EngSt := .idle
  seg : W64 := 0
  param : W64 := 0
  widx : Nat := 0
  rep : Nat := 0
  cycle : Nat := 0
  group : Option Nat := none
  loop0 : ELoop := {}
  loop1 : ELoop := {}
  loopSeq : Nat := 0
  dl : W32 := 0x00FFFFFF
  wait : Option (W64 × Nat) := none
  wfor : WFor := .other
  qdead : Option (Nat × Nat) := none
  tdead : Bool := false
  gdead : Bool := false
  abandoned : Bool := false
  trap : Option (Nat × W64 × Option (W64 × BitVec 8)) := none
  lastDeq : Option W64 := none
  stall : Option W64 := none
deriving DecidableEq, Repr

/-- The destination of a result in flight (R400). -/
inductive IrbDest where
  | reg (v : Nat)
  | mask (m : Nat)
deriving DecidableEq, Repr

/-- A vector result in flight, or an entry of the in-flight result buffer: destination, the slot it is due, its order, the
lanes it writes, its value; a mask's value stands in `mask` (R198, R400). -/
structure Irb where
  dest : IrbDest
  due : Nat := 0
  order : Nat := 0
  lanes : W64 := 0
  value : Row := Vector.replicate 64 0
  mask : W64 := 0
  poison : Bool := false
deriving DecidableEq, Repr

/-- A VGATH or VSCAT repeat outstanding (R233, R234): lanes not yet translated with their addresses, lanes sent with their physical
addresses and whether their page is SO, its place in the order of issue and the slot in which its last lane arrived (R200), the lanes it accesses, the values that have arrived or are to be stored, lanes found
poisoned, a scatter's requests, whether every lane of a gather has arrived. -/
structure Gather where
  id : Nat := 0
  load : Bool := true
  dst : Nat := 0
  due : Nat := 0
  order : Nat := 0
  doneAt : Nat := 0
  lanes : List (Nat × W64) := []
  sent : List (Nat × Nat × Bool) := []
  active : W64 := 0
  got : Row := Vector.replicate 64 0
  poison : W64 := 0
  ids : List Nat := []
  done : Bool := false
deriving DecidableEq, Repr

/-- The vector engine of an executor: registers, masks, addresses, active mask, slots issued, issue order, results in flight,
gathers, deferral queue (a poisoned entry is empty), poisoned registers (v0 to v767, masks from 1000, addresses from 1100), the
parameter word that VSETA awaits (R41, R198, R210, R234, R238, R307, R406). -/
structure Vec where
  v : Tbl Row := []
  m : Vector W64 16 := Vector.replicate 16 0
  a : Vector (BitVec 21) 8 := Vector.replicate 8 0
  act : BitVec 4 := 0
  slot : Nat := 0
  order : Nat := 0
  irb : List Irb := []
  gathers : List Gather := []
  dq : List (List W32) := []
  vpoison : Tbl Bool := []
  vload : Option (BitVec 3 × W64) := none
deriving DecidableEq, Repr

/-- A sequencer that waits on tags (R227): its sequencer, words, access (0 LDFW, 1 LDFE, 2 STEF, 3 VLDFW, 4 VSTEF), the bytes it
will write, the byte addresses it reads; once its action has taken place, the bytes read and the poison of their words. -/
structure TagWait where
  sq : Seq := .control
  words : List Nat := []
  op : Nat := 0
  writes : List (Nat × List Byte) := []
  reads : List Nat := []
  done : Option (List Byte × Bool) := none
deriving DecidableEq, Repr

/-- The scratchpad: 64-bit words, full tags, poisoned words (R222, R227, R405); tag waiters in arrival order; the words as the instance found them at
its entry (R402). -/
structure Spad where
  w : Tbl W64 := []
  tag : Tbl Bool := []
  poison : Tbl Bool := []
  waiters : List TagWait := []
  base : Tbl W64 := []
deriving DecidableEq, Repr

/-! ## Launches and instances -/

/-- An instance: launch place (1024 + executor for a direct launch), node, wid, context, image, kernel, argument base. -/
structure Inst where
  launch : Nat := 0
  node : Nat := 0
  wid : W64 := 0
  ctx : Nat := 0
  image : W64 := 0
  kidx : Nat := 0
  argb : W64 := 0
deriving DecidableEq, Repr

/-- What an executor is doing (R378, R401, R402, R435). -/
inductive RunSt where
  | idle
  /-- The overlay loader fills the instruction memories (R92). -/
  | loading
  /-- The image is resident and the first word has not issued (R378). -/
  | entering
  | running
  /-- HALT waits (R304). -/
  | halting
  /-- The stop point is reached and the image is being written (R402). -/
  | saving
  /-- A context image is being read (R404). -/
  | restoring
  /-- A seam hand-over is in progress (R124). -/
  | handover
  /-- The instance has ended as KILL ends it, and its channels are still to reach a chunk boundary (R399, R409). -/
  | killing
deriving DecidableEq, Repr

/-- A section of an image: first virtual address and bytes (R92). -/
structure Sect where
  base : W64 := 0
  bytes : List Byte := []
deriving DecidableEq, Repr

/-- A segment of an image: address, engine (0 copy, 1 matrix, 2 vector), set and wait lists, words (R85). -/
structure SegEnt where
  addr : W64 := 0
  engine : Nat := 0
  sets : W64 := 0
  waits : W64 := 0
  nwords : Nat := 0
deriving DecidableEq, Repr

/-- What the overlay loader has placed in an executor's instruction memories (R92): image, CTRL and ENG sections. -/
structure Resident where
  image : W64 := 0
  ctrl : List Sect := []
  eng : List Sect := []
  segs : List SegEnt := []
deriving DecidableEq, Repr

/-- The request field of a running context (R118). -/
inductive HReq where
  | none | handover | rebind
deriving DecidableEq, Repr

/-- The running instance of an executor: a pre-emption request pending (R401), the candidate it is made for (launch, node, wid; R376), a precise stop in force, one requested by the debug port (R435), whether a suspend waits for its
collective's step boundary (R456), the gang group it is kept for (launch, node, group; R237), mailbox (R378), the cause with which its killed instance's node is to fault (R399), when it was
pre-empted (R375). -/
structure Run where
  st : RunSt := .idle
  inst : Inst := {}
  live : Bool := false
  preq : Bool := false
  pfor : Option (Nat × Nat × Nat) := none
  dstop : Bool := false
  dreq : Bool := false
  quiesce : Bool := false
  group : Option (Nat × Nat × Nat) := none
  hreq : HReq := .none
  res : Option Resident := none
  lastCtx : Option Nat := none
  reserved : Bool := false
  mailbox : List Byte := []
  readyAt : W64 := 0
  cause : Nat := 0
  stopAt : W64 := 0
deriving DecidableEq, Repr

/-- A node of an accepted launch (R370) and its progress: type, predecessors, successors, kernel index with the 128 bytes of its kernel
entry, argument base, operands; edges not yet satisfied; when it became ready and in what order; its pool part; the next wid to
dispatch; instances, halted, running; its argument block bytes (R84, R369). -/
structure Node where
  typ : Nat := 0
  npred : Nat := 0
  succ : List Nat := []
  kidx : Nat := 0
  ker : List Byte := []
  argb : W64 := 0
  opnds : List (W32 × Nat × Nat) := []
  left : Nat := 0
  ready : Bool := false
  readyAt : W64 := 0
  readySeq : Nat := 0
  part : Option Nat := none
  nextWid : Nat := 0
  ninst : Nat := 1
  halted : Nat := 0
  running : Nat := 0
  faulted : Bool := false
  done : Bool := false
  argsz : Nat := 0
deriving DecidableEq, Repr

/-- The gang state of a launch (R386, R387): 0 none, 1 armed, 2 committed, 3 aborted. -/
structure Gang where
  id : W32 := 0
  devs : List Nat := []
  dl : Nat := 0
  armedAt : W64 := 0
  acks : List Nat := []
  state : Nat := 0
  miss : BitVec 16 := 0xFFFF
deriving DecidableEq, Repr

/-- A launch in its place (R369): context, image, generation, completion record address, nodes, order of
acceptance, first fault, gang; the first offending node of a refused launch. -/
structure Launch where
  ctx : Nat := 0
  image : W64 := 0
  gen : BitVec 22 := 0
  compl : W64 := 0
  nodes : List Node := []
  accepted : Nat := 0
  fault : Option (Nat × Nat) := none
  gang : Option Gang := none
  refused : Option Nat := none
deriving DecidableEq, Repr

/-- A pending launch descriptor in the launch queue (R369), its launch generation, taken as it arrives (R382); `spawn` is the executor
whose SPAWN waits for the reply. -/
structure LqEnt where
  ctx : Nat := 0
  va : W64 := 0
  gen : BitVec 22 := 0
  spawn : Option Nat := none
deriving DecidableEq, Repr

/-- A barrier configuration of a launch (R333, R334): scope and count. -/
structure BarCfg where
  scope : BitVec 3 := 0
  count : Nat := 0
deriving DecidableEq, Repr

/-- A barrier object (R333): its arrival count and phase parity. -/
structure BarObj where
  count : Nat := 0
  parity : Bool := false
deriving DecidableEq, Repr

/-! ## Copy engine -/

/-- A collective step in progress (R195): the step, the pieces that NEXT's credits still allow, the pieces sent and not yet
acknowledged, whether pieces from PREV have been discarded since the last grant, so that they are to be asked for again (R196). -/
structure Coll where
  step : Nat := 0
  credits : Nat := 0
  flight : List Nat := []
  again : Bool := false
deriving DecidableEq, Repr

/-- The kind of a channel's command. -/
inductive CKind where
  | copy
  | add
  | gath
  | scat
  /-- XFILL: its value; none while the parameter word's read is held (R170), whose address is kept. -/
  | fill (v : Option W64) (va : W64)
  | xdcf
  /-- XMOVE (R116): handle, most pages, pages moved, whether it holds the claim. -/
  | move (h : W32) (npg n : Nat) (claimed : Bool)
  /-- A drain (R257): add mode, bank, INT32 accumulators, C's box origin, the tile once it has been read. -/
  | drain (add : Bool) (bank : Nat) (int : Bool) (g : List Int) (tile : Option (List (List W32)))
  /-- XCOLL (R195): the descriptor and its address; the step once it has begun. -/
  | coll (desc : List Byte) (va : W64) (step : Option Coll)
  /-- XROUTE (R281): the RAT and the hop budget; the next tile row to read; once it has begun, the context time of its start and its D. -/
  | route (rat hops : Nat) (row : Nat) (t0 : Option (W64 × Nat))
  /-- XRRET (R282): the ring; once it has begun, the closed window and its count (the ring's descriptor stands in `ti`). -/
  | rret (ring : Nat) (win : Option (Nat × Nat))
  | ratArm (n : Nat) (desc : List Byte)
  | ringCfg (n : Nat) (desc : Option (List Byte))
  | ringClose (ring : Nat)
  | ringRelease (ring : Nat)
deriving DecidableEq, Repr

/-- What a copy-engine read gives: bytes, the poisoned ones among them, whether the tensor was gone, the format tag and side bytes of the blocks of
scaled lines at their offsets. -/
structure CRead where
  data : List Byte := []
  marks : Marks := []
  closed : Bool := false
  side : List (Nat × BitVec 4 × List Byte) := []
deriving DecidableEq, Repr

/-- What one read leaves in a channel's data queue (R172): the destination's slot address, bytes, its poisoned bytes, the format tag and side bytes
of the blocks at offsets that came from scaled lines; runs of bytes between those of its rows, which it does not write (R177). -/
structure CItem where
  at_ : Nat := 0
  data : List Byte := []
  holes : Marks := []
  marks : Marks := []
  side : List (Nat × BitVec 4 × List Byte) := []
deriving DecidableEq, Repr

/-- A command of a channel (R171): number, kind, captured slots, n × STEP, TAG, ACQ, REL, SCOPE, XDL as it stood; the next
request to read and to write, the bytes of the head item already written, the data queue, its requests not yet served, the earlier
operations that its release waits for, the start of the wait of its head request and the deadline that holds for it (R173, R317), whether that request is a write, where it was cut
short by an expiry, the destination bytes issued and the first byte of the last request (R175), whether a command without requests
of this kind has ended, the status so far; what remained of a held write's deadline where a stop took it back (R318), the operations numbered before
its acquire (R352). Of the destination request whose sources are being read: the runs read, the index of the present one with
the status it met, what has been read of it, the items made. -/
structure CCmd where
  id : Nat := 0
  kind : CKind := .copy
  td : List Byte := []
  ts : List Byte := []
  ti : List Byte := []
  k : Int := 0
  tag : Bool := false
  acq : Bool := false
  rel : Bool := false
  scope : BitVec 3 := 0
  dl : W32 := 0
  rd : Nat := 0
  wr : Nat := 0
  part : Nat := 0
  buf : List CItem := []
  ids : List Nat := []
  before : List Nat := []
  wait : Option W64 := none
  wdl : Nat := 0
  held : Bool := false
  left : Option Nat := none
  acqAt : Nat := 0
  cut : Option Nat := none
  bytes : Nat := 0
  last : Nat := 0
  fin : Bool := false
  st : Nat := 0
  run : Nat := 0
  idx : Option (Int × Nat) := none
  acc : CRead := {}
  got : List CItem := []
deriving DecidableEq, Repr

/-- A bound stream (R187, R188): binding number, captured slot and its number, channel, rows popped, rows arrived with the address
of a poisoned one (R405). -/
structure Strm where
  bind : Nat := 0
  slot : List Byte := []
  t : Nat := 0
  ch : BitVec 2 := 0
  pos : Nat := 0
  rows : List (Row × Option W64) := []
deriving DecidableEq, Repr

/-- An XTSRLD or XPATCH repeat whose slot is not yet written (R185, R186): slot, address of the parameter word, repeat, field
and ADD of XPATCH, channel. -/
structure XLoad where
  t : Nat := 0
  pw : W64 := 0
  n : Nat := 0
  patch : Option (Nat × Bool) := none
  ch : BitVec 2 := 0
deriving DecidableEq, Repr

/-- The copy engine: channels, tensor shape slots, streams, the slot load in progress; `bad` marks the poisoned slots (R166, R171, R187, R406). -/
structure Cop where
  ch : Vector (List CCmd) 4 := Vector.replicate 4 []
  slots : Tbl (List Byte) := []
  strms : Tbl (Option Strm) := []
  xload : Option XLoad := none
  bad : BitVec 64 := 0
deriving DecidableEq, Repr

/-- Where an engine request is held at a translation fault (R151, R475). -/
inductive HeldAt where
  | chan (n : Nat)
  | strm (q : Nat)
  | gather
  | vparam
  | xparam
  | tile
  | adm (ring : Nat)
  | rat (n : Nat)
deriving DecidableEq, Repr

/-- A read of several atomic units in progress (R349): the queue that makes it, its owner's number, address and length, what it has read. -/
structure Part where
  at_ : HeldAt
  own : Nat := 0
  va : Nat := 0
  n : Nat := 0
  got : CRead := {}
deriving DecidableEq, Repr

/-! ## Matrix engine -/

/-- A nest level (R240, R244). -/
structure MLev where
  role : BitVec 3 := 0
  trip : BitVec 24 := 0
  stra : Vector (BitVec 12) 5 := Vector.replicate 5 0
  strb : Vector (BitVec 12) 5 := Vector.replicate 5 0
  strc : Vector (BitVec 12) 5 := Vector.replicate 5 0
deriving DecidableEq, Repr

/-- The shadow or active table: levels, bindings of A, B, C and META, MFMT and MHLD settings (R240). -/
structure MTab where
  lev : Vector MLev 6 := Vector.replicate 6 {}
  bind : Vector (Option (BitVec 6)) 4 := Vector.replicate 4 none
  fa : BitVec 4 := 0
  fb : BitVec 4 := 0
  mode : BitVec 2 := 0
  spn : BitVec 2 := 0
  blk : Bool := false
  acci : Bool := false
  bank : Bool := false
  hsz : BitVec 2 := 0
  diag : BitVec 16 := 0
deriving DecidableEq, Repr

/-- The state of a bank (R240). -/
inductive BankSt where
  | free | active | held
deriving DecidableEq, Repr

/-- An accumulator bank: state, 128 rows of 128 elements (an absent row is zero), the index vector and the number of the reduction that
retired into it (R240); whether a drain command that has not read it yet holds that retirement (R257); whether it is poisoned (R406). -/
structure Bank where
  st : BankSt := .free
  acc : List (List W32) := []
  idx : List Nat := []
  ord : Nat := 0
  taken : Bool := false
  poison : Bool := false
deriving DecidableEq, Repr

/-- A request of an operand's box that the tile fetch unit has served (R252, R253): operand (0 A, 1 B, 3 META), tile step, unit of its
box, offset in its line, bytes, side bytes, whether it has been served whole, poison, whether its tag disagrees, whether its tensor was gone (R469), the physical page it pins. -/
structure TLine where
  opnd : Nat := 0
  step : Nat := 0
  unit : Nat := 0
  off : Nat := 0
  page : Option Nat := none
  data : List Byte := []
  side : List Byte := []
  poison : Bool := false
  bad : Bool := false
  gone : Bool := false
  whole : Bool := false
deriving DecidableEq, Repr

/-- A running reduction (R250): bank, captured slots, AccStart, index of the next tile step to consume, fetched lines, RANK candidates with
the index of the first (none where clipped), whether it met poison, a mismatch or a deregistered tensor, the physical pages that consumed lines pin
until its retirement (R104, R414). -/
structure Red where
  bank : Bool := false
  a : List Byte := []
  b : List Byte := []
  m : List Byte := []
  start : List (List W32) := []
  step : Nat := 0
  lines : List TLine := []
  cand : List (List (Option Nat)) := []
  jg0 : Int := 0
  poison : Bool := false
  bad : Bool := false
  closed : Bool := false
  pins : List Nat := []
deriving DecidableEq, Repr

/-- The matrix engine (R240, R250, R259, R260): both tables, the banks, the index vector and bank of the next reduction, whether the
nest has reductions left, the running one, reductions started since MGO, retirements so far, the MGO in the tile-operations class and
one that waits, the start and length of the nest's wait, time passed and length of the wait of a held fetch that a stop took back (R318), whether the nest
pauses, whether an ALL = 1 drain has drained a tile. -/
structure Mat where
  shadow : MTab := {}
  active : MTab := {}
  bank0 : Bank := {}
  bank1 : Bank := {}
  idx : List Nat := [0, 0, 0, 0, 0, 0]
  next : Bool := false
  live : Bool := false
  red : Option Red := none
  started : Nat := 0
  retired : Nat := 0
  mgo : Option Nat := none
  mgoNext : Option Nat := none
  wait : Option (W64 × Nat) := none
  left : Option (W64 × Nat) := none
  paused : Bool := false
  drained : Bool := false
deriving DecidableEq, Repr

/-! ## Routing -/

/-- A header of a ring slot (R269): routing executor, RAT, generation, row, list position, expert, gate, time of admission. -/
structure Hdr where
  ex : Nat := 0
  rat : Nat := 0
  gen : BitVec 16 := 0
  row : Nat := 0
  j : Nat := 0
  expert : BitVec 16 := 0
  gate : W32 := 0
  gtc : W64 := 0
deriving DecidableEq, Repr

/-- An input ring (R269): descriptor, owning context and instance's launch and wid, open window, its occupants in admission order with
their slots, WIN and the time of its first admission, the closed window with its count, the placement whose admission write is held and the address
held at (R475). -/
structure Ring where
  desc : List Byte := []
  ctx : Nat := 0
  win : Nat := 0
  occ : List (Nat × Hdr) := []
  ticks : Nat := 0
  first : Option W64 := none
  closed : Option (Nat × Nat) := none
  held : Option Nat := none
  at_ : W64 := 0
deriving DecidableEq, Repr

/-- The state of a list position (R277); PENDING is `queued` until its attempt has issued. -/
inductive Pos where
  | none | queued | pending | placed | returned | evicted | lost
deriving DecidableEq, Repr

/-- A row of a RAT (R277, R278): route row, hops, next reserve, positions, whether the tile supplied it and its route row has been
read, outcome code (0 while not settled), poison of a return, the RTT entry of an attempt whose payload read is held, with its position (R268). -/
structure RRow where
  rr : List Byte := []
  hops : Nat := 0
  next : Nat := 0
  pos : List Pos := []
  supplied : Bool := false
  read : Bool := false
  outcome : Nat := 0
  poison : Bool := false
  entry : Option (Nat × List Byte) := none
deriving DecidableEq, Repr

/-- A reassembly table (R277): 0 FREE, 1 ARMED, 2 BUSY; generation; descriptor; hop budget; rows; closed; settled rows whose output has
not been written; the context time at which one of its writes was held, the deadline of the hold and the address held at (R475); whether its command met poison; the executor on which the
instance armed it last and its generation before the instance's first arming (R474). -/
structure Rat where
  st : Nat := 0
  gen : BitVec 16 := 0
  desc : List Byte := []
  hops : Nat := 0
  rows : List RRow := []
  closed : Bool := false
  todo : List Nat := []
  since : Option (W64 × Nat) := none
  at_ : W64 := 0
  poison : Bool := false
  home : Nat := 0
  base : BitVec 16 := 0
deriving DecidableEq, Repr

/-- A routing message in flight (R470): placement, answer (0 admitted, 1 refused, 2 evicted) or return. `src` is the sending
executor and channel, `ctx` the routing context; `dst` the executor it travels to. -/
inductive MsgKind where
  | place (ring cap win : Nat) (hdr : Hdr) (payload : List Byte) (marks : Marks)
  | answer (hdr : Hdr) (what : Nat)
  | ret (hdr : Hdr) (data : List Byte) (marks : Marks)
deriving DecidableEq, Repr

structure Msg where
  id : Nat := 0
  src : Nat := 0
  ch : Nat := 0
  ctx : Nat := 0
  dst : Nat := 0
  kind : MsgKind
deriving DecidableEq, Repr

/-! ## Tiers -/

/-- The engine that serves a move (R96, R100): a die's tier copy engine, with the claim taken or passed, or a copy channel. -/
inductive Claim where
  | none
  | tce (die : Nat) (passed : Bool)
  | chan (ex ch : Nat)
deriving DecidableEq, Repr

/-- An entry of the Tensor Home Table (R96): `at_` orders acceptances, `key` numbers its context's encryption keys (R136), `flight` is page F in flight, `dead` a tensor deregistered
while its move finishes a page. Pages are physical page numbers. -/
structure Tht where
  ctx : Nat := 0
  size : Nat := 0
  npages : Nat := 0
  old : Nat := 0
  new : Nat := 0
  f : Nat := 0
  ms : Nat := 0
  mprio : Nat := 0
  demand : Nat := 0
  claim : Claim := .none
  oldp : List Nat := []
  newp : List Nat := []
  enc : Nat := 0
  stack : Option Nat := none
  at_ : Nat := 0
  key : Nat := 0
  flight : Bool := false
  dead : Bool := false
deriving DecidableEq, Repr

/-- A write held at a page in flight (R103): handle, page, executor, channel. -/
structure Hold where
  h : W32 := 0
  page : Nat := 0
  ex : Nat := 0
  ch : Nat := 0
deriving DecidableEq, Repr

/-! ## Contexts, images and attention decode engines -/

/-- An owning context (R153, R447): staging units, dies, DBGP, page-table root, the next launch generation, the slice after its last Bud
page, the number of its encryption keys (R136); the supervisor registers that hold for all its instances (R312, R393). -/
structure Ctxt where
  share : Nat := 0
  dies : BitVec 4 := 0
  dbgp : Bool := false
  ptroot : W64 := 0
  gen : BitVec 22 := 1
  bud : Option Nat := none
  key : Nat := 0
  dlmax : W32 := 1000000
  toesc : BitVec 16 := 16
  maxred : BitVec 16 := 8192
  spwin : BitVec 34 := 0
  tvec : W64 := 0
deriving DecidableEq, Repr

/-- A published image (R90, R92): context, base, the bytes of its file header tables as loaded, its sections, its pages (R79), the physical pages that
hold them. -/
structure Image where
  ctx : Nat := 0
  base : W64 := 0
  ctrl : List Sect := []
  eng : List Sect := []
  kernels : List (List Byte) := []
  segs : List (List Byte) := []
  seams : List (List Byte) := []
  got : W64 := 0
  pages : List Nat := []
  phys : List Nat := []
deriving DecidableEq, Repr

/-- The running softmax of one head (R39): M, L, O, and whether a line of the head was poisoned. -/
structure AdeHead where
  m : W32 := 0xFF800000
  l : W32 := 0
  o : List W32 := []
  poison : Bool := false
deriving DecidableEq, Repr

/-- A command of an attention decode engine (R137, R145): its node, its context with the page-table root and the keys that it had at the dispatch, its
bytes, the cause of a failed check, the queries read at its start, the
head and chunk to do next, the heads; the sectors of the chunk read so far with their poison, and the sectors of the contexts written so far
(R142, R349). -/
structure Ade where
  launch : Nat := 0
  node : Nat := 0
  ctx : Nat := 0
  root : Nat := 0
  key : Nat := 0
  cmd : List Byte := []
  q : List Byte := []
  cause : Nat := 0
  head : Nat := 0
  chunk : Nat := 0
  heads : List AdeHead := []
  aborted : Bool := false
  got : List (List Byte × Bool) := []
  out : Nat := 0
deriving DecidableEq, Repr

/-! ## Executor state -/

/-- The wait of a control word that a trap or an interrupt interrupted, kept for ERET: where it stands, the wait, its tag action where it
has taken place (R394); whether a pre-emption took its list place since, so that it is to issue again (R318). A word that was to issue again already
has no wait, and its remaining deadline stands in `remain`. -/
structure Parked where
  pc : W64 := 0
  wait : Option CWait := none
  remain : Option Nat := none
  tag : Option TagWait := none
  again : Bool := false
deriving DecidableEq, Repr

/-- An interrupt that waits for its executor: code, raising sequencer, TVAL, XFINFO, and the Global Time Counter stamp and source number that order
it (R397, R451). -/
structure Irq where
  code : Nat := 0
  sq : Nat := 0
  tval : W64 := 0
  info : Option (BitVec 8) := none
  stamp : W64 := 0
  src : BitVec 16 := 0
deriving DecidableEq, Repr

/-- One executor: a Crown core or a Root executor. `acq` is the next fresh number as it was at the executor's last acquire, `relAt` as it was when
the release in progress began, which the writes that the release covers precede (R352, R353; the model's own, log 1); `parts` holds the reads of several
units in progress (R349), `past` the RATs that the instance armed on executors that it has left: executor, RAT, generation before the first arming there
and at the last (R273, R474). -/
structure Core where
  run : Run := {}
  ctl : Ctl := {}
  csr : Csr := {}
  csr2 : Csr2 := {}
  csrd : CsrD := {}
  ctc : W64 := 0
  frozen : Bool := false
  fused : Bool := false
  loopSeq : Nat := 0
  cseg : W64 := 0
  ccycle : Nat := 0
  cwait : Option CWait := none
  remain : Option Nat := none
  acq : Nat := 0
  relAt : Option Nat := none
  pend : Option Pend := none
  reqs : List Req := []
  wc : List WcEnt := []
  sync : Sync := {}
  spad : Spad := {}
  l1 : Tbl (Option L1Line) := []
  tlb : List TlbEnt := []
  vec : Vec := {}
  ve : Eng := {}
  me : Eng := {}
  xe : Eng := {}
  cp : Cop := {}
  mx : Mat := {}
  rings : Tbl (Option Ring) := []
  rats : Tbl Rat := []
  held : List (HeldAt × W64 × BitVec 8) := []
  parts : List Part := []
  past : List (Nat × Nat × BitVec 16 × BitVec 16) := []
  irq : List Irq := []
  parked : Option Parked := none
  dbg : Dbg := {}
deriving DecidableEq, Repr

/-- A pre-empted instance with its context image (R373, R402): the registers of its executor as they stood at the stop point, the
executor, the time held, of a cluster group the scratchpads of its local cores that had halted (R237), and the directory of the regions written:
bit n of vector register n, then the 64 KiB pieces of the scratchpad, the accumulator banks and the RATs (R402, R403). -/
structure Stopped where
  inst : Inst := {}
  core : Core := {}
  ex : Nat := 0
  since : W64 := 0
  dir : Nat := 0
  spads : List (Nat × Spad) := []
deriving DecidableEq, Repr

/-- A hand-over from its seam instant to its commit (R124): source, reserved core, status register, seam table index, whether the KSR is written, the
bytes in its hand-over area, whether a line of them is poisoned (R120, R124). -/
structure Handover where
  src : Nat := 0
  dst : Nat := 0
  d : Reg := 0
  idx : Nat := 0
  written : Bool := false
  ksr : List Byte := []
  bad : Bool := false
deriving DecidableEq, Repr

/-! ## Host, links, power, suspend and security -/

/-- The host command ring registers (R446, R448). -/
structure Hcq where
  base : W64 := 0
  size : Nat := 16
  tail : W64 := 0
  head : W64 := 0
  overrun : Bool := false
deriving DecidableEq, Repr

/-- The management mailbox (R462). -/
structure Mbox where
  cmd : W64 := 0
  status : Nat := 0
  busy : Bool := false
  disc : Bool := false
  resp : W64 := 0
  arg0 : W64 := 0
  arg1 : W64 := 0
  arg2 : W64 := 0
  nonce : List Byte := []
  data : List Byte := []
deriving DecidableEq, Repr

/-- A Chrour port (R449, R450): up, marked down, the peer's number, whether it carries only time traffic, next sequence number to
receive of each traffic class, next to send. -/
structure Port where
  up : Bool := false
  down : Bool := false
  peer : BitVec 16 := 0xFFFF
  timeOnly : Bool := true
  rx : Vector Nat 4 := Vector.replicate 4 0
  tx : Vector Nat 4 := Vector.replicate 4 0
deriving DecidableEq, Repr

/-- A flit (R449): source, destination, class (0 collective, 1 gang, 2 suspend, 3 time), payload of up to 224 bytes, and of its trailer the sequence
number and the CRC. -/
structure Flit where
  src : BitVec 16 := 0
  dst : BitVec 16 := 0
  cls : BitVec 2 := 0
  payload : List Byte := []
  seq : Nat := 0
  crc : W64 := 0
deriving DecidableEq, Repr

/-- What a record of the management controller's error log reports: a discarded flit, a diode that entered WARN (R450, R454). -/
inductive ErrWhat where
  | flit (f : Flit)
  | warn (diode : Nat)
deriving DecidableEq, Repr

/-- A record of the error log with its Global Time Counter stamp and source number (R451). -/
structure ErrRec where
  stamp : W64 := 0
  src : BitVec 16 := 0
  what : ErrWhat
deriving DecidableEq, Repr

/-- The power controller (R452 to R455): points of the matrix, vector, SRAM and fabric rails, imposed gaps, ramp counts N, dequeues of
the burst so far, PWRCAP, points that wait for a safe point, power off after a trip, 1 µs windows so far. -/
structure Power where
  rails : Vector (BitVec 3) 4 := Vector.replicate 4 7
  mg : BitVec 12 := 0
  vg : BitVec 12 := 0
  xg : BitVec 12 := 0
  ramp : Vector Nat 3 := Vector.replicate 3 0
  burst : Tbl Nat := []
  cap : BitVec 16 := 4400
  pending : Vector (Option (BitVec 3)) 4 := Vector.replicate 4 none
  windows : Nat := 0
  off : Bool := false
deriving DecidableEq, Repr

/-- A diode's state (R454). -/
inductive Diode where
  | normal | warn | throttle | trip
deriving DecidableEq, Repr

/-- Thermal sensing (R454, R455): diode states, hottest reading and its diode, thresholds of clusters and base-die regions, hysteresis, sweeps
so far. -/
structure Thermal where
  st : List Diode := List.replicate 80 .normal
  temp : BitVec 8 := 0
  diode : BitVec 7 := 0
  warn : Nat × Nat := (90, 85)
  throttle : Nat × Nat := (100, 95)
  trip : Nat × Nat := (110, 105)
  hyst : Nat := 5
  sweeps : Nat := 0
  worst : BitVec 2 := 0
deriving DecidableEq, Repr

/-- The device identity key (R461, R465). -/
inductive IdKey where
  | none | held | destroyed
deriving DecidableEq, Repr

/-- Identity, boot and life cycle (R460 to R465): LCS, accepted transition, the identity key, media keys present, firmware verified, firmware
installed for the next reset, MEAS0-MEAS7, TRIPPED, REPLACE_REQUEST. -/
structure Sec where
  lcs : BitVec 3 := 0
  token : Option (BitVec 3) := none
  idKey : IdKey := .none
  mediaKeys : Bool := true
  fwOk : Bool := true
  staged : Option (List Byte) := none
  meas : List (List Byte) := List.replicate 8 (List.replicate 32 0)
  tripped : Bool := false
  replaceReq : Bool := false
deriving DecidableEq, Repr

/-- Suspend (R456 to R459). -/
inductive SusSt where
  | none
  | ordered (s : W64) (cluster : Bool)
  | entering (since : W64)
  | suspended
  | resuming
  /-- The pre-empted instances are redispatched; the host ring and the doorbells are still to be served (R457). -/
  | restoring
deriving DecidableEq, Repr

/-- Suspend: state, whether the mailbox waits for it, whether it is a cluster's, a resume ordered during entry, the tick of the entry's completion. -/
structure Sus where
  st : SusSt := .none
  order : Bool := false
  cluster : Bool := false
  resume : Bool := false
  at_ : W64 := 0
deriving DecidableEq, Repr

/-- Scheduling controls (R382). -/
structure Sched where
  hopol : Bool := true
  predl : BitVec 16 := 50
  ageq : BitVec 16 := 100
deriving DecidableEq, Repr

/-- The bytes of a collective piece that have arrived, with their poison marks: generation, step, number (R449; DESIGN CHOICE, log 43). -/
structure Piece where
  gen : Nat := 0
  step : Nat := 0
  n : Nat := 0
  marks : Marks := []
  data : List Byte := []
deriving DecidableEq, Repr

/-- Device-wide state of the host interface and management controller. `partM` is ZK4-M (R1, R446), `rootTier` that root controllers are
attached (R2); `out` holds the flits sent, `errlog` the error log, `fwd` the messages forwarded already by class, `arms` the ARMs of gangs not yet
accepted (R450, DESIGN CHOICE, log 43), `early` the credits and acknowledgements (0, 2) of collective steps that do not run here now: kind, generation, step, number (R195), `pieces` those that are arriving; `hread` is what the last host read returned; `absent`
lists the core numbers with no physical core behind them and `spares` counts the spares of each die (R11, R407); `fused` lists the launches that fuse a cluster's L1s (R236),
`hostEx` the executors that the supervisor has reserved for direct launches (R378, log 92); `load` is what the last load reported: handle, reason, relocation (R466); `halvings` counts the 1 ms boundaries at which DEMAND was halved (R97). -/
structure Dev where
  partM : Bool := true
  lqdrop : Tbl Nat := []
  lfailcnt : Tbl Nat := []
  lfail : Tbl (List Byte) := []
  rootTier : Bool := true
  halvings : Nat := 0
  sysdev : BitVec 16 := 0xFFFF
  hcq : Hcq := {}
  mbox : Mbox := {}
  ports : Vector Port 18 := Vector.replicate 18 {}
  out : List (Nat × Flit) := []
  errlog : List ErrRec := []
  fwd : List (Nat × List Byte) := []
  arms : List (W32 × Nat) := []
  early : List (Nat × Nat × Nat × Nat) := []
  pieces : List Piece := []
  hread : List Byte := []
  power : Power := {}
  therm : Thermal := {}
  sec : Sec := {}
  sus : Sus := {}
  retired : List Unit' := []
  absent : List Nat := []
  spares : Vector Nat 4 := Vector.replicate 4 4
  pendingRetire : List Unit' := []
  errs : List (Unit' × W64) := []
  fused : Tbl (List Nat) := []
  hostEx : List Nat := []
  load : Nat × Nat × Nat := (0, 0, 0)
  sched : Sched := {}
deriving DecidableEq, Repr

/-- What one turn does (DESIGN CHOICE, log 1): a sequencer's next word, an event row of the opcode table, one tick of time, the loss of an L1 or
TLB entry (DESIGN CHOICE, log 15), the drain of one schedule-log record, the size of the atomic order log rings and the removal of a slice's oldest record (R165, R440; log 85), the supervisor's reservation of the executor for the host or its end (R378; log 92), the host's submission of supervisor image i (R460; DESIGN CHOICE, log 109), one more
lost cycle in a bank-conflict cell (DESIGN CHOICE, log 18). -/
inductive Act where
  | control
  | engine (sq : Seq)
  | event (i : Instr)
  | tick
  | dropL1 (key : Nat)
  | dropTlb (n : Nat)
  | drainLog
  | aoRing (n : Nat)
  | aoFree (slice : Nat)
  | reserve (on : Bool)
  | supervisor (i : Nat) (image : List Byte)
  | conflict (cell : Nat)
deriving DecidableEq, Repr

/-- A turn: the executor it belongs to, what it does, the choices it carries (DESIGN CHOICE, log 1, log 12). -/
structure Turn where
  ex : Fin 288 := 0
  act : Act := .tick
  choice : Choice := {}
deriving DecidableEq, Repr

/-- The state of the machine. `agenda` holds the turns still to come, `rr` the next activity where none is listed, `ex` and
`choice` those of the turn in progress, `nextId` the next fresh number, `closing` whether the tick in progress ends, when its expiries are decided
(R317): the model's own fields (DESIGN CHOICE, log 1). `sectors` holds, for each 32-byte sector that copy commands of several channels write, the commands in the
order in which they reached it with the bytes each has written (R177, R178, log 101). -/
structure State where
  ex : Fin 288 := 0
  agenda : List Turn := []
  rr : Nat := 0
  closing : Bool := false
  gtc : W64 := 0
  nextId : Nat := 0
  choice : Choice := {}
  cores : Vector Core 288 := Vector.replicate 288 {}
  ms : MemSys := {}
  launches : Tbl (Option Launch) := []
  lqueue : List LqEnt := []
  acks : List Ack := []
  barCfg : Tbl (Option BarCfg) := []
  barObj : Tbl BarObj := []
  wq : Tbl (List (Nat × Nat)) := []
  sendq : Tbl (List (Nat × Nat)) := []
  recvq : Tbl (List (Nat × Nat)) := []
  ctxs : Tbl (Option Ctxt) := []
  images : Tbl (Option Image) := []
  tht : Tbl (Option Tht) := []
  holds : List Hold := []
  ades : Tbl (Option Ade) := []
  stopped : List Stopped := []
  handovers : List Handover := []
  msgs : List Msg := []
  sectors : Tbl (List (Nat × BitVec 32)) := []
  dev : Dev := {}
deriving DecidableEq, Repr

/-- The machine right after reset: a ZK4-M with root controllers (DESIGN CHOICE, log 38); what the spec gives no reset value is zero or none
(DESIGN CHOICE, log 3, log 4); nothing is loaded (log 5). -/
def State.reset : State := {}

end Sys2Proof.Machine
end

