-- ==== Sys2Proof/Machine/Ops.lean ====
section
/-! DEFINITION. Named operations over the state: the executor whose turn it is, scalar registers and predicates, the advance of
the pc with the loop end test, the debug records, taking a trap and returning from one. -/

namespace Sys2Proof.Machine

abbrev Out := Host.Outcome State Fault Refusal

/-! ## The executor whose turn it is -/

/-- The executor whose turn it is. -/
def me (s : State) : Core := s.cores.get s.ex

/-- Replace that executor's record. -/
def setMe (s : State) (c : Core) : State := { s with cores := s.cores.set s.ex c }

/-- Change that executor's record alone. -/
def onMe (s : State) (f : Core → Core) : State := setMe s (f (me s))

/-- The record of executor n; executor 0's where n is none of the 288. -/
def coreAt (s : State) (n : Nat) : Core := if h : n < 288 then s.cores.get ⟨n, h⟩ else s.cores.get 0

/-- Change executor n's record; nothing where n is none of the 288. -/
def onCore (s : State) (n : Nat) (f : Core → Core) : State :=
  if h : n < 288 then { s with cores := s.cores.set n (f (s.cores.get ⟨n, h⟩)) h } else s

/-- Act as executor n. -/
def asEx (s : State) (n : Nat) (f : State → State) : State :=
  if h : n < 288 then { f { s with ex := ⟨n, h⟩ } with ex := s.ex } else s

/-- Change the control registers of the executor whose turn it is. -/
def onCtl (s : State) (f : Ctl → Ctl) : State := onMe s (fun c => { c with ctl := f c.ctl })

/-- A fresh number. -/
def fresh (s : State) : Nat × State := (s.nextId, { s with nextId := s.nextId + 1 })

/-- The executor is a Root executor (R10). -/
def isRoot (s : State) : Bool := decide (256 ≤ s.ex.val)

/-- What happens as a tick ends, when expiries are decided (R317). -/
def asTickEnds (s : State) (f : State → State) : State := { f { s with closing := true } with closing := s.closing }

/-! ## Scalar registers and predicates (R41) -/

/-- Read s[r]; s0 reads zero. -/
def Ctl.rd (c : Ctl) (r : Reg) : W64 := if r = 0 then 0 else c.s.get r.toFin

/-- Write s[r]; a write to s0 is discarded. -/
def Ctl.wr (c : Ctl) (r : Reg) (v : W64) : Ctl :=
  if r = 0 then c else { c with s := c.s.set r.toFin v, bad := c.bad &&& ~~~(1#64 <<< r.toNat), late := c.late.filter (fun e => e.1 != r) }

/-- Write s[r] of the executor whose turn it is with a result that a word may read n cycles after the issue of this one (R288). -/
def Ctl.wrLate (c : Ctl) (r : Reg) (v : W64) (n : Nat) : Ctl :=
  if r = 0 then c else { c.wr r v with late := (c.wr r v).late ++ [(r, n)] }

/-- n cycles pass: the results that are then available may be read. -/
def Ctl.passes (c : Ctl) (n : Nat) : Ctl :=
  { c with late := (c.late.filter (fun e => decide (n < e.2))).map (fun e => (e.1, e.2 - n)) }

/-- Read p[r]; p15 reads 1. -/
def Ctl.rdP (c : Ctl) (r : BitVec 4) : Bool := if r = 15 then true else c.p.get r.toFin

/-- Write p[r]; a write to p15 is discarded. -/
def Ctl.wrP (c : Ctl) (r : BitVec 4) (v : Bool) : Ctl := if r = 15 then c else { c with p := c.p.set r.toFin v, badp := c.badp &&& ~~~(1#16 <<< r.toNat) }

/-- s[r] of the executor whose turn it is. -/
def rd (s : State) (r : Reg) : W64 := (me s).ctl.rd r

/-- Write s[r] of the executor whose turn it is. -/
def wr (s : State) (r : Reg) (v : W64) : State := onCtl s (fun c => c.wr r v)

/-- Write s[r] of the executor whose turn it is with a result that a word may read n cycles after this one's issue. -/
def wrLate (s : State) (r : Reg) (v : W64) (n : Nat) : State := onCtl s (fun c => c.wrLate r v n)

/-- A control word executes when p[PR] XOR PN is 1 (R50). -/
def guardOk (c : Ctl) (g : Guard) : Bool := (c.rdP g.pr).xor g.pn

/-! ## Debug records -/

/-- The 16-bit source number of a sequencer (R165, R427). -/
def srcNo (ex : Nat) (sq : Nat) : BitVec 16 :=
  if ex < 256 then BitVec.ofNat 16 (ex * 4 + sq) else BitVec.ofNat 16 (0x4000 + (ex - 256) * 4 + sq)

/-- The source number of a device unit, class 3 (R165, R451): 0 the Graph Unit, 1 the host, 2 the management controller, 3 the thermal poller, 4 + s a memory
controller, 32 + n an L2 slice. -/
def unitSrc (u : Nat) : BitVec 16 := BitVec.ofNat 16 (0xC000 + 4 * u)

/-- A record with a stamp and a source number goes before another one (R451). -/
def stampBefore (t : W64) (src : BitVec 16) (t' : W64) (src' : BitVec 16) : Bool := t.ult t' || (t == t' && src.ult src')

/-- Insert an interrupt by its stamp, then its source number (R451). -/
def irqIns (x : Irq) : List Irq → List Irq
  | [] => [x]
  | y :: r => if stampBefore x.stamp x.src y.stamp y.src then x :: y :: r else y :: irqIns x r

/-- Raise an interrupt at an executor (R396, R451). -/
def raiseIrq (c : Core) (x : Irq) : Core := { c with irq := irqIns x c.irq }

/-- Insert a record into the error log by its stamp, then its source number (R451). -/
def errIns (x : ErrRec) : List ErrRec → List ErrRec
  | [] => [x]
  | y :: r => if stampBefore x.stamp x.src y.stamp y.src then x :: y :: r else y :: errIns x r

/-- The management controller records what unit u of class 3 reports in the error log (R450, R451, R454). -/
def logErr (s : State) (u : Nat) (w : ErrWhat) : State :=
  { s with dev := { s.dev with errlog := errIns { stamp := s.gtc, src := unitSrc u, what := w } s.dev.errlog } }

/-- The number of a sequencer (XFINFO.SEQ). -/
def seqNo : Seq → Nat
  | .control => 0
  | .matrix => 1
  | .vector => 2
  | .copy => 3

/-- The engine sequencer record of a sequencer (the control sequencer has none: the copy engine's stands in). -/
def engOf (c : Core) : Seq → Eng
  | .matrix => c.me
  | .vector => c.ve
  | _ => c.xe

/-- Replace an engine sequencer record. -/
def setEng (c : Core) (sq : Seq) (e : Eng) : Core :=
  match sq with
  | .matrix => { c with me := e }
  | .vector => { c with ve := e }
  | .copy => { c with xe := e }
  | .control => c

/-- CYCLE of a sequencer: issue slots since its segment started (R427, R428). -/
def cycleOf (c : Core) (sq : Seq) : Nat :=
  match sq with
  | .control => c.ccycle
  | q => (engOf c q).cycle

/-- SEG of a sequencer (R427, R428). -/
def segOf (c : Core) (sq : Seq) : W64 :=
  match sq with
  | .control => c.cseg
  | q => (engOf c q).seg

/-- The schedule log is on: DBGCTL.SLEN (R436). -/
def slogOn (c : Core) : Bool := c.csrd.dbgctl.getLsbD 3

/-- Append a schedule-log record of a slot while DBGCTL.SLEN is 1; a full buffer loses it (R436, R437). -/
def slogAt (ex : Nat) (c : Core) (sq : Seq) (kind reason cycle : Nat) (value : W64) : Core :=
  if slogOn c then
    if c.dbg.slbuf.length < 32 then
      { c with dbg := { c.dbg with slbuf := c.dbg.slbuf ++
          [leBytes 2 (srcNo ex (seqNo sq)).toNat ++ leBytes 1 kind ++ leBytes 1 reason ++ leBytes 4 cycle ++ leBytes 8 value.toNat] } }
    else { c with csrd := { c.csrd with slctl := c.csrd.slctl + 0x100000000 } }
  else c

/-- A schedule-log record of the present slot (R436). -/
def slog (ex : Nat) (c : Core) (sq : Seq) (kind reason : Nat) (value : W64) : Core := slogAt ex c sq kind reason (cycleOf c sq) value

/-- Write the branch outcomes held as one BRANCH record (R436, KIND 4). -/
def slogBranch (ex : Nat) (c : Core) : Core :=
  let o := c.dbg.brOut
  if o.isEmpty then c
  else
    let c := slog ex c .control 4 o.length (BitVec.ofNat 64 (o.foldr (fun b n => (if b then 1 else 0) + 2 * n) 0))
    { c with dbg := { c.dbg with brOut := [] } }

/-- A STOP record, after the branch outcomes held (R436, KIND 7). -/
def slogStop (ex : Nat) (c : Core) (sq : Seq) (reason : Nat) (value : W64) : Core := slog ex (slogBranch ex c) sq 7 reason value

/-- A trace record's bytes (R438). -/
def trcBytes (ex : Nat) (c : Core) (sq : Seq) (kind : Nat) (value : W64) : List Byte :=
  leBytes 2 (srcNo ex (seqNo sq)).toNat ++ leBytes 1 kind ++ [0] ++ leBytes 4 (cycleOf c sq) ++ leBytes 8 value.toNat

/-- Append one record to the trace buffer of 4096 records; count down POST after the trigger and freeze at zero (R438, R439). -/
def trcPut (c : Core) (r : List Byte) : Core :=
  let tb := c.dbg.tb ++ [r]
  let tb := tb.drop (tb.length - 4096)
  match c.dbg.post with
  | none => { c with dbg := { c.dbg with tb := tb, sinceTime := c.dbg.sinceTime + 1 } }
  | some n =>
      let c := { c with dbg := { c.dbg with tb := tb, sinceTime := c.dbg.sinceTime + 1, post := some (n - 1) } }
      if n ≤ 1 then { c with csrd := { c.csrd with tbctl := c.csrd.tbctl ||| 2 } } else c

/-- The trace buffer records: TBCTL.EN is 1 and FROZEN is 0. -/
def trcOn (c : Core) : Bool := c.csrd.tbctl.getLsbD 0 && !c.csrd.tbctl.getLsbD 1

/-- KIND 8 TIME after every 256 records (R438). -/
def trcTime (ex : Nat) (gtc : W64) (c : Core) (sq : Seq) : Core :=
  if c.dbg.sinceTime ≥ 256 && trcOn c then
    let c := trcPut c (trcBytes ex c sq 8 gtc)
    { c with dbg := { c.dbg with sinceTime := 0 } }
  else c

/-- Record an event of kind 1 to 4 that TBCTL.MASK selects (R438). -/
def trc (ex : Nat) (gtc : W64) (c : Core) (sq : Seq) (kind : Nat) (value : W64) : Core :=
  if trcOn c && c.csrd.tbctl.getLsbD (3 + kind) then trcTime ex gtc (trcPut c (trcBytes ex c sq kind value)) sq else c

/-- Record a segment start: KIND 7 SEGMENT then KIND 8 TIME (R438), and the schedule log's SEGMENT (R436). -/
def segStart (ex : Nat) (gtc : W64) (c : Core) (sq : Seq) (seg : W64) : Core :=
  let c := slog ex c sq 1 0 seg
  if trcOn c then
    let c := trcPut c (trcBytes ex c sq 7 seg)
    if trcOn c then trcTime ex gtc (trcPut c (trcBytes ex c sq 8 gtc)) sq else c
  else c

/-- The trace trigger of TBTRIG (R439): KIND 1 on the pc, KIND 2 on a data address's 64-byte line. -/
def trigger (c : Core) (kind : Nat) (v : W64) : Core :=
  let k := bits c.csrd.tbtrig 2 0
  let hit := trcOn c && c.dbg.post.isNone && k == kind &&
    (if kind = 1 then bits c.csrd.tbtrig 63 3 == bits v 63 3 else bits c.csrd.tbtrig 63 6 == bits v 63 6)
  if hit then
    let post := bits (zext64 c.csrd.tbctl) 31 16
    if post = 0 then { c with csrd := { c.csrd with tbctl := c.csrd.tbctl ||| 2 } }
    else { c with dbg := { c.dbg with post := some post } }
  else c

/-- The value of bank-conflict cell n (R429). -/
def cell (c : Core) (n : Nat) : Nat := tblGet 0 c.dbg.cells n

/-- The 1280 bytes of the cells (R431). -/
def cellBytes (c : Core) : Nat → Nat → List Byte
  | 0, _ => []
  | n + 1, i => leBytes 4 (cell c i) ++ cellBytes c n (i + 1)

/-- A request is a snapshot record of the given kind. -/
def isRecord (snap : Bool) (r : Req) : Bool :=
  match r.kind with
  | .record _ b _ => b == snap
  | _ => false

/-- Take a snapshot of kind 0 SNAPBC, 1 control, 2 vector, 3 copy loop, of a word in a slot, while BCCTL.EN is 1 (R431, R432): BCCNT advances; the
record waits to be written, or is dropped when the holding place of its kind is full. -/
def snapshot (s : State) (sq : Seq) (kind level slot : Nat) : State :=
  let c := me s
  if !c.csrd.bcctl.getLsbD 31 then s
  else
    let seqno := c.csrd.bccnt
    let place := seqno.toNat % 2 ^ (bits (zext64 c.csrd.bcctl) 3 0)
    let va := sext64 (c.csrd.bcbase.extractLsb' 0 55) + BitVec.ofNat 64 (0x540 * place)
    let bytes := leBytes 8 s.gtc.toNat ++ leBytes 2 (srcNo s.ex.val (seqNo sq)).toNat ++ zeros 2 ++
      leBytes 4 slot ++ leBytes 8 (segOf c sq).toNat ++ leBytes 1 kind ++ leBytes 1 level ++ zeros 6 ++
      leBytes 8 seqno.toNat ++ zeros 24 ++ cellBytes c 320 0
    let c := { c with csrd := { c.csrd with bccnt := seqno + 1 } }
    if c.reqs.any (isRecord (kind == 0)) then
      setMe s { c with csrd := { c.csrd with bcctl := c.csrd.bcctl ||| 0x20000000 } }
    else
      setMe { s with nextId := s.nextId + 1 }
        { c with reqs := c.reqs ++ [{ id := s.nextId, kind := .record va (kind == 0) bytes, sq := sq }] }

/-! ## The advance of the pc (R295) -/

/-- The address of the last body word of a level. -/
def Loop.last (l : Loop) : W64 := l.start + 8 * (zext64 l.len) - 8

/-- Among levels n to 3, the active level whose body ends at pc with the highest activation number below `below`. -/
def lastLevel (c : Ctl) (pc : W64) (below : Option Nat) : List (Fin 4) → Option (Fin 4)
  | [] => none
  | i :: r =>
      let l := c.loops.get i
      let ok := l.act && l.last == pc && (match below with | none => true | some b => decide (l.order < b))
      match lastLevel c pc below r with
      | none => if ok then some i else none
      | some j => if ok && decide ((c.loops.get j).order < l.order) then some i else some j

/-- The end test at the word at pc, levels in reverse order of activation: the first that continues goes back to its start, one
that ends becomes inactive and the next is tested. Answers the registers and the levels that ended. -/
def loopEnd : Nat → Ctl → W64 → Option Nat → List Nat → Ctl × List Nat
  | 0, c, pc, _, ended => ({ c with pc := pc + 8 }, ended)
  | n + 1, c, pc, below, ended =>
      match lastLevel c pc below [0, 1, 2, 3] with
      | none => ({ c with pc := pc + 8 }, ended)
      | some i =>
          let l := c.loops.get i
          if 1 < l.count.toNat then
            ({ c with loops := c.loops.set i { l with count := l.count - 1 }, pc := l.start }, ended)
          else loopEnd n { c with loops := c.loops.set i { l with act := false } } pc (some l.order) (ended ++ [i.val])

/-- Snapshots of the control levels that ended, each with the slot of its word (R432). -/
def endSnaps : List (Nat × Nat) → State → State
  | [], s => s
  | (l, slot) :: r, s =>
      endSnaps r (if (me s).csrd.bcctl.getLsbD (16 + l) then snapshot s .control 1 l slot else s)

/-- A control word that does not redirect the pc is complete: the end test of the loops, the next word, one slot (R288, R295). The snapshots of
levels that end behind an outstanding reply are held with it (R472); what remained of a wait that the word did not need is gone (R318). -/
def retire (s : State) : State :=
  let c := me s
  let r := loopEnd 4 c.ctl c.ctl.pc none []
  let ended := r.2.map (fun l => (l, c.ccycle))
  let c := { c with ctl := r.1.passes 1, ccycle := c.ccycle + 1, remain := none, relAt := none }
  match c.pend with
  | some p => setMe s { c with pend := some { p with snaps := p.snaps ++ ended } }
  | none => endSnaps ended (setMe s c)

/-- A control word that redirects the pc is complete. -/
def jumpTo (s : State) (pc : W64) : State :=
  onMe s (fun c => { c with ctl := { c.ctl.passes 1 with pc := pc }, ccycle := c.ccycle + 1, remain := none, relAt := none })

/-- Run f where the guard holds; a predicate-false word only retires (R50). -/
def guarded (g : Guard) (s : State) (f : State → State) : State :=
  if guardOk (me s).ctl g then f s else retire s

/-! ## Taking a trap (R392 to R399) -/

/-- What a control word's or an engine repeat's checks raise: the cause and TVAL, and for a translation fault what XFADDR and
XFINFO receive (R151, R392). -/
structure Trap where
  code : Nat
  tval : W64 := 0
  xf : Option (W64 × BitVec 8) := none
deriving DecidableEq, Repr

abbrev Trap.illegal (w : W64) : Trap := { code := 0x01, tval := w }
abbrev Trap.misalign (va : W64) : Trap := { code := 0x02, tval := va }
abbrev Trap.protect (va : W64) : Trap := { code := 0x04, tval := va }
abbrev Trap.forwardWait (fl : Nat) : Trap := { code := 0x05, tval := BitVec.ofNat 64 fl }
abbrev Trap.deadline : Trap := { code := 0x06 }
abbrev Trap.poison (va : W64) : Trap := { code := 0x07, tval := va }

/-- The launch at a place. -/
def launchAt (s : State) (n : Nat) : Launch := (tblGet none s.launches n).getD {}

/-- Change the launch at a place. -/
def onLaunch (s : State) (n : Nat) (f : Launch → Launch) : State :=
  match tblGet none s.launches n with
  | none => s
  | some l => { s with launches := tblSet none s.launches n (some (f l)) }

/-- A node faults: its later instances are never dispatched and its pool entry goes, and the first fault of the launch is kept (R385). -/
def nodeFault (l : Launch) (node cause : Nat) : Launch :=
  { l with nodes := listSet l.nodes node { listGet {} l.nodes node with faulted := true, part := none },
           fault := (match l.fault with | none => some (node, cause) | some f => some f) }

/-- Every RAT is FREE and armed by no instance; its generation stays (R277). -/
def freeRats (t : Tbl Rat) : Tbl Rat := t.filterMap (fun (e : Nat × Rat) => if e.2.gen = 0 then none else some (e.1, { gen := e.2.gen, base := e.2.gen }))

/-- A request that outlives its instance: all but an EADD's, whose flag is gone with it. -/
def outlives (r : Req) : Bool := match r.kind with | .eadd _ _ => false | _ => true

/-- Free an executor: what its instance holds in its engines, channels and buffers is gone; scratchpad, L1, TLB, instruction memories and
requests already sent stay, snapshot records among them (R224, R399, R409, R432). -/
def freeCore (c : Core) : Core :=
  { c with run := { c.run with st := .idle, live := false, hreq := .none, preq := false, pfor := none, dstop := false, dreq := false, lastCtx := some c.run.inst.ctx },
           frozen := false, cwait := none, remain := none, relAt := none, pend := none,
           reqs := c.reqs.filter outlives,
           sync := {}, spad := { c.spad with waiters := [] }, vec := { c.vec with irb := [], gathers := [], dq := [] },
           ve := {}, me := {}, xe := {}, cp := {}, mx := {}, rings := [], rats := freeRats c.rats, irq := [], held := [], parts := [], past := [], parked := none }

/-- Drop an executor's entries of a table of waiter lists. -/
def leaveTable (t : Tbl (List (Nat × Nat))) (ex : Nat) : Tbl (List (Nat × Nat)) :=
  t.filterMap (fun (e : Nat × List (Nat × Nat)) =>
    if (e.2.filter (fun w => w.1 != ex)).isEmpty then none else some (e.1, e.2.filter (fun w => w.1 != ex)))

/-- The control sequencer of an executor gives up its places in the waiter lists of words and message queues (R318, R337, R339). -/
def leaveQueues (s : State) (ex : Nat) : State :=
  { s with wq := leaveTable s.wq ex, sendq := leaveTable s.sendq ex, recvq := leaveTable s.recvq ex }

/-- The instance ends: the executor is free, with its places in waiter lists and its held writes; the node faults with the cause (R399, R385, R103). -/
def killNow (s : State) (cause : Nat) : State :=
  let i := (me s).run.inst
  let s := leaveQueues { s with holds := s.holds.filter (fun k => k.ex != s.ex.val) } s.ex.val
  let s := onLaunch s i.launch (fun l =>
    let l := nodeFault l i.node cause
    { l with nodes := listSet l.nodes i.node (let n := listGet {} l.nodes i.node; { n with running := n.running - 1 }) })
  onMe s freeCore

/-- End the instance as KILL does: at once where no channel holds a command, else once its channels have reached a chunk boundary (R399, R409). -/
def killInstance (s : State) (cause : Nat) : State :=
  if (me s).cp.ch.all (fun l => l.isEmpty) then killNow s cause
  else
    onMe (leaveQueues s s.ex.val) (fun c =>
      { c with run := { c.run with st := .killing, cause := cause, preq := false, dreq := false }, cwait := none, remain := none, relAt := none, pend := none, irq := [],
               spad := { c.spad with waiters := [] } })

/-- A gather whose every lane has arrived is a result in flight, in the later of its fourth slot and the slot of its last lane, its lanes that were not
poisoned, a poisoned lane poisoning the register (R233, R234). -/
def gatherIrb (g : Gather) : Irb :=
  { dest := .reg g.dst, due := max g.due g.doneAt, order := g.order, lanes := g.active &&& ~~~g.poison, value := g.got, poison := g.poison != 0 }

/-- The results in flight, which the in-flight result buffer holds at a stop (R400). -/
def inFlightResults (v : Vec) : List Irb := v.irb ++ (v.gathers.filter (fun g => g.load && g.done)).map gatherIrb

/-- CAUSE of a trap (R393). -/
def causeWord (async irbv : Bool) (seq code : Nat) : W64 :=
  BitVec.ofNat 64 (code % 256 + 256 * (seq % 4) + (if irbv then 2048 else 0) + (if async then 2 ^ 63 else 0))

/-- TPOS of an engine (R393). -/
def tposWord (e : Eng) : W64 :=
  BitVec.ofNat 64 (e.rep % 64 + 65536 * (e.widx % 32768) + 4294967296 * (e.cycle % 4294967296))

/-- The running reduction rolls back: its bank is restored and free, and the nest stands before it (R260, R261). -/
def rollback (m : Mat) : Mat :=
  match m.red with
  | none => m
  | some r =>
      let b : Bank := { st := .free, acc := r.start }
      let m := { m with red := none, started := m.started - 1 }
      if r.bank then { m with bank1 := b } else { m with bank0 := b }

/-- The tile fetch unit stands at a held request. -/
def tileHeld (c : Core) : Bool := c.held.any (fun h => h.1 == .tile)

/-- The nest stops (R261): one stalled on a held fetch rolls back, a running reduction goes on to its retirement, and nothing starts after; a wait for
a bank stands, and one for a held fetch keeps what passed of its deadline for the reduction's next try (R318). -/
def nestStop (c : Core) : Core :=
  if !c.mx.live then c
  else if tileHeld c then
    { c with mx := { rollback c.mx with paused := true, wait := none, left := c.mx.wait.map (fun w => (c.ctc - w.1, w.2)) }
             held := c.held.filter (fun h => h.1 != .tile) }
  else { c with mx := { c.mx with paused := true } }

/-- Freeze the core and enter the handler: EPC, TSEG and TPOS as given, CAUSE, TVAL, XFADDR and XFINFO from the trap, SUP set,
context time stopped, pc at TVEC (R394). -/
def enterTrap (ex : Nat) (c : Core) (sq : Seq) (t : Trap) (epc tseg tpos : W64) : Core :=
  let cause := causeWord false (!(inFlightResults c.vec).isEmpty) (seqNo sq) t.code
  let c := nestStop (slogStop ex c sq 1 cause)
  { c with
    frozen := true
    relAt := none
    csr := { c.csr with cause := cause, epc := epc, tseg := tseg, tpos := tpos, tval := t.tval, sup := true }
    csr2 := (match t.xf with | none => c.csr2 | some (va, i) => { c.csr2 with xfaddr := va, xfinfo := i })
    ctl := { c.ctl with pc := c.csr.tvec } }

/-- A control word traps precisely: EPC names the word (R395); in supervisor mode it is a double trap and ends the instance
(R397), its STOP record written all the same (R436). -/
def trapControl (s : State) (t : Trap) : State :=
  let c := me s
  if c.csr.sup then
    let cause := causeWord false (!(inFlightResults c.vec).isEmpty) 0 t.code
    killInstance (onMe s (fun c => slogStop s.ex.val { c with csr := { c.csr with cause := cause } } .control 1 cause)) t.code
  else
    setMe s (enterTrap s.ex.val { c with cwait := none, remain := none, relAt := none } .control t c.ctl.pc 0 0)

/-- An engine trap is not taken now: in supervisor mode it is taken after ERET (R397), and while a control word's reply is on its way
after the reply, whose word has issued (R472). -/
def holdsTraps (c : Core) : Bool := c.csr.sup || c.pend.isSome

/-- What is left of a control word's deadline; it does not run while a push that found room waits for its stores (R301, R318). -/
def waitLeft (c : Core) (w : CWait) : Nat :=
  match w.kind with
  | .push _ _ _ (_ :: _) => w.dl
  | _ => w.dl - (c.ctc - w.t0).toNat

/-- The control word in a wait stops: its place among the tag waiters is given up, or its action kept where it has taken place; the
time that remains is kept with it, that of a word which was still to issue again after a pre-emption too (R318, R394). -/
def park (c : Core) : Core :=
  match c.cwait with
  | none =>
      (match c.remain with
       | none => c
       | some n => { c with remain := none, parked := some { pc := c.ctl.pc, remain := some n } })
  | some w =>
      let mine := c.spad.waiters.find? (fun t => t.sq == .control)
      let tag := match mine with | some t => (if t.done.isSome then some t else none) | none => none
      { c with cwait := none, spad := { c.spad with waiters := c.spad.waiters.filter (fun t => t.sq != .control) },
               parked := some { pc := c.ctl.pc, wait := some w, tag := tag } }

/-- An engine repeat traps at its schedule cycle: EPC names the next control word, TSEG and TPOS the repeat (R393, R394); where the trap cannot be
taken now, the engine stays frozen there and it is taken later (R397). -/
def trapEngine (s : State) (sq : Seq) (t : Trap) : State :=
  let c := me s
  let e := engOf c sq
  if holdsTraps c then setMe s (setEng c sq { e with trap := some (t.code, t.tval, t.xf) })
  else setMe s (enterTrap s.ex.val (park (setEng c sq { e with trap := none })) sq t c.ctl.pc e.seg (tposWord e))

/-- The first of the copy, matrix and vector sequencers, in that order, that is frozen at a trap (R395). -/
def frozenEngine (c : Core) : Option (Seq × Trap) :=
  [Seq.copy, .matrix, .vector].findSome? (fun q => (engOf c q).trap.map (fun t => (q, { code := t.1, tval := t.2.1, xf := t.2.2 })))

/-- The trap at which an engine is frozen is taken, once one can be (R395, R397). -/
def takeFrozen (s : State) : State :=
  if holdsTraps (me s) then s
  else match frozenEngine (me s) with
    | none => s
    | some (q, t) => trapEngine s q t

/-- The control word at va in the executor's control instruction memory (R92); none outside every CTRL section. -/
def imemWord (c : Core) (va : W64) : Option W64 :=
  match c.run.res with
  | none => none
  | some r =>
      match r.ctrl.find? (fun x => decide ((va - x.base).toNat + 8 ≤ x.bytes.length)) with
      | none => none
      | some x => some (field64 x.bytes (va - x.base).toNat 8)

/-- The control word at the pc, zero where none can be fetched: TVAL of an ILLEGAL that a meaning raises (R392). -/
def curWord (s : State) : W64 := (imemWord (me s) (me s).ctl.pc).getD 0

/-- Run a control word's checks: a trap, or the rest of the word. -/
def orTrap {α : Type} (s : State) (r : Except Trap α) (f : α → State) : State :=
  match r with
  | .error t => trapControl s t
  | .ok a => f a

/-- A status register receives a status code (R6, R49). -/
def status (s : State) (d : Reg) (code : Nat) : State := wr s d (BitVec.ofNat 64 code)

/-- Write a status and retire. -/
def done (s : State) (d : Reg) (code : Nat) : State := retire (status s d code)

end Sys2Proof.Machine
end

