-- ==== Sys2Proof/Machine/Flags.lean ====
section
/-! DEFINITION. Flag computations: the event counters' counts and promises (spec/15 R321 to R323), the timeout count and its
escalation (R319), and the fields of ESTAT (spec/14 R313). -/

namespace Sys2Proof.Machine

/-! ## Event counters -/

/-- The count V of flag fl. -/
def flagV (c : Core) (fl : BitVec 6) : W32 := c.sync.v.get fl.toFin
/-- The promise P of flag fl. -/
def flagP (c : Core) (fl : BitVec 6) : W32 := c.sync.p.get fl.toFin
/-- Flag fl is poisoned: what reads it traps POISON with TVAL zero (R406). -/
def flagBad (c : Core) (fl : BitVec 6) : Bool := c.sync.bad.getLsbD fl.toNat
/-- Write V. -/
def setV (c : Core) (fl : BitVec 6) (x : W32) : Core := { c with sync := { c.sync with v := c.sync.v.set fl.toFin x } }
/-- Write P. -/
def setP (c : Core) (fl : BitVec 6) (x : W32) : Core := { c with sync := { c.sync with p := c.sync.p.set fl.toFin x } }

/-- V + k, saturating at 0xFFFF_FFFF (R322). -/
def addV (c : Core) (fl : BitVec 6) (k : Nat) : Core :=
  setV c fl (BitVec.ofNat 32 (min ((flagV c fl).toNat + k) 0xFFFFFFFF))

/-- V − k, where V is at least k. -/
def subV (c : Core) (fl : BitVec 6) (k : Nat) : Core := setV c fl (flagV c fl - BitVec.ofNat 32 k)

/-- Claim k: P − k; FORWARD_WAIT where P is below k (R323). -/
def claimFlag (c : Core) (fl : BitVec 6) (k : Nat) : Except Trap Core :=
  if flagBad c fl then .error (.poison 0)
  else if (flagP c fl).toNat < k then .error (.forwardWait fl.toNat) else .ok (setP c fl (flagP c fl - BitVec.ofNat 32 k))

/-- Promise k: P + k; ILLEGAL where it would pass 2^32 − 1 (R322). -/
def promiseFlag (c : Core) (fl : BitVec 6) (k : Nat) : Except Trap Core :=
  if flagBad c fl then .error (.poison 0)
  else if 0xFFFFFFFF < (flagP c fl).toNat + k then .error (.illegal 0) else .ok (setP c fl (flagP c fl + BitVec.ofNat 32 k))

/-- The flags that a set or wait list names, ascending (R85). -/
def flagsOf (m : W64) : List (BitVec 6) :=
  ((List.range 64).filter (fun i => m.getLsbD i)).map (fun i => BitVec.ofNat 6 i)

/-- Claim one set of each flag of a list. -/
def claimAll : List (BitVec 6) → Core → Except Trap Core
  | [], c => .ok c
  | f :: r, c => (match claimFlag c f 1 with | .error t => .error t | .ok c => claimAll r c)

/-- Promise one set of each flag of a list; or return one claim of each, which raises P as a promise does (R322). -/
def promiseAll : List (BitVec 6) → Core → Except Trap Core
  | [], c => .ok c
  | f :: r, c => (match promiseFlag c f 1 with | .error t => .error t | .ok c => promiseAll r c)

/-! ## Timeouts -/

/-- Count a timeout that is no poll: the new TOCNT, and whether it escalates by TOESC (R319). -/
def escalates (c : Core) : Bool :=
  c.csr.toesc != 0 && decide (c.csr.toesc.toNat ≤ c.csr.tocnt.toNat + 1)

/-- Write TOCNT. -/
def setTocnt (c : Core) (n : BitVec 16) : Core := { c with csr := { c.csr with tocnt := n } }

/-- The settlement of a timeout that is no poll: whether it traps DEADLINE, and the core with TOCNT counted, or zeroed by the
trap (R319). -/
def settle (c : Core) (e : Bool) : Bool × Core :=
  if e || escalates c then (true, setTocnt c 0) else (false, setTocnt c (c.csr.tocnt + 1))

/-! ## ESTAT (R313) -/

/-- Set an ESTAT bit. -/
def setEstat (c : Core) (n : Nat) : Core := { c with csr := { c.csr with estat := c.csr.estat ||| (1 <<< n) } }

/-- Write an 8-bit status field of ESTAT at bit lo, when the status is not OK (R174, R257). -/
def estatField (c : Core) (lo : Nat) (code : Nat) : Core :=
  if code = 0 then c
  else { c with csr := { c.csr with
    estat := (c.csr.estat &&& ~~~((0xFF : W64) <<< lo)) ||| (BitVec.ofNat 64 (code % 256) <<< lo) } }

/-- Record channel n's status (R174). -/
def estatCh (c : Core) (n : Nat) (code : Nat) : Core := estatField c (8 * n) code
/-- Record a matrix status (R257, R259). -/
def estatMatrix (c : Core) (code : Nat) : Core := estatField c 32 code

end Sys2Proof.Machine
end

