-- ==== Sys2Proof/Machine/Fp.lean ====
section
/-! DEFINITION. Number formats and their arithmetic (spec/02_numbers.md R20 to R39): exact values, one rounding to nearest even, the
FP32 functions correctly rounded (DEDUCED, log 9), the sign of exact zero sums (DEDUCED, log 10). -/

namespace Sys2Proof.Machine

/-- An exact value: not a number, an infinity, or (−1)^neg × m × 2^e; a zero keeps its sign. -/
inductive Fp where
  | nan
  | inf (neg : Bool)
  | fin (neg : Bool) (m : Nat) (e : Int)
deriving DecidableEq, Repr

/-- Bit length of a number; 0 for 0. -/
def bitLen (m : Nat) : Nat := if m = 0 then 0 else Nat.log2 m + 1

/-- 2^n for an integer n at least 0, else 1. -/
def pow2 (n : Int) : Nat := 2 ^ n.toNat

/-! ## Decoding (R20, R21) -/

/-- Decode a format of eb exponent and mb mantissa bits with IEEE top exponent. -/
def decIeee (eb mb : Nat) (x : Nat) : Fp :=
  let bias : Int := 2 ^ (eb - 1) - 1
  let neg := x / 2 ^ (eb + mb) % 2 == 1
  let e := x / 2 ^ mb % 2 ^ eb
  let m := x % 2 ^ mb
  if e = 2 ^ eb - 1 then (if m = 0 then .inf neg else .nan)
  else if e = 0 then .fin neg m (1 - bias - mb)
  else .fin neg (m + 2 ^ mb) ((e : Int) - bias - mb)

/-- Decode FP32. -/
def decF32 (x : W32) : Fp := decIeee 8 23 x.toNat
/-- Decode BF16. -/
def decBf16 (x : BitVec 16) : Fp := decIeee 8 7 x.toNat
/-- Decode FP16. -/
def decF16 (x : BitVec 16) : Fp := decIeee 5 10 x.toNat
/-- Decode E5M2. -/
def decE5m2 (x : Byte) : Fp := decIeee 5 2 x.toNat
/-- Decode E4M3: only S.1111.111 is NaN and there are no infinities. -/
def decE4m3 (x : Byte) : Fp :=
  let n := x.toNat
  let e := n / 8 % 16
  let m := n % 8
  if e = 15 ∧ m = 7 then .nan
  else if e = 0 then .fin (n / 128 == 1) m (-9)
  else .fin (n / 128 == 1) (m + 8) ((e : Int) - 10)
/-- The exact value of an integer. -/
def fpInt (x : Int) : Fp := .fin (decide (x < 0)) x.natAbs 0

/-! ## Rounding to nearest, ties to even (R27) -/

/-- Round m × 2^e to p bits with least exponent qmin: the rounded mantissa and its exponent. -/
def roundRaw (p : Nat) (qmin : Int) (m : Nat) (e : Int) : Nat × Int :=
  let q := max (e + bitLen m - p) qmin
  if q ≤ e then (m * pow2 (e - q), q)
  else
    let d := pow2 (q - e)
    let r := m / d
    let rem := m % d
    if 2 * rem > d ∨ (2 * rem = d ∧ r % 2 = 1) then (r + 1, q) else (r, q)

/-- Round a finite value into a format of eb and mb bits: its encoding without sign, or none where it overflows. The largest
mantissa of the top exponent is topM. -/
def encFin (eb mb : Nat) (topE topM : Nat) (m : Nat) (e : Int) : Option Nat :=
  let bias : Int := 2 ^ (eb - 1) - 1
  let qmin : Int := 1 - bias - mb
  let (r0, q0) := roundRaw (mb + 1) qmin m e
  let (r, q) := if r0 = 2 ^ (mb + 1) then (2 ^ mb, q0 + 1) else (r0, q0)
  if r < 2 ^ mb then some r
  else
    let ex := (q - qmin + 1).toNat
    let mm := r - 2 ^ mb
    if ex > topE ∨ (ex = topE ∧ mm > topM) then none else some (ex * 2 ^ mb + mm)

/-- The sign bit of a format of w bits. -/
def signBit (neg : Bool) (w : Nat) : Nat := if neg then 2 ^ (w - 1) else 0

/-- Canonical FP32 NaN (R28). -/
def nanF32 : W32 := 0x7FC00000

/-- RoundF32 (R27, R28). -/
def encF32 : Fp → W32
  | .nan => nanF32
  | .inf n => BitVec.ofNat 32 (signBit n 32 + 0x7F800000)
  | .fin n m e => BitVec.ofNat 32 (signBit n 32 + (encFin 8 23 254 0x7FFFFF m e).getD 0x7F800000)

/-- Narrow to BF16: overflow gives infinity (R27). -/
def encBf16 : Fp → BitVec 16
  | .nan => 0x7FC0
  | .inf n => BitVec.ofNat 16 (signBit n 16 + 0x7F80)
  | .fin n m e => BitVec.ofNat 16 (signBit n 16 + (encFin 8 7 254 0x7F m e).getD 0x7F80)

/-- Narrow to FP16: overflow gives infinity (R27). -/
def encF16 : Fp → BitVec 16
  | .nan => 0x7E00
  | .inf n => BitVec.ofNat 16 (signBit n 16 + 0x7C00)
  | .fin n m e => BitVec.ofNat 16 (signBit n 16 + (encFin 5 10 30 0x3FF m e).getD 0x7C00)

/-- Narrow to E4M3: finite results and infinities clamp to ±448 (R27). -/
def encE4m3 : Fp → Byte
  | .nan => 0x7F
  | .inf n => BitVec.ofNat 8 (signBit n 8 + 0x7E)
  | .fin n m e => BitVec.ofNat 8 (signBit n 8 + (encFin 4 3 15 6 m e).getD 0x7E)

/-- Narrow to E5M2: finite results clamp to ±57344, infinities stay (R27). -/
def encE5m2 : Fp → Byte
  | .nan => 0x7E
  | .inf n => BitVec.ofNat 8 (signBit n 8 + 0x7C)
  | .fin n m e => BitVec.ofNat 8 (signBit n 8 + (encFin 5 2 30 3 m e).getD 0x7B)

/-! ## Exact sums and products -/

/-- The product; 0 × ∞ is NaN (R28). -/
def Fp.mul : Fp → Fp → Fp
  | .nan, _ => .nan
  | _, .nan => .nan
  | .inf a, .inf b => .inf (a.xor b)
  | .inf a, .fin b m _ => if m = 0 then .nan else .inf (a.xor b)
  | .fin a m _, .inf b => if m = 0 then .nan else .inf (a.xor b)
  | .fin a m e, .fin b n f => .fin (a.xor b) (m * n) (e + f)

/-- The mantissa of a finite value with its sign. -/
def sgn (neg : Bool) (m : Nat) : Int := if neg then -(m : Int) else m

/-- The exact sum; ∞ − ∞ is NaN; an exact zero is −0 only where both are −0 (R28, DEDUCED, log 10). -/
def Fp.add : Fp → Fp → Fp
  | .nan, _ => .nan
  | _, .nan => .nan
  | .inf a, .inf b => if a = b then .inf a else .nan
  | .inf a, .fin _ _ _ => .inf a
  | .fin _ _ _, .inf b => .inf b
  | .fin a m e, .fin b n f =>
      let q := min e f
      let x := sgn a (m * pow2 (e - q)) + sgn b (n * pow2 (f - q))
      if x = 0 then .fin (a && b && m == 0 && n == 0) 0 q else .fin (decide (x < 0)) x.natAbs q

/-- The negation. -/
def Fp.neg : Fp → Fp
  | .nan => .nan
  | .inf n => .inf (!n)
  | .fin n m e => .fin (!n) m e

/-- The exact sum of a list; −0 for none. -/
def Fp.sum : List Fp → Fp
  | [] => .fin true 0 0
  | x :: r => Fp.add x (Fp.sum r)

/-- RoundF32(a + b). -/
def f32Add (a b : W32) : W32 := encF32 (Fp.add (decF32 a) (decF32 b))
/-- RoundF32(a − b). -/
def f32Sub (a b : W32) : W32 := encF32 (Fp.add (decF32 a) (Fp.neg (decF32 b)))
/-- RoundF32(a × b). -/
def f32Mul (a b : W32) : W32 := encF32 (Fp.mul (decF32 a) (decF32 b))
/-- RoundF32(a × b + c), rounded once. -/
def f32Fma (a b c : W32) : W32 := encF32 (Fp.add (Fp.mul (decF32 a) (decF32 b)) (decF32 c))

/-! ## Order (R29) -/

/-- A value is a NaN. -/
def Fp.isNan : Fp → Bool
  | .nan => true
  | _ => false

/-- The value is a zero. -/
def Fp.isZero : Fp → Bool
  | .fin _ m _ => m == 0
  | _ => false

/-- a < b for values that are not NaN, −0 and +0 equal. -/
def Fp.lt : Fp → Fp → Bool
  | .nan, _ => false
  | _, .nan => false
  | .inf a, .inf b => a && !b
  | .inf a, .fin _ _ _ => a
  | .fin _ _ _, .inf b => !b
  | .fin a m e, .fin b n f =>
      let q := min e f
      decide (sgn a (m * pow2 (e - q)) < sgn b (n * pow2 (f - q)))

/-- a = b, false for a NaN, −0 and +0 equal. -/
def Fp.eq (a b : Fp) : Bool := !a.isNan && !b.isNan && !Fp.lt a b && !Fp.lt b a

/-- a ≤ b, false for a NaN. -/
def Fp.le (a b : Fp) : Bool := Fp.lt a b || Fp.eq a b

/-- The sign of a value that is not NaN. -/
def Fp.isNeg : Fp → Bool
  | .nan => false
  | .inf n => n
  | .fin n _ _ => n

/-- a below b in the order of minimum and maximum, −0 below +0 (R29). -/
def Fp.below (a b : Fp) : Bool := Fp.lt a b || (a.isZero && b.isZero && a.isNeg && !b.isNeg)

/-- The FP32 minimum (R29). -/
def f32Min (a b : W32) : W32 :=
  let x := decF32 a
  let y := decF32 b
  if x.isNan then (if y.isNan then nanF32 else b) else if y.isNan then a else if Fp.below y x then b else a

/-- The FP32 maximum (R29). -/
def f32Max (a b : W32) : W32 :=
  let x := decF32 a
  let y := decF32 b
  if x.isNan then (if y.isNan then nanF32 else b) else if y.isNan then a else if Fp.below x y then b else a

/-! ## Functions, correctly rounded (R27) -/

/-- a / b with a sticky bit below the quotient, ready for rounding. -/
def fpDiv : Fp → Fp → Fp
  | .nan, _ => .nan
  | _, .nan => .nan
  | .inf _, .inf _ => .nan
  | .inf a, .fin b _ _ => .inf (a.xor b)
  | .fin a _ _, .inf b => .fin (a.xor b) 0 0
  | .fin a m e, .fin b n f =>
      if n = 0 then (if m = 0 then .nan else .inf (a.xor b))
      else if m = 0 then .fin (a.xor b) 0 0
      else
        let k := bitLen n + 64
        let q := m * 2 ^ k / n
        .fin (a.xor b) (2 * q + (if m * 2 ^ k % n = 0 then 0 else 1)) (e - f - k - 1)

/-- The reciprocal 1 / x (R208). -/
def f32Rcp (x : W32) : W32 := encF32 (fpDiv (.fin false 1 0) (decF32 x))

/-- RoundF32(a / b). -/
def f32Div (a b : W32) : W32 := encF32 (fpDiv (decF32 a) (decF32 b))

/-- The integer square root of n, bits b−1 down to 0 of the root still open. -/
def isqrtAux (n : Nat) : Nat → Nat → Nat
  | 0, r => r
  | b + 1, r => if (r + 2 ^ b) * (r + 2 ^ b) ≤ n then isqrtAux n b (r + 2 ^ b) else isqrtAux n b r

/-- The reciprocal square root; NaN for a negative non-zero operand, an infinity of its sign for a zero (R28, R208). -/
def f32Rsqrt (x : W32) : W32 :=
  match decF32 x with
  | .nan => nanF32
  | .inf n => if n then nanF32 else 0
  | .fin n m e =>
      if m = 0 then encF32 (.inf n)
      else if n then nanF32
      else
        let m' := if e % 2 = 0 then m else 2 * m
        let e' := if e % 2 = 0 then e else e - 1
        let k := bitLen m' + 64
        let t := 2 ^ (2 * k) / m'
        let r := isqrtAux t (k + 2) 0
        encF32 (.fin false (2 * r + (if r * r * m' = 2 ^ (2 * k) then 0 else 1)) (-(e' / 2) - k - 1))

/-- Fraction bits of the fixed-point evaluation of exp2 (DEDUCED, log 9). -/
def expBits : Nat := 320
/-- ln 2 × 2^320. -/
def ln2 : Nat := 0xb17217f7d1cf79abc9e3b39803f2f6af40f343267298b62d8a0d175b8baafa2be7b876206debac98

/-- 1 + t + t²/2! + … in fixed point: n more terms from the term of index k. -/
def expSeries (t : Nat) : Nat → Nat → Nat → Nat
  | 0, _, _ => 0
  | n + 1, k, term => term + expSeries t n (k + 1) (term * t / 2 ^ expBits / (k + 1))

/-- 2^x (R208): exact for an integer, else correctly rounded from 320 fraction bits (DEDUCED, log 9). -/
def fpExp2 : Fp → Fp
  | .nan => .nan
  | .inf n => if n then .fin false 0 0 else .inf false
  | .fin n m e =>
      if m = 0 then .fin false 1 0
      else if e + bitLen m > 10 then (if n then .fin false 1 (-1000) else .inf false)
      else if e < -(expBits : Int) then .fin false (2 ^ 60 + (if n then 0 else 2) - 1) (-60)
      else
        let v : Int := sgn n (m * pow2 (e + expBits))
        let i := v / (2 ^ expBits : Nat)
        let f := (v % (2 ^ expBits : Nat)).toNat
        if f = 0 then .fin false 1 i
        else .fin false (2 * expSeries (f * ln2 / 2 ^ expBits) 80 0 (2 ^ expBits) + 1) (i - expBits - 1)

/-- VEXP2.F32 (R208). -/
def f32Exp2 (x : W32) : W32 := encF32 (fpExp2 (decF32 x))

/-- Working fraction bits of log2 (DEDUCED, log 9). -/
def logBits : Nat := 400

/-- n binary digits of log2(y) for y = v / 2^400 in [1, 2), by repeated squaring. -/
def logDigits : Nat → Nat → Nat → Nat
  | 0, _, acc => acc
  | n + 1, v, acc =>
      let w := v * v / 2 ^ logBits
      if 2 ^ (logBits + 1) ≤ w then logDigits n (w / 2) (2 * acc + 1) else logDigits n w (2 * acc)

/-- log2 (R208): NaN for a negative non-zero operand, −∞ for a zero; exact for a power of two, else correctly rounded from 120
digits (DEDUCED, log 9). -/
def f32Log2 (x : W32) : W32 :=
  match decF32 x with
  | .nan => nanF32
  | .inf n => if n then nanF32 else encF32 (.inf false)
  | .fin n m e =>
      if m = 0 then encF32 (.inf true)
      else if n then nanF32
      else
        let l := bitLen m
        let k : Int := e + l - 1
        if m = 2 ^ (l - 1) then encF32 (fpInt k)
        else
          let d := logDigits 120 (m * 2 ^ (logBits + 1 - l)) 0
          let v : Int := 2 * (k * (2 ^ 120 : Nat) + d) + 1
          encF32 (.fin (decide (v < 0)) v.natAbs (-121))

/-! ## Conversions to integers (R27, R214) -/

/-- Clamp to lo … hi. -/
def clampInt (lo hi x : Int) : Int := max lo (min hi x)

/-- Toward zero, clamped; NaN gives 0. -/
def toIntRz (lo hi : Int) : Fp → Int
  | .nan => 0
  | .inf n => if n then lo else hi
  | .fin n m e => clampInt lo hi (sgn n (if 0 ≤ e then m * pow2 (min e 64) else m / pow2 (-e)))

/-- To nearest, ties to even, clamped; NaN gives 0. -/
def toIntRne (lo hi : Int) : Fp → Int
  | .nan => 0
  | .inf n => if n then lo else hi
  | .fin n m e =>
      if 0 ≤ e then clampInt lo hi (sgn n (m * pow2 (min e 64)))
      else
        let d := pow2 (-e)
        let r := m / d
        let rem := m % d
        clampInt lo hi (sgn n (if 2 * rem > d ∨ (2 * rem = d ∧ r % 2 = 1) then r + 1 else r))

/-! ## E2M1 elements (R22, R23) -/

/-- Twice the magnitude of codes 0 to 7. -/
def e2m1Twice (c : Nat) : Nat :=
  match c % 8 with
  | 0 => 0
  | 1 => 1
  | 2 => 2
  | 3 => 3
  | 4 => 4
  | 5 => 6
  | 6 => 8
  | _ => 12

/-- The value of an E2M1 code under its block's scale and spare bytes. -/
def decE2m1 (scale spare : Byte) (code : Nat) : Fp :=
  if scale = 0xFF then .nan
  else
    let x : Int := (scale.toNat : Int) - 127
    if code % 16 = 8 then
      (match decE4m3 spare with
       | .fin n m e => .fin n m (e + x)
       | v => v)
    else .fin (decide (8 ≤ code % 16)) (e2m1Twice code) (x - 1)

/-- A value times the E8M0 scale of its block; 0xFF makes it NaN (R20, R254). -/
def scaleE8m0 (scale : Byte) (v : Fp) : Fp :=
  if scale = 0xFF then .nan
  else match v with
    | .fin n m e => .fin n m (e + ((scale.toNat : Int) - 127))
    | w => w

end Sys2Proof.Machine
end

