-- ==== Sys2Proof/Machine/Operands.lean ====
section
/-! DEFINITION. Operand forms: immediates and offsets (spec/03 R47), effective addresses, vector register fields that step
(R60, R61), scratchpad addresses of vector memory words (R62), sizes and lane masks. -/

namespace Sys2Proof.Machine

/-- IMM12 as a signed value (R47). -/
def imm12s (imm : BitVec 12) : W64 := sext64 imm
/-- IMM12 as an unsigned value (R47). -/
def imm12u (imm : BitVec 12) : W64 := zext64 imm
/-- IMM20 shifted left by 12 (R47). -/
def imm20 (imm : BitVec 20) : W64 := sext64 imm <<< 12
/-- The displacement of BR and CALL in bytes (R47). -/
def disp (d : BitVec 32) : W64 := sext64 d <<< 3

/-- The address s[A] + Sext(OFF12, 12) (R47). -/
def ea (s : State) (a : Reg) (off : BitVec 12) : W64 := rd s a + imm12s off

/-- The byte count of a CM or CA size field (R46). -/
def szBytes (sz : BitVec 2) : Nat := 2 ^ sz.toNat

/-- The deadline operand s[C][31:0] (R49, R317). -/
def dlOf (s : State) (c : Reg) : Nat := bits (rd s c) 31 0

/-- The base of the scratchpad window, VA bits [54:21] (R223, R312), sign-extended as R146 asks of an address. -/
def spwinBase (c : Core) : W64 := sext64 (c.csr.spwin ++ 0#21)

/-- An address lies in the scratchpad window (R223). -/
def inWindow (c : Core) (va : W64) : Bool := decide ((va - spwinBase c).toNat < 0x200000)

/-- The scratchpad byte of a window address (R223). -/
def winByte (c : Core) (va : W64) : Nat := (va - spwinBase c).toNat

/-- The register number that a stepped field names on repeat n (R61). -/
def vidx (r : BitVec 10) (step : BitVec 4) (n : Nat) : Nat := ((r.toNat : Int) + (n : Int) * step.toInt).toNat

/-- The byte address of a vector memory word on repeat n, modulo 2^21 (R62). -/
def vmAddr (a : BitVec 21) (off : BitVec 17) (step : BitVec 4) (n : Nat) : Nat :=
  (((a.toNat + off.toNat * 16 : Nat) : Int) + (n : Int) * step.toInt * 256).emod 2097152 |>.toNat

/-- All 64 lanes. -/
def allLanes : W64 := BitVec.allOnes 64

end Sys2Proof.Machine
end

