-- ==== Sys2Proof/Config.lean ====
section
/-! DEFINITION. What the spec leaves to the part or takes from another standard: constants without a body, so that no
proof rests on a value (DESIGN CHOICE, log 11). -/

namespace Sys2Proof.Config

/-- SHA3-256 (FIPS 202) of a byte string, named by spec/25_system.md R460; opaque (DESIGN CHOICE, log 11). -/
opaque sha3 : List Byte → List Byte
/-- ML-DSA-44 (FIPS 204) verification of message and signature under the fused firmware key (R460); opaque (DESIGN CHOICE, log 11). -/
opaque firmwareSigOk : List Byte → Bool
/-- ML-DSA-44 verification of a life-cycle token under the fused token key (R462); opaque (DESIGN CHOICE, log 11). -/
opaque tokenSigOk : List Byte → Bool
/-- The signature of an attestation report with the identity key (R463); opaque (DESIGN CHOICE, log 11). -/
opaque identitySign : List Byte → List Byte
/-- The identity public key (R463); opaque (DESIGN CHOICE, log 11). -/
opaque identityKey : List Byte
/-- The fused 64-bit identifier DEVUID (R462); opaque (DESIGN CHOICE, log 11). -/
opaque devUid : W64
/-- The measured items of the boot: controller, Graph Unit and root controller firmware, fuse configuration (R460); opaque (DESIGN CHOICE, log 11). -/
opaque bootItem : Nat → List Byte
/-- AES-256-XTS of a 64-byte data unit under the key of an encryption tag (R136, R161), by tag and number of the unit (the tweak): some permutation of
the unit's values, so that decryption undoes it; opaque (DESIGN CHOICE, log 84). -/
opaque xts : Nat → Nat → Equiv.Perm (BitVec 512)
/-- The CRC-64 of a flit's bytes, of which the spec gives no polynomial; opaque (DESIGN CHOICE, log 43). -/
opaque crc64 : List Byte → W64
/-- The channel of its HBM4 stack that holds a physical page; opaque (DESIGN CHOICE, log 89). -/
opaque channelOf : Nat → Nat
/-- The length in executor cycles of a stall, by executor and number: the model counts no cycles; opaque (DESIGN CHOICE, log 32). -/
opaque stallCycles : Nat → Nat → W64
/-- A value that the spec leaves open, fresh at each index (DESIGN CHOICE, log 19). -/
opaque freeValue : Nat → W64

end Sys2Proof.Config
end

