-- ==== Sys2Proof/Machine/Mem.lean ====
section
/-! DEFINITION. Physical memory and the L2 slices (spec/08_translation_l2.md R149, R153 to R159, R163, R165, R468): address ranges and
owners, memory bytes, encryption (spec/07_stem.md R135, R136), format ranges, cache-way lines of the two views, write-back, poison. -/

namespace Sys2Proof.Machine

/-! ## Address ranges (R149) -/

/-- Bit 51 of an address selects the raw view. -/
def viewBit : Nat := 2 ^ 51

/-- An address without its view bit. -/
def pa50 (pa : Nat) : Nat := pa % viewBit

/-- The address is a raw-view address. -/
def isRaw (pa : Nat) : Bool := decide (viewBit ≤ pa % (2 * viewBit))

/-- The memory that a physical address names. -/
inductive PRange where
  | hbm (stack : Nat)
  | stalk
  | bud (slice : Nat)
  | root
  | host
  | none
deriving DecidableEq, Repr

/-- The range of a physical address (R149). -/
def paRange (pa : Nat) : PRange :=
  let p := pa50 pa
  if p ≤ 0x008FFFFFFFFF then .hbm (p / 0xC00000000)
  else if 0x040000000000 ≤ p ∧ p ≤ 0x07FFFFFFFFFF then .stalk
  else if 0x080000000000 ≤ p ∧ p ≤ 0x08007FFFFFFF then .bud ((p - 0x080000000000) / 0x1000000)
  else if 0x400000000000 ≤ p ∧ p ≤ 0x7FFFFFFFFFFF then .root
  else if 0x800000000000 ≤ p then .host
  else .none

/-- The address lies in the host range. -/
def isHost (pa : Nat) : Bool := paRange pa == .host

/-- The owning slice of a physical address; both views have one owner (R149). -/
def owner (pa : Nat) : Nat :=
  let p := pa50 pa
  let low := Nat.xor (p / 2048 % 32) (p / 65536 % 32)
  match paRange pa with
  | .hbm s => 32 * (s / 3) + low
  | .bud n => n
  | _ => 32 * (p / 65536 % 4) + low

/-- The slice that serves an address: a retired slice has handed its role to the next one of its pair (R407). -/
def ownerOf (gone : List Nat) (pa : Nat) : Nat := if gone.contains (owner pa) then Nat.xor (owner pa) 1 else owner pa

/-- Lines of this address are held in cache ways; Bud pages lie in the staging share itself and host memory behind the link. -/
def cached (pa : Nat) : Bool :=
  match paRange pa with
  | .hbm _ => true
  | .stalk => true
  | .root => true
  | _ => false

/-! ## Memory bytes -/

/-- What an unlisted byte reads as: zero (R465; DESIGN CHOICE, log 4). -/
def memDefault : Byte := 0

/-- Read n bytes of memory at a physical address. -/
def memRead (m : MemSys) (pa n : Nat) : List Byte := tblGetRange memDefault m.mem (pa50 pa) n

/-- Write bytes to memory at a physical address. -/
def memWrite (m : MemSys) (pa : Nat) (bs : List Byte) : MemSys := { m with mem := tblSetRange memDefault m.mem (pa50 pa) bs }

/-- The memory's canonical form: addresses strictly rising and no byte equal to what an unlisted address reads as. -/
abbrev MemSys.wf (m : MemSys) : Bool := tblWf memDefault m.mem

/-- The 32-byte sector of memory is poisoned (R405). -/
def memPoison (m : MemSys) (pa : Nat) : Bool := tblGet false m.poison (pa50 pa / 32)

/-- Mark or clear a sector's poison. -/
def setMemPoison (m : MemSys) (pa : Nat) (b : Bool) : MemSys := { m with poison := tblSet false m.poison (pa50 pa / 32) b }

/-! ## Format ranges (R155) -/

/-- Register idx of controller ctl. -/
def frrAt (m : MemSys) (ctl idx : Nat) : Frr := tblGet {} m.frr (16 * ctl + idx)

/-- The memory controller that holds an address; none for Bud, Root and host memory. -/
def ctlOf (pa : Nat) : Option Nat :=
  match paRange pa with
  | .hbm s => some s
  | .stalk => some (12 + pa50 pa / 65536 % 4)
  | _ => none

/-- The first enabled range of a controller, registers n−1 down to 0 searched last to first, that holds the page. -/
def findFrr (m : MemSys) (ctl pa : Nat) : Nat → Option Frr
  | 0 => none
  | n + 1 =>
      let f := frrAt m ctl n
      if f.en && decide (f.base.toNat / 65536 ≤ pa50 pa / 65536) && decide (pa50 pa / 65536 ≤ f.lim.toNat / 65536) then some f
      else findFrr m ctl pa n

/-- The enabled format range that holds an address (R155, R157). -/
def frrOf (m : MemSys) (pa : Nat) : Option Frr :=
  match ctlOf pa with
  | none => none
  | some c => findFrr m c pa 16

/-- Side bytes per line of 128 code bytes: 16 for E2M1, 4 for 8-bit formats with blocks, none otherwise (R155, R157). -/
def sideCount (f : Frr) : Nat := if f.fmt = 4 then 16 else if f.blk then 4 else 0

/-- The physical address of a line's first side byte (R24, R155). -/
def sideAt (f : Frr) (line : Nat) : Nat := f.scb.toNat + (line - f.base.toNat) / 128 * sideCount f

/-! ## Cache-way lines -/

/-- The key of the line of one view, under one encryption tag, that holds an address. -/
def lineKey (pa : Nat) : Nat := pa / 128

/-- The poison marks of the four sectors of a line of memory. -/
def linePoison (m : MemSys) (pa : Nat) : BitVec 4 :=
  let p (i : Nat) (v : BitVec 4) : BitVec 4 := if memPoison m (pa + 32 * i) then v else 0
  p 0 1 ||| p 1 2 ||| p 2 4 ||| p 3 8

/-! ## Encryption (R135, R136, R161)

The access's encryption tag stands above bit 51 of the physical address that its translation gives: 0 for none, else one number for each context's
key of the compute die's controllers or of the base-die engine (log 84). -/

/-- The encryption tag of an address. -/
def encOf (pa : Nat) : Nat := pa / (2 * viewBit)

/-- The tag of an access through an entry with ENC e under key number k: HBM behind both engines, a Stalk port behind the compute die's; other
memory is not encrypted. -/
def encTag (k e pa : Nat) : Nat :=
  match paRange pa with
  | .hbm _ => if e = 0 then 0 else 2 * k + e
  | .stalk => if e = 1 then 2 * k + 1 else 0
  | _ => 0

/-- The physical address with the tag of the entry's access. -/
def withEnc (k e pa : Nat) : Nat := pa % (2 * viewBit) + encTag k e pa * (2 * viewBit)

/-- The memory of data unit u lies behind an encryption engine. -/
def encrypts (u : Nat) : Bool :=
  match paRange (64 * u) with
  | .hbm _ => true
  | .stalk => true
  | _ => false

/-- An access with a tag reads data unit u as its writer saw it. -/
def sameTag (m : MemSys) (tag u : Nat) : Bool := !encrypts u || tblGet 0 m.enc u == tag

/-- A data unit's value in its cell as it is encrypted under a tag; tag 0 leaves it plain. -/
def encrypted (tag u : Nat) (x : BitVec 512) : BitVec 512 := if tag = 0 then x else Config.xts tag u x

/-- What a cell's value decrypts to under a tag. -/
def decrypted (tag u : Nat) (x : BitVec 512) : BitVec 512 := if tag = 0 then x else (Config.xts tag u).symm x

/-- The 64 bytes of a data unit as an access with a tag reads them: a unit written under another tag reads as that ciphertext decrypts. -/
def unitUnder (m : MemSys) (tag u : Nat) : List Byte :=
  if sameTag m tag u then memRead m (64 * u) 64
  else leBytes 64 (decrypted tag u (encrypted (tblGet 0 m.enc u) u (BitVec.ofNat 512 (leNat (memRead m (64 * u) 64))))).toNat

/-- Read n bytes of one data unit under a tag. -/
def cellRead (m : MemSys) (tag pa n : Nat) : List Byte := ((unitUnder m tag (pa50 pa / 64)).drop (pa % 64)).take n

/-- One byte of the cells under a tag, as an engine below the slices reads it. -/
def cellByte (m : MemSys) (pa : Nat) : Byte :=
  if sameTag m (encOf pa) (pa50 pa / 64) then tblGet memDefault m.mem (pa50 pa) else (unitUnder m (encOf pa) (pa50 pa / 64)).getD (pa % 64) 0

/-- A data unit comes under a tag before a part of it is written under it. -/
def adopt (m : MemSys) (tag u : Nat) : MemSys :=
  if sameTag m tag u then m
  else { memWrite m (64 * u) (unitUnder m tag u) with enc := tblSet 0 m.enc u tag }

/-- Write bytes of one data unit under a tag. -/
def cellWrite (m : MemSys) (tag pa : Nat) (bs : List Byte) : MemSys := memWrite (adopt m tag (pa50 pa / 64)) pa bs

/-- The line at a key as it fills: bytes of memory, and through the formatted view the tag and side bytes of its format range,
or those held beside a Bud or Root line (R157, R468). -/
def fillLine (m : MemSys) (key : Nat) : Line :=
  let pa := key * 128
  let base := pa50 pa
  let data := cellRead m (encOf pa) base 64 ++ cellRead m (encOf pa) (base + 64) 64
  let poison := linePoison m base
  if isRaw pa then { data := data, poison := poison }
  else
    match frrOf m base with
    | some f => { data := data, poison := poison, tag := f.fmt, side := cellRead m (encOf pa) (sideAt f base) (sideCount f) }
    | none =>
        match paRange base with
        | .bud _ => let x := tblGet {} m.side (base / 128); { data := data, poison := poison, tag := x.tag, side := x.bytes }
        | .root => let x := tblGet {} m.side (base / 128); { data := data, poison := poison, tag := x.tag, side := x.bytes }
        | _ => { data := data, poison := poison }

/-- The line at a key: the cache way where it is held, else as it fills. -/
def lineAt (m : MemSys) (key : Nat) : Line :=
  match tblGet none m.l2 key with
  | some l => l
  | none => fillLine m key

/-- Hold a line in the cache ways. -/
def putLine (m : MemSys) (key : Nat) (l : Line) : MemSys := { m with l2 := tblSet none m.l2 key (some l) }

/-- Fill the line of a cached address; nothing for memory that is not cached. -/
def touchLine (m : MemSys) (pa : Nat) : MemSys :=
  if cached pa then
    (match tblGet none m.l2 (lineKey pa) with | some _ => m | none => putLine m (lineKey pa) (fillLine m (lineKey pa)))
  else m

/-- Whether sector i of a line is marked. -/
def secBit (b : BitVec 4) (i : Nat) : Bool := b.getLsbD i

/-- Read n bytes at the owning slice, within one line. -/
def sliceRead1 (m : MemSys) (pa n : Nat) : List Byte := ((lineAt m (lineKey pa)).data.drop (pa % 128)).take n

/-- The bytes read touch a poisoned sector, within one line. -/
def slicePoison1 (m : MemSys) (pa n : Nat) : Bool :=
  let l := lineAt m (lineKey pa)
  (List.range 4).any (fun i => secBit l.poison i && decide (pa % 128 < 32 * i + 32) && decide (32 * i < pa % 128 + n))

/-- Write the sectors n−1 down to 0 of a line that are dirty back to memory, with their poison marks. -/
def writeSectors (m : MemSys) (tag pa : Nat) (l : Line) : Nat → MemSys
  | 0 => m
  | n + 1 =>
      let m := writeSectors m tag pa l n
      if secBit l.dirty n then
        setMemPoison (cellWrite m tag (pa + 32 * n) ((l.data.drop (32 * n)).take 32)) (pa + 32 * n) (secBit l.poison n)
      else m

/-- Store a line's side bytes where its home keeps them, under its encryption tag (R157, R468). -/
def storeSide (m : MemSys) (enc base : Nat) (tag : BitVec 4) (side : List Byte) : MemSys :=
  match paRange base with
  | .bud _ => { m with side := tblSet {} m.side (base / 128) { tag := tag, bytes := side } }
  | .root => { m with side := tblSet {} m.side (base / 128) { tag := tag, bytes := side } }
  | _ =>
      match frrOf m base with
      | some f => cellWrite m enc (sideAt f base) (side.take (sideCount f))
      | none => m

/-- Write back a line's dirty sectors and side bytes (R153, R157). -/
def writeBack (m : MemSys) (key : Nat) : MemSys :=
  match tblGet none m.l2 key with
  | none => m
  | some l =>
      let base := pa50 (key * 128)
      let e := encOf (key * 128)
      let m := writeSectors m e base l 4
      let m := if l.sideDirty then storeSide m e base l.tag l.side else m
      putLine m key { l with dirty := 0, sideDirty := false }

/-- Write back a line and drop it (L2_LINE_EVICTION, R158). -/
def evictLine (m : MemSys) (key : Nat) : MemSys :=
  let m := writeBack m key
  { m with l2 := tblSet none m.l2 key none }

/-- Evict each line of a list of keys, in order. -/
def evictAll : List Nat → MemSys → MemSys
  | [], m => m
  | k :: r, m => evictAll r (evictLine m k)

/-- The held lines whose keys, without their encryption tags, lie from lo for n keys. -/
def keysIn (m : MemSys) (lo n : Nat) : List Nat :=
  (m.l2.filter (fun e => decide (lo ≤ e.1 % (viewBit / 64)) && decide (e.1 % (viewBit / 64) < lo + n))).map (fun e => e.1)

/-- Join the two views of a 64 KiB page: write back and drop its formatted-view lines, then its raw-view lines, so that the
raw-view sector remains where both are dirty (R159). -/
def joinPage (m : MemSys) (page : Nat) : MemSys :=
  let base := pa50 page / 65536 * 512
  let m := evictAll (keysIn m base 512) m
  evictAll (keysIn m (base + viewBit / 128) 512) m

/-- The poison marks after a write of n bytes from offset o: a whole sector clears its mark, a part leaves it (R405). -/
def clearPoison (p : BitVec 4) (o n : Nat) : BitVec 4 :=
  let k (i : Nat) (v : BitVec 4) : BitVec 4 := if decide (o ≤ 32 * i) && decide (32 * i + 32 ≤ o + n) then v else 0
  p &&& ~~~(k 0 1 ||| k 1 2 ||| k 2 4 ||| k 3 8)

/-- The sectors that a write of n bytes from offset o touches. -/
def touched (o n : Nat) : BitVec 4 :=
  let k (i : Nat) (v : BitVec 4) : BitVec 4 := if decide (o < 32 * i + 32) && decide (32 * i < o + n) then v else 0
  k 0 1 ||| k 1 2 ||| k 2 4 ||| k 3 8

/-- Set the poison of the sectors i−1 to 0 of memory at base that a mask selects. -/
def putPoison (m : MemSys) (base : Nat) (sel v : BitVec 4) : Nat → MemSys
  | 0 => m
  | i + 1 =>
      let m := putPoison m base sel v i
      if secBit sel i then setMemPoison m (base + 32 * i) (secBit v i) else m

/-- Write bytes at the owning slice, within one line: into the view's cache-way line, allocated where absent, or straight into
the staging share or host memory. -/
def sliceWrite1 (m : MemSys) (pa : Nat) (bs : List Byte) : MemSys :=
  let o := pa % 128
  let l := lineAt m (lineKey pa)
  let p := clearPoison l.poison o bs.length
  if cached pa then
    putLine m (lineKey pa)
      { l with data := splice l.data o bs, dirty := l.dirty ||| touched o bs.length, poison := p }
  else putPoison (memWrite m pa bs) (pa50 pa - o) (touched o bs.length) p 4

/-- Read n bytes that may cross lines; fuel bounds the lines. -/
def sliceReadN (m : MemSys) : Nat → Nat → Nat → List Byte
  | 0, _, _ => []
  | f + 1, pa, n =>
      let k := min n (128 - pa % 128)
      if n = 0 then [] else sliceRead1 m pa k ++ sliceReadN m f (pa + k) (n - k)

/-- Read n bytes at the owning slices. -/
def sliceRead (m : MemSys) (pa n : Nat) : List Byte := sliceReadN m (n / 128 + 2) pa n

/-- Fill the lines of n bytes. -/
def touchN (m : MemSys) : Nat → Nat → Nat → MemSys
  | 0, _, _ => m
  | f + 1, pa, n =>
      let k := min n (128 - pa % 128)
      if n = 0 then m else touchN (touchLine m pa) f (pa + k) (n - k)

/-- The lines that a read of n bytes fills. -/
def sliceTouch (m : MemSys) (pa n : Nat) : MemSys := touchN m (n / 128 + 2) pa n

/-- Some byte of n is poisoned; fuel bounds the lines. -/
def slicePoisonN (m : MemSys) : Nat → Nat → Nat → Bool
  | 0, _, _ => false
  | f + 1, pa, n =>
      let k := min n (128 - pa % 128)
      if n = 0 then false else slicePoison1 m pa k || slicePoisonN m f (pa + k) (n - k)

/-- Some byte of n bytes at the owning slices is poisoned (R405). -/
def slicePoison (m : MemSys) (pa n : Nat) : Bool := slicePoisonN m (n / 128 + 2) pa n

/-- Write bytes that may cross lines; fuel bounds the lines. -/
def sliceWriteN (m : MemSys) : Nat → Nat → List Byte → MemSys
  | 0, _, _ => m
  | f + 1, pa, bs =>
      let k := min bs.length (128 - pa % 128)
      if bs.isEmpty then m else sliceWriteN (sliceWrite1 m pa (bs.take k)) f (pa + k) (bs.drop k)

/-- Write bytes at the owning slices. -/
def sliceWrite (m : MemSys) (pa : Nat) (bs : List Byte) : MemSys := sliceWriteN m (bs.length / 128 + 2) pa bs

/-- Mark every sector of n bytes poisoned at its slice (R405). -/
def slicePoisonMark (m : MemSys) (pa n : Nat) : MemSys :=
  let l := lineAt m (lineKey pa)
  let t := touched (pa % 128) n
  if cached pa then putLine m (lineKey pa) { l with poison := l.poison ||| t, dirty := l.dirty ||| t }
  else putPoison m (pa50 pa - pa % 128) t (l.poison ||| t) 4

/-- Code bytes of one block: 16 for E2M1, 32 for the 8-bit formats (R24, R155). -/
def blockBytes (tag : BitVec 4) : Nat := if tag = 4 then 16 else 32

/-- Side bytes with those of the block at offset o of a line of format tag replaced; `old` is the tag that the line has. -/
def putBlock (old tag : BitVec 4) (side : List Byte) (o : Nat) (sb : List Byte) : List Byte :=
  let n := 128 / blockBytes tag * sb.length
  splice (if old = tag then side ++ zeros (n - side.length) else zeros n) (o / blockBytes tag * sb.length) sb

/-- Write the side bytes of one block of a scaled line of format tag as the copy engine does: a Leaf or Stalk line holds them where its range has
that format with blocks, a Bud or Root line beside its code bytes (R157, R181, R468); the raw view holds none. -/
def sliceWriteBlock (m : MemSys) (pa : Nat) (tag : BitVec 4) (sb : List Byte) : MemSys :=
  if isRaw pa then m
  else if cached pa then
    let l := lineAt m (lineKey pa)
    let new := { l with side := putBlock l.tag tag l.side (pa % 128) sb, tag := tag, sideDirty := true }
    match paRange pa with
    | .root => putLine m (lineKey pa) new
    | _ => if l.tag = tag ∧ l.side ≠ [] then putLine m (lineKey pa) new else m
  else
    match paRange pa with
    | .bud _ =>
        let l := lineAt m (lineKey pa)
        storeSide m 0 (pa50 pa / 128 * 128) tag (putBlock l.tag tag l.side (pa % 128) sb)
    | _ => m

/-- Write the whole side bytes of a line, as a move does at its new home (R157, R468): a Leaf or Stalk line keeps its range's tag and
takes them where it has one. -/
def sliceWriteSide (m : MemSys) (pa : Nat) (side : List Byte) (tag : BitVec 4) : MemSys :=
  if cached pa then
    let l := lineAt m (lineKey pa)
    match paRange pa with
    | .root => if l.tag = 0xF ∧ tag = 0xF then m else putLine m (lineKey pa) { l with side := side, tag := tag, sideDirty := true }
    | _ => if l.tag = 0xF ∨ tag = 0xF then m else putLine m (lineKey pa) { l with side := side, sideDirty := true }
  else storeSide m 0 (pa50 pa / 128 * 128) tag side

/-! ## The atomic order log (R165) -/

/-- The ring of the slice that serves an address has room for n services: a full ring stalls its logged services, those that extend a run too. -/
def aoRoom (m : MemSys) (pa n : Nat) : Bool := decide ((m.aolog.filter (fun r => r.slice == ownerOf m.gone pa)).length + n ≤ m.aocap)

/-- The oldest record of a slice's ring is taken out, which frees its space. -/
def aoFree (m : MemSys) (slice : Nat) : MemSys :=
  match m.aolog.find? (fun r => r.slice == slice) with
  | some r => { m with aolog := m.aolog.erase r }
  | none => m

/-- Change the last record of a log that a test selects. -/
def aoMapLast (same : AoRun → Bool) (f : AoRun → AoRun) : List AoRun → List AoRun
  | [] => []
  | x :: xs => if same x && !(xs.any same) then f x :: xs else x :: aoMapLast same f xs

/-- A service of a requester at an address: logged, it extends the last run of its slice and address where the requester is the same, else a new run
opens; not logged, it closes another requester's run there. Runs are kept oldest first. -/
def aoServe (m : MemSys) (log : Bool) (pa : Nat) (src : BitVec 16) (t : W64) : MemSys :=
  let sl := ownerOf m.gone pa
  let pa := pa % (2 * viewBit)
  let same (r : AoRun) : Bool := r.slice == sl && r.addr == pa
  if log then
    match m.aolog.reverse.find? same with
    | some r =>
        if r.src = src ∧ r.len < 65535 ∧ r.shut = false then { m with aolog := aoMapLast same (fun x => { x with len := x.len + 1 }) m.aolog }
        else { m with aolog := m.aolog ++ [{ slice := sl, addr := pa, src := src, len := 1, t := t.setWidth 32 }] }
    | none => { m with aolog := m.aolog ++ [{ slice := sl, addr := pa, src := src, len := 1, t := t.setWidth 32 }] }
  else { m with aolog := aoMapLast same (fun x => if x.src = src then x else { x with shut := true }) m.aolog }

end Sys2Proof.Machine
end

