-- ==== Sys2Proof/Machine/Xlate.lean ====
section
/-! DEFINITION. Translation of virtual addresses: the three-level walk, its faults, the TLBs (spec/08_translation_l2.md R146 to R151). -/

namespace Sys2Proof.Machine

/-- The kind of an access to a page (R148). -/
inductive Acc where
  | read | write | atomic | fetch
deriving DecidableEq, Repr

/-- The access writes. -/
def Acc.wr : Acc → Bool
  | .write => true
  | .atomic => true
  | _ => false

/-- A translation: the physical address with its view bit and the access's encryption tag, the page's ORD and ENC. -/
structure Xl where
  pa : Nat := 0
  ord : Nat := 0
  enc : Nat := 0
deriving DecidableEq, Repr

/-- XFINFO of a fault (R151): KIND, SEQ, FETCH, WR, LEVEL. -/
def xfInfo (kind : Nat) (sq : Seq) (acc : Acc) (level : Nat) : BitVec 8 :=
  BitVec.ofNat 8 (kind + 4 * seqNo sq + (if acc = .fetch then 16 else 0) + (if acc.wr then 32 else 0) + 64 * level)

/-- The fault of a translation: XLATE or PROTECT with XFADDR and XFINFO (R151, R392). -/
def xlFault (kind : Nat) (va : W64) (sq : Seq) (acc : Acc) (level : Nat) : Trap :=
  { code := if kind = 1 then 0x03 else 0x04, tval := va, xf := some (va, xfInfo kind sq acc level) }

/-- Bits [63:55] equal bit 54 (R146). -/
def canonical (va : W64) : Bool := sext64 (va.extractLsb' 0 55) == va

/-- Fields of a page-table entry (R147). -/
def pteLeaf (e : W64) : Bool := bit e 11
def pteG (e : W64) : Bool := bit e 8
def pteEnc (e : W64) : Nat := bits e 7 6
def pteOrd (e : W64) : Nat := bits e 5 4

/-- The physical address that a leaf entry of a page of 2^shift bytes gives (R146, R147). -/
def leafPa (e : W64) (shift : Nat) (va : W64) : Nat := bits e 51 16 * 65536 / 2 ^ shift * 2 ^ shift + va.toNat % 2 ^ shift

/-- The first condition of R148 at a level, and the ranges of R149. -/
def pteBad (e : W64) (level shift : Nat) (va : W64) : Bool :=
  !bit e 0 || bits e 63 52 != 0 || bits e 15 12 != 0 ||
  (if pteLeaf e then
     pteOrd e == 3 || pteEnc e == 3 || bits e 51 16 * 65536 % 2 ^ 51 % 2 ^ shift != 0 ||
       paRange (leafPa e shift va) == .none
   else level == 3 || bits e 10 1 != 0)

/-- The second condition of R148: the access's right is missing. -/
def pteDenied (e : W64) (acc : Acc) : Bool :=
  match acc with
  | .read => !bit e 1
  | .write => !bit e 2
  | .atomic => !bit e 2
  | .fetch => !bit e 3

/-- The third condition of R148. -/
def pteForbidden (m : MemSys) (pa : Nat) (acc : Acc) : Bool :=
  match acc with
  | .atomic => isHost pa || (!isRaw pa && (frrOf m pa).isSome)
  | .write => isHost pa && !isRaw pa
  | _ => false

/-- The entry with ACC, and DIRTY on a write (R148). -/
def pteMark (e : W64) (acc : Acc) : W64 := e ||| 0x200 ||| (if acc.wr then 0x400 else 0)

/-- Walk from a table at a level (3 minus the fuel, plus 1): a fault, or the leaf entry, its page size and where it lies. A poisoned entry is no
value: the access ends as one that reads poison (R405; DESIGN CHOICE, log 102). -/
def walk (m : MemSys) (va : W64) (acc : Acc) (sq : Seq) : Nat → Nat → Nat → Except Trap (W64 × Nat × Nat × Nat)
  | 0, _, _ => .error (xlFault 1 va sq acc 3)
  | f + 1, level, table =>
      let shift := if level = 1 then 42 else if level = 2 then 29 else 16
      let idx := va.toNat / 2 ^ shift % 8192
      let at_ := table + 8 * idx
      let e := BitVec.ofNat 64 (leNat (sliceRead m at_ 8))
      if slicePoison m at_ 8 then .error (.poison va)
      else if pteBad e level shift va then .error (xlFault 1 va sq acc level)
      else if pteLeaf e then
        if pteDenied e acc then .error (xlFault 2 va sq acc level)
        else if pteForbidden m (leafPa e shift va) acc then .error (xlFault 2 va sq acc level)
        else .ok (e, shift, at_, level)
      else walk m va acc sq f (level + 1) (bits e 51 16 * 65536)

/-- A TLB entry holds the leaf of an address of a context (R150). -/
def tlbCovers (ctx : Nat) (va : W64) (t : TlbEnt) : Bool :=
  (t.ctx == ctx || pteG t.pte) && t.va / 2 ^ t.shift == va.toNat % 2 ^ 55 / 2 ^ t.shift

/-- A TLB entry translates an address of a context; one that would give no memory leaves it to the walk, which faults (R149). -/
def tlbHit (ctx : Nat) (va : W64) (t : TlbEnt) : Bool := tlbCovers ctx va t && paRange (leafPa t.pte t.shift va) != .none

/-- Keep at most n entries, the newest. -/
def tlbPut (n : Nat) (l : List TlbEnt) (e : TlbEnt) : List TlbEnt :=
  let l := l.filter (fun t => !(t.va == e.va && t.shift == e.shift && t.ctx == e.ctx)) ++ [e]
  l.drop (l.length - n)

/-- The die whose shared TLB an executor uses; Root executors, which lie on no die, share a fifth one (R150; DESIGN CHOICE, log 103). -/
def dieOf (ex : Nat) : Nat := if ex < 256 then ex / 64 else 4

/-- Set ACC and DIRTY at the entry's owning slice by one atomic OR (R148). -/
def markPte (m : MemSys) (at_ : Nat) (acc : Acc) : MemSys :=
  let e := BitVec.ofNat 64 (leNat (sliceRead m at_ 8))
  if pteMark e acc = e then m else sliceWrite m at_ (leBytes 8 (pteMark e acc).toNat)

/-- The number of a context's encryption keys (R136). -/
def keyOf (s : State) (ctx : Nat) : Nat := match tblGet none s.ctxs ctx with | some x => x.key | none => 0

/-- What a leaf entry of a context gives for an address: the physical address with the tag of its ENC, ORD, ENC (R147, R161). -/
def xlOf (s : State) (ctx : Nat) (e : W64) (shift : Nat) (va : W64) : Xl :=
  { pa := withEnc (keyOf s ctx) (pteEnc e) (leafPa e shift va), ord := pteOrd e, enc := pteEnc e }

/-- Translate an address for the running context with its TLBs: a fault, or the translation and the state with ACC, DIRTY and
the TLB entries set (R146 to R151). -/
def translate (s : State) (va : W64) (acc : Acc) (sq : Seq) : Except Trap Xl × State :=
  let c := me s
  let ctx := c.run.inst.ctx
  if !canonical va then (.error (xlFault 1 va sq acc 1), s)
  else
    let die := dieOf s.ex.val
    let dtlb := tblGet [] s.ms.dieTlb die
    match (c.tlb ++ dtlb).find? (tlbHit ctx va) with
    | some t =>
        let pa := leafPa t.pte t.shift va
        if pteDenied t.pte acc || pteForbidden s.ms pa acc then (.error (xlFault 2 va sq acc 0), s)
        else
          let s := if acc.wr && !bit t.pte 10 then
              let t' := { t with pte := pteMark t.pte acc }
              onMe { s with ms := { markPte s.ms t.loc acc with dieTlb := tblSet [] s.ms.dieTlb die (tlbPut 32768 dtlb t') } }
                (fun c => { c with tlb := tlbPut 1024 c.tlb t' })
            else onMe s (fun c => { c with tlb := tlbPut 1024 c.tlb t })
          (.ok (xlOf s ctx t.pte t.shift va), s)
    | none =>
        match walk s.ms va acc sq 3 1 (bits c.csr2.ptroot 50 16 * 65536) with
        | .error t => (.error t, s)
        | .ok (e, shift, at_, _) =>
            let e' := pteMark e acc
            let t : TlbEnt := { ctx := ctx, va := va.toNat % 2 ^ 55 / 2 ^ shift * 2 ^ shift, shift := shift, pte := e', loc := at_ }
            let ms := markPte s.ms at_ acc
            let s := onMe { s with ms := { ms with dieTlb := tblSet [] ms.dieTlb die (tlbPut 32768 dtlb t) } }
              (fun c => { c with tlb := tlbPut 1024 c.tlb t })
            (.ok (xlOf s ctx e' shift va), s)

/-- Read n bytes of virtual memory page by page; fuel bounds the pages. -/
def readVaN (sq : Seq) : Nat → State → W64 → Nat → Except Trap (List Byte) × State
  | 0, s, _, _ => (.ok [], s)
  | f + 1, s, va, n =>
      if n = 0 then (.ok [], s)
      else
        let k := min n (65536 - va.toNat % 65536)
        match translate s va .read sq with
        | (.error t, s) => (.error t, s)
        | (.ok x, s) =>
            let s := { s with ms := sliceTouch s.ms x.pa k }
            if slicePoison s.ms x.pa k then (.error (.poison va), s)
            else
              match readVaN sq f s (va + BitVec.ofNat 64 k) (n - k) with
              | (.error t, s) => (.error t, s)
              | (.ok r, s) => (.ok (sliceRead s.ms x.pa k ++ r), s)

/-- Read n bytes of virtual memory as a plain load at the owning slices: a fault, POISON, or the bytes. -/
def readVa (s : State) (va : W64) (n : Nat) (sq : Seq) : Except Trap (List Byte) × State := readVaN sq (n / 65536 + 2) s va n

/-- Write bytes of virtual memory page by page; fuel bounds the pages. -/
def writeVaN (sq : Seq) : Nat → State → W64 → List Byte → Except Trap Unit × State
  | 0, s, _, _ => (.ok (), s)
  | f + 1, s, va, bs =>
      if bs.isEmpty then (.ok (), s)
      else
        let k := min bs.length (65536 - va.toNat % 65536)
        match translate s va .write sq with
        | (.error t, s) => (.error t, s)
        | (.ok x, s) =>
            writeVaN sq f { s with ms := sliceWrite s.ms x.pa (bs.take k) } (va + BitVec.ofNat 64 k) (bs.drop k)

/-- Write bytes of virtual memory at the owning slices: a fault where a page does not translate, the pages before it written. -/
def writeVa (s : State) (va : W64) (bs : List Byte) (sq : Seq) : Except Trap Unit × State :=
  writeVaN sq (bs.length / 65536 + 2) s va bs

end Sys2Proof.Machine
end

