-- ==== Sys2Proof/Machine/ScalarMem.lean ====
section
/-! DEFINITION. Scalar memory: the scratchpad and the L1 (spec/11 R222 to R226, R235, R236), LD, LDU and ST (spec/14 R292), their
replies (R472), the requests on their way and their service at the owning slices (spec/08 R163, spec/16 R348 to R353). -/

namespace Sys2Proof.Machine

/-! ## Scratchpad -/

/-- Scratchpad word w. -/
def spWord (c : Core) (w : Nat) : W64 := tblGet 0 c.spad.w (w % 262144)

/-- Scratchpad byte a. -/
def spByte (c : Core) (a : Nat) : Byte := (spWord c (a / 8)).extractLsb' (8 * (a % 8)) 8

/-- n scratchpad bytes from a, wrapping modulo 2^21. -/
def spRead (c : Core) (a : Nat) : Nat → List Byte
  | 0 => []
  | n + 1 => spByte c (a % 2097152) :: spRead c (a + 1) n

/-- Replace byte k of a word. -/
def setByte (w : W64) (k : Nat) (b : Byte) : W64 :=
  (w &&& ~~~((0xFF : W64) <<< (8 * k))) ||| (b.setWidth 64 <<< (8 * k))

/-- Write one scratchpad byte. -/
def spPut (c : Core) (a : Nat) (b : Byte) : Core :=
  let a := a % 2097152
  { c with spad := { c.spad with w := tblSet 0 c.spad.w (a / 8) (setByte (spWord c (a / 8)) (a % 8) b) } }

/-- Write bytes one by one. -/
def spPutAll : Core → Nat → List Byte → Core
  | c, _, [] => c
  | c, a, b :: r => spPutAll (spPut c a b) (a + 1) r

/-- Clear the poison of the words that n bytes from a cover whole (R405). -/
def spHeal (c : Core) (a n : Nat) : Nat → Core
  | 0 => c
  | k + 1 =>
      let c := spHeal c a n k
      let w := a / 8 + k
      if a ≤ 8 * w ∧ 8 * w + 8 ≤ a + n then
        { c with spad := { c.spad with poison := tblSet false c.spad.poison (w % 262144) false } }
      else c

/-- Write bytes to the scratchpad; tags unchanged. -/
def spWrite (c : Core) (a : Nat) (bs : List Byte) : Core := spHeal (spPutAll c a bs) a bs.length (bs.length / 8 + 2)

/-- Some word that n bytes from a touch is poisoned. -/
def spPoison (c : Core) (a : Nat) : Nat → Bool
  | 0 => false
  | n + 1 => tblGet false c.spad.poison ((a % 2097152) / 8) || spPoison c (a + 1) n

/-- The tag of word w; true is full. -/
def spTag (c : Core) (w : Nat) : Bool := tblGet false c.spad.tag (w % 262144)

/-- Set the tag of word w. -/
def spSetTag (c : Core) (w : Nat) (b : Bool) : Core :=
  { c with spad := { c.spad with tag := tblSet false c.spad.tag (w % 262144) b } }

/-! ## Tag waiters (R227) -/

/-- The condition of a tagged access on every word it touches. -/
def tagCond (c : Core) (t : TagWait) : Bool := t.words.all (fun w => spTag c w == (t.op != 2 && t.op != 4))

/-- Some word is poisoned. -/
def wordsPoison (c : Core) (ws : List Nat) : Bool := ws.any (fun w => tblGet false c.spad.poison (w % 262144))

/-- Set the tags of words. -/
def setTags (c : Core) (ws : List Nat) (b : Bool) : Core := ws.foldl (fun c w => spSetTag c w b) c

/-- Write byte strings. -/
def spWriteAll (c : Core) (ws : List (Nat × List Byte)) : Core := ws.foldl (fun c w => spWrite c w.1 w.2) c

/-- The indivisible action of a tagged access: the bytes it read and whether a word was poisoned, and the scratchpad after it. A
poisoned LDFE leaves its tag full (R230). -/
def tagAct (c : Core) (t : TagWait) : Core × (List Byte × Bool) :=
  let p := wordsPoison c t.words
  let bs := t.reads.map (fun a => spByte c (a % 2097152))
  if t.op = 2 ∨ t.op = 4 then (setTags (spWriteAll c t.writes) t.words true, ([], false))
  else if t.op = 1 ∧ !p then (setTags c t.words false, (bs, p))
  else (c, (bs, p))

/-- Serve the first waiter whose condition holds. -/
def tagFirst (c : Core) : List TagWait → Option (Core × List TagWait)
  | [] => none
  | t :: r =>
      if t.done.isNone && tagCond c t && !(c.frozen && t.sq == .vector) then
        let x := tagAct c t
        some (x.1, { t with done := some x.2 } :: r)
      else (match tagFirst c r with | none => none | some (c, r) => some (c, t :: r))

/-- Serve the waiters in arrival order until none has its condition; two waiters at most. -/
def tagServe : Nat → Core → Core
  | 0, c => c
  | n + 1, c =>
      match tagFirst c c.spad.waiters with
      | none => c
      | some (c, ws) => tagServe n { c with spad := { c.spad with waiters := ws } }

/-- After a tag change, the bank serves the waiters. -/
def tagWake (c : Core) : Core := tagServe 3 c

/-- Set the tag of every word that n bytes from a touch full, and serve the waiters (R180, R227). -/
def spFillTags (c : Core) (a n : Nat) : Core :=
  tagWake (setTags c ((List.range (n / 8 + 2)).filterMap (fun k =>
    let w := a / 8 + k
    if decide (a < 8 * w + 8) && decide (8 * w < a + n) then some (w % 262144) else none)) true)

/-- Write bytes and set the tag of every word they touch full, once the write is complete (R180). -/
def spWriteTag (c : Core) (a : Nat) (bs : List Byte) : Core := spFillTags (spWrite c a bs) a bs.length

/-- Poison the words that n bytes from a touch. -/
def spPoisonMark (c : Core) (a n : Nat) : Core :=
  (List.range (n / 8 + 2)).foldl (fun c k =>
    let w := a / 8 + k
    if decide (a < 8 * w + 8) && decide (8 * w < a + n) then
      { c with spad := { c.spad with poison := tblSet false c.spad.poison (w % 262144) true } }
    else c) c

/-! ## L1 -/

/-- The executor whose L1 holds a line: a fused cluster's local core pa[9:7] (R236). -/
def l1Of (s : State) (pa : Nat) : Nat := if (me s).fused then s.ex.val / 8 * 8 + pa / 128 % 8 else s.ex.val

/-- The L1 line that holds an address. -/
def l1Get (s : State) (pa : Nat) : Option L1Line := tblGet none (coreAt s (l1Of s pa)).l1 (lineKey pa)

/-- Put or drop a line of the L1 that the executor reads through. -/
def l1Set (s : State) (pa : Nat) (l : Option L1Line) : State :=
  onCore s (l1Of s pa) (fun c =>
    let t := tblSet none c.l1 (lineKey pa) l
    { c with l1 := if 3072 < t.length then (match t.find? (fun e => e.1 != lineKey pa) with | some e => tblDel t e.1 | none => t) else t })

/-- A line within its lease of 8000 ticks (R235). -/
def l1Live (s : State) (l : L1Line) : Bool := decide ((s.gtc - l.fill).toNat ≤ 8000)

/-- A store of the core, as it is served, updates its copy of the line where present (R235, R346, R353). -/
def l1Store (s : State) (pa : Nat) (bs : List Byte) : State :=
  match l1Get s pa with
  | none => s
  | some l => l1Set s pa (some { l with data := splice l.data (pa % 128) bs, poison := clearPoison l.poison (pa % 128) bs.length })

/-- The L1 copy of a line as it fills now. -/
def l1Fill (s : State) (pa : Nat) : L1Line :=
  let l := lineAt s.ms (lineKey pa)
  { data := l.data, poison := l.poison, fill := s.gtc }

/-- Drop the copies of n bytes from the L1 that the executor reads through. -/
def l1Drop (s : State) (pa : Nat) : State := l1Set s pa none

/-- Drop every line of executor n's L1. -/
def l1ClearAt (s : State) (n : Nat) : State := onCore s n (fun c => { c with l1 := [] })

/-- Drop every line of the L1 that the executor reads through. -/
def l1Empty (s : State) : State :=
  if (me s).fused then (List.range 8).foldl (fun s i => l1ClearAt s (s.ex.val / 8 * 8 + i)) s else l1ClearAt s s.ex.val

/-- An acquire: every line of the L1 that the executor reads through is dropped (R353), and its later releases cover the writes it has acquired
(R352). -/
def l1Clear (s : State) : State := l1Empty (onMe s (fun c => { c with acq := s.nextId }))

/-- A read at the slice that is no acquire brings the core's L1 copy of its line, where present, to the line's bytes (R353). -/
def l1Refresh (s : State) (pa : Nat) : State := if (l1Get s pa).isSome then l1Set s pa (some (l1Fill s pa)) else s

/-- Drop the lines of a page, of the views given, from the L1 that the executor reads through. -/
def l1DropPage (s : State) (page : Nat) (views : Nat → Bool) : State :=
  let hit (k : Nat) : Bool := pa50 (k * 128) / 65536 == page && views (k * 128)
  let drop (s : State) (n : Nat) : State := onCore s n (fun c => { c with l1 := c.l1.filter (fun e => !hit e.1) })
  if (me s).fused then (List.range 8).foldl (fun s i => drop s (s.ex.val / 8 * 8 + i)) s else drop s s.ex.val

/-! ## Requests on their way -/

/-- The bytes of a request; a snapshot record's address is translated when it is written. -/
def Req.len (r : Req) : Nat :=
  match r.kind with
  | .store d => d.length
  | .scatter d => d.length
  | .atomic _ n _ _ => n
  | .record _ _ _ => 0
  | .add _ v => 4 * v.length
  | .eadd _ _ => 0

/-- Two requests touch a common byte. -/
def overlaps (a b : Req) : Bool :=
  a.spad == b.spad && decide (pa50 a.pa < pa50 b.pa + b.len) && decide (pa50 b.pa < pa50 a.pa + a.len) && decide (0 < a.len) && decide (0 < b.len)

/-- A request counts in the stores class of WAITC (R340, R433). -/
def Req.counts (r : Req) : Bool :=
  match r.kind with
  | .record _ snap _ => snap
  | .eadd _ _ => false
  | _ => true

/-- A request is a copy or drain command's. -/
def Req.isCopy (r : Req) : Bool := r.sq == .copy || r.sq == .matrix

/-- A request is a store or atomic of its sequencer, which a release waits for (R352). -/
def Req.isWrite (r : Req) : Bool :=
  match r.kind with
  | .eadd _ _ => false
  | .record _ snap _ => snap
  | _ => true

/-- Issue a request of the executor. -/
def addReq (s : State) (r : Req) : State :=
  let (id, s) := fresh s
  onMe s (fun c => { c with reqs := c.reqs ++ [{ r with id := id }] })

/-- Send the write-combining entries of one sequencer towards their slices (R353). -/
def wcFlushSq (s : State) (sq : Seq) : State :=
  let c := me s
  let (mine, rest) := c.wc.partition (fun w => w.sq == sq)
  let rs := mine.map (fun w => ({ id := w.id, pa := w.pa, kind := .store w.data, sq := w.sq, op := w.op, host := isHost w.pa } : Req))
  setMe s { c with wc := rest, reqs := c.reqs ++ rs }

/-- Send every write-combining entry of the core. -/
def wcFlushAll (s : State) : State := wcFlushSq (wcFlushSq (wcFlushSq (wcFlushSq s .control) .vector) .copy) .matrix

/-- A release of the control sequencer at a scope sends the write-combining entries: its own, every sequencer's at SYSTEM (R353). -/
def relSend (s : State) (scope : BitVec 3) : State := if scope = 4 then wcFlushAll s else wcFlushSq s .control

/-- Every store and atomic of a sequencer has been served (R348). -/
def writesDone (c : Core) (sq : Seq) : Bool :=
  !c.reqs.any (fun r => r.sq == sq && r.isWrite) && !c.wc.any (fun w => w.sq == sq)

/-- The host has acknowledged every write that a SYSTEM-scope release with a number covers: those of its executor's operations up to it, and those of
any executor before the last acquire (R352, R353). -/
def acksDone (s : State) (ex id : Nat) : Bool :=
  !s.acks.any (fun a => (a.ex == ex && decide (a.op ≤ id)) || (decide (a.id < (coreAt s ex).acq) && decide (a.id < id)))

/-- A request that a SYSTEM-scope release drains: its sequencer's writes, and what has left the core's write-combining and non-temporal buffers
(R353). -/
def drains (r e : Req) : Bool :=
  e.isWrite && (e.sq == r.sq || (r.scope == 4 && (e.host || e.sq == .vector || (e.isCopy && paRange e.pa == .stalk))))

/-- Requests issued before number id. -/
def earlier (c : Core) (id : Nat) : List Req := c.reqs.filter (fun r => decide (r.id < id))

/-- The bytes of a snapshot record by physical address, one run for each page, as requests; a page that does not translate has none (R433). -/
def recordSpans (s : State) (va : W64) (n : Nat) : List Req :=
  let run (va : W64) (k : Nat) : List Req :=
    match (translate s va .write .control).1 with
    | .ok x => [{ pa := x.pa, kind := .store (zeros k) }]
    | .error _ => []
  let k := min n (65536 - va.toNat % 65536)
  run va k ++ (if k < n then run (va + BitVec.ofNat 64 k) (n - k) else [])

/-- What a request touches. -/
def spans (s : State) (r : Req) : List Req :=
  match r.kind with
  | .record va _ d => recordSpans s va d.length
  | _ => [r]

/-- Two requests touch a common byte, snapshot records among them. -/
def clash (s : State) (a b : Req) : Bool := (spans s a).any (fun x => (spans s b).any (overlaps x))

/-- A snapshot record on its way, of a sequencer or of any, touches the bytes of a request. -/
def recordPending (s : State) (sq : Option Seq) (r : Req) : Bool :=
  (me s).reqs.any (fun e => match e.kind with | .record _ _ _ => (sq.isNone || sq == some e.sq) && clash s e r | _ => false)

/-- A request may be served now: after the earlier requests and write-combining entries of its agent to its bytes, a release after its sequencer's earlier writes, an SO
access after the earlier SO accesses, a snapshot record after the earlier records (R163, R350, R351, R352, R433). -/
def serviceable (s : State) (r : Req) : Bool :=
  let c := me s
  let es := earlier c r.id
  !es.any (fun e => clash s e r && e.sq == r.sq && e.ch == r.ch) &&
  !c.wc.any (fun w => decide (w.id < r.id) && w.sq == r.sq && clash s { pa := w.pa, kind := .store w.data } r) &&
  (!r.rel || (!es.any (drains r) && (r.scope != 4 || acksDone s s.ex.val r.id))) &&
  (!r.so || !es.any (fun e => e.so && e.sq == r.sq)) &&
  (match r.kind with
   | .record _ _ _ => !es.any (fun e => match e.kind with | .record _ _ _ => true | _ => false)
   | .eadd _ _ => !es.any (fun e => e.sq == r.sq && e.isWrite)
   | _ => true)

/-- The new value of an atomic on the old value w (R162): 0 add, 1 min, 2 max, 3 minu, 4 maxu, 5 and, 6 or, 7 xor, 8 xchg, 9 cas,
10 fadd, 11 incb. Operands are cut to the size. -/
def atomicNew (op size : Nat) (w b c : W64) : W64 :=
  let cut (x : W64) : W64 := if size = 4 then zext64 (x.setWidth 32) else x
  let sg (x : W64) : W64 := if size = 4 then sext64 (x.setWidth 32) else x
  let b := cut b
  let c := cut c
  cut (match op with
    | 0 => w + b
    | 1 => if (sg b).slt (sg w) then b else w
    | 2 => if (sg w).slt (sg b) then b else w
    | 3 => if b.ult w then b else w
    | 4 => if w.ult b then b else w
    | 5 => w &&& b
    | 6 => w ||| b
    | 7 => w ^^^ b
    | 8 => b
    | 9 => if w = c then b else w
    | 10 => zext64 (f32Add (w.setWidth 32) (b.setWidth 32))
    | _ => if w.ult c then w + b else w)

/-- Set the reply of the word that awaits request id. -/
def answer (c : Core) (id : Nat) (k : Bool → PKind) : Core :=
  match c.pend with
  | some p =>
      (match p.kind with
       | .atomic i acq => if i = id then { c with pend := some { p with kind := k acq } } else c
       | _ => c)
  | none => c

/-- Add values one by one to consecutive elements at their slices, each one service event (R182, R37). -/
def addAll (int log : Bool) (src : BitVec 16) (gtc : W64) : MemSys → Nat → List W32 → MemSys
  | m, _, [] => m
  | m, pa, v :: r =>
      let w : W32 := BitVec.ofNat 32 (leNat (sliceRead m pa 4))
      let p := slicePoison m pa 4
      let m := sliceWrite m pa (leBytes 4 (if int then w + v else f32Add w v).toNat)
      let m := if p then slicePoisonMark m pa 4 else m
      let m := aoServe m log pa src gtc
      addAll int log src gtc m (pa + 4) r

/-- Whether the executor's atomic services are logged (R440). -/
def logsAtomics (s : State) : Bool := (me s).csrd.dbgctl.getLsbD 4

/-- As a write of bytes is served, a copy-engine or drain write drops the core's L1 copy of its line; a store or scatter lane of the core changes the
copy (R235, R353). -/
def l1Served (s : State) (r : Req) (d : List Byte) : State :=
  if r.sq = .copy ∨ r.sq = .matrix then l1Set s r.pa none else l1Store s r.pa d

/-- A served write to host memory awaits its acknowledgement (R348). -/
def awaitAck (s : State) (r : Req) : State :=
  if r.host then { s with acks := s.acks ++ [{ id := r.id, ex := s.ex.val, sq := r.sq, op := r.op.getD r.id }] } else s

/-- The parts of n bytes from offset o that a list of runs, ascending, leaves. -/
def partsFrom : Marks → Nat → Nat → List (Nat × Nat)
  | [], o, n => if o < n then [(o, n - o)] else []
  | (a, k) :: r, o, n => (if o < a then [(o, a - o)] else []) ++ partsFrom r (max o (a + k)) n

/-- The bytes that a store request writes, with their offsets. -/
def storeParts (r : Req) (d : List Byte) : List (Nat × List Byte) :=
  if r.holes.isEmpty then [(0, d)] else (partsFrom r.holes 0 d.length).map (fun e => (e.1, (d.drop e.1).take e.2))

/-! ### One command's bytes in a sector (R177, R178) -/

/-- The sector of byte o of a store: that of memory, or that of an executor's scratchpad. -/
def sectorOf (r : Req) (o : Nat) : Nat :=
  match r.spad with
  | some ex => 2 ^ 46 + ex * 65536 + (r.pa + o) % 2097152 / 32
  | none => pa50 (r.pa + o) / 32

/-- The command that a store belongs to. -/
def Req.cmd (r : Req) : Nat := r.op.getD r.id

/-- The bytes of a sector that commands which reached it after a command have written. -/
def laterBytes (l : List (Nat × BitVec 32)) (op : Nat) : BitVec 32 := (l.dropWhile (fun e => e.1 != op)).tail.foldl (fun b e => b ||| e.2) 0

/-- A command that reached a sector later has written byte o of a store. -/
def supersededAt (s : State) (r : Req) (o : Nat) : Bool :=
  (laterBytes (tblGet [] s.sectors (sectorOf r o)) r.cmd).getLsbD ((r.pa + o) % 32)

/-- The sectors of n bytes of a store, each with the first byte that lies in it. -/
def sectorStarts (r : Req) (n : Nat) : List Nat := (List.range n).filter (fun o => o == 0 || (r.pa + o) % 32 == 0)

/-- A store of a copy or drain command without the bytes that commands which reached their sectors later have written (R177). -/
def trimmed (s : State) (r : Req) (n : Nat) : Req :=
  if r.isCopy && (sectorStarts r n).any (fun o => laterBytes (tblGet [] s.sectors (sectorOf r o)) r.cmd != 0) then
    { r with holes := ((List.range n).filter (fun o => supersededAt s r o || r.holes.any (fun h => decide (h.1 ≤ o) && decide (o < h.1 + h.2)))).map (fun o => (o, 1))
             marks := r.marks.filter (fun e => (List.range e.2).any (fun i => !supersededAt s r (e.1 + i)))
             side := r.side.filter (fun e => !supersededAt s r e.1) }
  else r

/-- A command whose requests are not all served. -/
def cmdLive (s : State) (op : Nat) : Bool :=
  let on (c : Core) : Bool := c.cp.ch.any (fun l => l.any (fun x => x.id == op)) || c.reqs.any (fun r => r.isCopy && r.cmd == op)
  s.cores.any on || s.stopped.any (fun x => on x.core)

/-- Bytes that a command writes into a sector: its place among the sector's commands is that of its first write; commands that have ended leave from the
front, where they supersede nobody. -/
def noteBytes (live : Nat → Bool) (l : List (Nat × BitVec 32)) (op : Nat) (b : BitVec 32) : List (Nat × BitVec 32) :=
  let l := l.dropWhile (fun e => e.1 != op && !live e.1)
  if l.any (fun e => e.1 == op) then l.map (fun e => if e.1 = op then (e.1, e.2 ||| b) else e) else l ++ [(op, b)]

/-- The bytes that a store of n bytes writes in the sector that begins at its byte o. -/
def sectorBytes (r : Req) (n o : Nat) : BitVec 32 :=
  (List.range 32).foldl (fun b i =>
    let p := o + i
    if p < n ∧ (r.pa + o) % 32 + i < 32 ∧ !r.holes.any (fun h => decide (h.1 ≤ p) && decide (p < h.1 + h.2)) then b ||| (1#32 <<< ((r.pa + p) % 32)) else b) 0

/-- A served store of a copy or drain command is noted in the sectors that it writes (R177). -/
def noteSectors (s : State) (r : Req) (n : Nat) : State :=
  if r.isCopy then
    { s with sectors := (sectorStarts r n).foldl (fun t o =>
        let b := sectorBytes r n o
        if b = 0 then t else tblSet [] t (sectorOf r o) (noteBytes (cmdLive s) (tblGet [] t (sectorOf r o)) r.cmd b)) s.sectors }
  else s

/-- A command that has ended leaves the sectors of which it was the first; nothing is kept of a sector that no command is at (R177). -/
def leaveSectors (s : State) : State :=
  { s with sectors := s.sectors.filterMap (fun (e : Nat × List (Nat × BitVec 32)) =>
      let l := e.2.dropWhile (fun x => !cmdLive s x.1)
      if l.isEmpty then none else some (e.1, l)) }

/-- Apply a store at its slice or bank (R163, R226). -/
def serveStore (s : State) (r : Req) (d : List Byte) : State :=
  match r.spad with
  | some ex =>
      onCore s ex (fun c =>
        let c := r.marks.foldl (fun c e => spPoisonMark c (r.pa + e.1) e.2) ((storeParts r d).foldl (fun c e => spWrite c (r.pa + e.1) e.2) c)
        if r.tag then (storeParts r d).foldl (fun c e => spFillTags c (r.pa + e.1) e.2.length) c else c)
  | none =>
      let m := (storeParts r d).foldl (fun m e => sliceWrite m (r.pa + e.1) e.2) s.ms
      let m := r.side.foldl (fun m (e : Nat × BitVec 4 × List Byte) => sliceWriteBlock m (r.pa + e.1) e.2.1 e.2.2) m
      let m := r.marks.foldl (fun m e => slicePoisonMark m (r.pa + e.1) e.2) m
      awaitAck (l1Served { s with ms := m } r d) r

/-- Apply a request at its slice or bank (R163, R226). -/
def serve (s : State) (r : Req) : State :=
  match r.kind with
  | .store d =>
      let r := trimmed s r d.length
      noteSectors (serveStore s r d) r d.length
  | .scatter d => awaitAck (l1Served { s with ms := sliceWrite s.ms r.pa d } r d) r
  | .add int v =>
      let m := addAll int (logsAtomics s) (srcNo s.ex.val (seqNo r.sq)) s.gtc s.ms r.pa v
      l1Served { s with ms := r.marks.foldl (fun m e => slicePoisonMark m (r.pa + e.1) e.2) m } r []
  | .atomic op size b c =>
      let log := logsAtomics s
      let src := srcNo s.ex.val (seqNo r.sq)
      if slicePoison s.ms r.pa size then
        onMe { s with ms := aoServe (sliceTouch s.ms r.pa size) log r.pa src s.gtc } (fun k => answer k r.id (fun _ => .poisoned))
      else
        let w := BitVec.ofNat 64 (leNat (sliceRead s.ms r.pa size))
        let ms := sliceWrite s.ms r.pa (leBytes size (atomicNew op size w b c).toNat)
        onMe (l1Set { s with ms := aoServe ms log r.pa src s.gtc } r.pa none) (fun k => answer k r.id (fun acq => .value w acq))
  | .eadd fl k => onMe s (fun c => addV c fl k)
  | .record va _ d =>
      match writeVa s va d r.sq with
      | (.error _, s) => onMe s (fun c => { c with csrd := { c.csrd with bcctl := c.csrd.bcctl ||| 0x20000000 } })
      | (.ok _, s) => s

/-- The marks among the first k bytes. -/
def marksTo (k : Nat) (m : Marks) : Marks := (m.filter (fun e => decide (e.1 < k))).map (fun e => (e.1, min e.2 (k - e.1)))

/-- The marks from byte k on. -/
def marksFrom (k : Nat) (m : Marks) : Marks :=
  (m.filter (fun e => decide (k < e.1 + e.2))).map (fun e => (e.1 - k, if e.1 < k then e.2 - (k - e.1) else e.2))

/-- A request of several atomic units may be served in part: its first k bytes, whole 32-byte sectors of memory, scratchpad words or added
elements, and the rest (R182, R226, R349). -/
def Req.split (r : Req) (k : Nat) : Option (Req × Req) :=
  match r.kind with
  | .store d =>
      if 0 < k ∧ k < d.length ∧ (r.pa + k) % (if r.spad.isSome then 8 else 32) = 0 then
        some ({ r with kind := .store (d.take k), marks := marksTo k r.marks, holes := marksTo k r.holes, side := r.side.filter (fun e => decide (e.1 < k)) },
              { r with pa := r.pa + k, kind := .store (d.drop k), marks := marksFrom k r.marks, holes := marksFrom k r.holes,
                       side := (r.side.filter (fun e => decide (k ≤ e.1))).map (fun e => (e.1 - k, e.2)) })
      else none
  | .add int v =>
      if 0 < k ∧ k < 4 * v.length ∧ k % 4 = 0 then
        some ({ r with kind := .add int (v.take (k / 4)), marks := marksTo k r.marks },
              { r with pa := r.pa + k, kind := .add int (v.drop (k / 4)), marks := marksFrom k r.marks })
      else none
  | _ => none

/-- The atomic order log has room for a service (R165). -/
def logRoom (s : State) (r : Req) : Bool :=
  !logsAtomics s ||
    (match r.kind with
     | .atomic _ _ _ _ => aoRoom s.ms r.pa 1
     | .add _ v => aoRoom s.ms r.pa v.length
     | _ => true)

/-- The requester of port 1 of a scratchpad bank that a request of executor k at executor ex is: 8 a sibling, 0 control, 7 a drain, 3 copy-in (R429). -/
def portOf (k ex : Nat) (r : Req) : Nat :=
  if k ≠ ex then 8 else match r.sq with | .control => 0 | .matrix => 7 | _ => 3

/-- Port 1 of a bank has served a request: the round goes on from its requester (R222, R429). -/
def portServed (s : State) (r : Req) : State :=
  match r.spad with
  | none => s
  | some ex => onCore s ex (fun c => { c with dbg := { c.dbg with last := tblSet 0 c.dbg.last (r.pa / 64 % 32) (portOf s.ex.val ex r) } })

/-- SLICE_SERVICE_EVENT: the slice or bank serves request n of the executor, in the order the rules allow (R163); nothing where
it may not be served yet (DESIGN CHOICE, log 2). Choice: n, the request; k, the bytes served where only its first units are (R349). -/
def execSliceServiceEvent (s : State) : Out :=
  .next (
    match (me s).reqs.find? (fun r => r.id == s.choice.n) with
    | none => s
    | some r =>
        if !serviceable s r then s
        else
          match r.split s.choice.k with
          | none =>
              if logRoom s r then portServed (serve (onMe s (fun c => { c with reqs := c.reqs.filter (fun x => x.id != r.id) })) r) r else s
          | some (a, b) =>
              if logRoom s a then portServed (serve (onMe s (fun c => { c with reqs := c.reqs.map (fun x => if x.id = r.id then b else x) })) a) a else s)

/-- WC_FLUSH: the write-combining entries of a sequencer leave (R353). Choice: sq. -/
def execWcFlush (s : State) : Out := .next (wcFlushSq s s.choice.sq)

/-- HOST_WRITE_ACKNOWLEDGEMENT: the host's memory acknowledges a write (R348, R353). Choice: n, the request. -/
def execHostWriteAcknowledgement (s : State) : Out := .next { s with acks := s.acks.filter (fun a => a.id != s.choice.n) }

/-! ## LD, LDU, ST (R292) -/

/-- A control word that awaits a reply is issued: its place is kept for a POISON reply, later words may issue (R472). -/
def await (s : State) (before : Ctl) (d : Reg) (va : W64) (k : PKind) : State :=
  retire (onMe s (fun c => { c with pend := some { kind := k, d := d, va := va, saved := before } }))

/-- Record a data access in the trace buffer and test the trigger (R438, R439). -/
def traceData (s : State) (kind : Nat) (va : W64) : State :=
  onMe s (fun c => trigger (trc s.ex.val s.gtc c .control kind va) 2 va)

/-- The checks of an LD, LDU or ST: the address aligned, then its translation outside the window (R292). -/
def memAddr (s : State) (va : W64) (n : Nat) (acc : Acc) : Except Trap (Option Xl) × State :=
  if va.toNat % n ≠ 0 then (.error (.misalign va), s)
  else if inWindow (me s) va then (.ok none, s)
  else (match translate s va acc .control with | (.error t, s) => (.error t, s) | (.ok x, s) => (.ok (some x), s))

/-- A load word (R292). -/
def loadWord (g : Guard) (d a : Reg) (f : MemF) (signed : Bool) (s : State) : State :=
  guarded g s (fun s =>
    let va := ea s a f.off
    let n := szBytes f.sz
    let before := (me s).ctl
    match memAddr s va n .read with
    | (.error t, s) => trapControl s t
    | (.ok none, s) => await (traceData s 3 va) before d va (.load (winByte (me s) va) n signed (f.ord == 1) false true)
    | (.ok (some x), s) => await (traceData s 3 va) before d va (.load x.pa n signed (f.ord == 1) (x.ord == 0) false))

/-- LD: sign-extended (R292). -/
def execLd (g : Guard) (d a : Reg) (f : MemF) (s : State) : Out := .next (loadWord g d a f true s)
/-- LDU: zero-extended (R292). -/
def execLdu (g : Guard) (d a : Reg) (f : MemF) (s : State) : Out := .next (loadWord g d a f false s)

/-- ST: a plain UO store enters the write-combining buffer; a release first sends the sequencer's entries (R292, R353). -/
def execSt (g : Guard) (a b : Reg) (f : MemF) (s : State) : Out :=
  .next (guarded g s (fun s =>
    let va := ea s a f.off
    let n := szBytes f.sz
    let data := leBytes n (rd s b).toNat
    match memAddr s va n .write with
    | (.error t, s) => trapControl s t
    | (.ok none, s) =>
        let s := if f.ord = 2 then relSend s f.scope else s
        let r : Req := { pa := winByte (me s) va, spad := some s.ex.val, kind := .store data, rel := f.ord == 2, scope := f.scope }
        retire (addReq (traceData s 4 va) r)
    | (.ok (some x), s) =>
        let s := traceData s 4 va
        if x.ord = 2 ∧ f.ord ≠ 2 then
          let (id, s) := fresh s
          retire (onMe s (fun c => { c with wc := c.wc ++ [{ id := id, pa := x.pa, data := data, t0 := s.gtc, sq := .control }] }))
        else
          let s := if f.ord = 2 then relSend s f.scope else s
          let r : Req := { pa := x.pa, kind := .store data, rel := f.ord == 2, scope := f.scope, so := x.ord == 0, host := isHost x.pa }
          retire (addReq s r)))

/-! ## Replies (R472) -/

/-- Bind the reply: the destination is written and the word is complete, with the snapshots of the loop levels that ended behind it (R472). -/
def bind (s : State) (p : Pend) (v : W64) : State :=
  endSnaps p.snaps (onMe s (fun c => { c with pend := none, ctl := c.ctl.wr p.d v }))

/-- A POISON reply: every held result is discarded and the word traps precisely (R472). -/
def poisonReply (s : State) (p : Pend) : State :=
  trapControl (onMe s (fun c => { c with pend := none, ctl := p.saved })) (.poison p.va)

/-- The value of n little-endian bytes, extended to 64 bits. -/
def extend (bs : List Byte) (signed : Bool) : W64 :=
  let n := bs.length
  let v := leNat bs
  if signed && decide (2 ^ (8 * n - 1) ≤ v) then BitVec.ofInt 64 ((v : Int) - 2 ^ (8 * n)) else BitVec.ofNat 64 v

/-- A store of the executor, on its way or in a write-combining buffer, touches n bytes at pa. -/
def storePending (c : Core) (r : Req) : Bool :=
  c.reqs.any (fun e => overlaps e r && (e.sq == .control || e.sq == .vector)) || c.wc.any (fun w => overlaps { pa := w.pa, kind := .store w.data } r)

/-- A load that no L1 line serves may be served: the control sequencer's earlier requests to its bytes have been, and every store
of the core to the line it fills; for an SO page, no SO request is on its way (R350, R351, R353, R433). -/
def loadReady (s : State) (pa n : Nat) (so win : Bool) : Bool :=
  let c := me s
  let line : Req := { pa := pa / 128 * 128, kind := .store (zeros 128) }
  if win then !c.reqs.any (fun e => overlaps e { pa := pa, spad := some s.ex.val, kind := .store (zeros n) } && e.sq == .control)
  else !storePending c line && !recordPending s none line && (!so || !c.reqs.any (fun e => e.so && e.sq == .control))

/-- A plain load of n bytes is served from an L1 line within its lease (R235), but for bytes that a store of its agent on its way is still to write
(R346, R351). -/
def l1Hit (s : State) (sq : Seq) (pa n : Nat) (acq so : Bool) : Option L1Line :=
  let r : Req := { pa := pa, kind := .store (zeros n) }
  if acq || so || recordPending s (some sq) r || (me s).reqs.any (fun e => e.sq == sq && overlaps e r) ||
      (me s).wc.any (fun w => w.sq == sq && overlaps { pa := w.pa, kind := .store w.data } r) then none
  else match l1Get s pa with
    | none => none
    | some l => if l1Live s l then some l else none

/-- The poison marks of n bytes from offset o. -/
def marked (p : BitVec 4) (o n : Nat) : Bool := (p &&& touched o n) != 0

/-- LOAD_REPLY: the reply that the executor's control word awaits arrives (R292, R472); nothing where it cannot yet (DESIGN CHOICE, log 2). A load
is judged here at its slice, bank or L1 line. -/
def execLoadReply (s : State) : Out :=
  .next (
    match (me s).pend with
    | none => s
    | some p =>
        match p.kind with
        | .load pa n signed acq so win =>
            if win then
              (if !loadReady s pa n so win then s
               else if spPoison (me s) pa n then poisonReply s p
               else bind (if acq then l1Clear s else s) p (extend (spRead (me s) pa n) signed))
            else
              (match l1Hit s .control pa n acq so with
               | some l =>
                   if marked l.poison (pa % 128) n then poisonReply s p
                   else bind s p (extend ((l.data.drop (pa % 128)).take n) signed)
               | none =>
                   if !loadReady s pa n so win then s
                   else
                     let s := { s with ms := sliceTouch s.ms pa n }
                     if slicePoison s.ms pa n then poisonReply s p
                     else
                       let v := extend (sliceRead s.ms pa n) signed
                       let s := if acq then l1Clear s
                         else if so && (l1Get s pa).isNone then s else l1Set s pa (some (l1Fill s pa))
                       bind s p v)
        | .value v acq => bind (if acq then l1Clear s else s) p v
        | .poisoned => poisonReply s p
        | _ => s)

end Sys2Proof.Machine
end

