-- ==== Sys2Proof/Machine/Tsr.lean ====
section
/-! DEFINITION. Tensor shape records (spec/09_copy.md R166 to R169), the boxes and requests they name (R167, R171, R172), the home of a
tensor's page (spec/05_tiers.md R95, R102), and reads and writes through a slot. -/

namespace Sys2Proof.Machine

/-! ## Fields of a TSR (R166) -/

/-- A byte of a record. -/
def tByte (b : List Byte) (o : Nat) : Nat := field b o 1

def tHandle (b : List Byte) : W32 := BitVec.ofNat 32 (field b 0 4)
def tSpace (b : List Byte) : Nat := tByte b 4 % 8
def tSib (b : List Byte) : Nat := tByte b 4 / 16 % 8
def tFmt (b : List Byte) : Nat := tByte b 5 % 16
def tRank (b : List Byte) : Nat := tByte b 6
def tWalk (b : List Byte) : Nat := tByte b 7 % 8
def tOffset (b : List Byte) : Nat := field b 8 8
/-- STRIDEi, i from 1 to 4; 0 for i = 0. -/
def tStride (b : List Byte) (i : Nat) : Nat := if i = 0 then 0 else field b (12 + 4 * i) 4
def tSize (b : List Byte) (i : Nat) : Nat := field b (32 + 3 * i) 3
def tOrg (b : List Byte) (i : Nat) : Nat := field b (48 + 2 * i) 2
/-- BOXi + 1. -/
def tBox (b : List Byte) (i : Nat) : Nat := tByte b (58 + i) + 1
def tValid (b : List Byte) : Bool := decide (128 ≤ tByte b 63)

/-- Twice the element size in bytes, since an E2M1 element takes half a byte. -/
def esize2 (fmt : Nat) : Nat :=
  match fmt with
  | 0 => 4
  | 1 => 4
  | 2 => 2
  | 3 => 2
  | 4 => 1
  | 5 => 2
  | _ => 8

/-- The contents of slot n: 64 zero bytes where it has never been loaded (R169). -/
def slotOf (c : Core) (n : Nat) : List Byte := tblGet (zeros 64) c.cp.slots n

/-- Write slot n; a write of the whole slot clears its poison (R406). -/
def setSlot (c : Core) (n : Nat) (b : List Byte) : Core :=
  { c with cp := { c.cp with slots := tblSet (zeros 64) c.cp.slots n b, bad := c.cp.bad &&& ~~~(1#64 <<< n) } }

/-- A word that reads slots traps POISON, with TVAL zero, where one is poisoned (R406). -/
def slotsClean (s : State) (l : List (BitVec 6)) : Except Trap Unit :=
  if l.any (fun t => (me s).cp.bad.getLsbD t.toNat) then .error (.poison 0) else .ok ()

/-- A slot with its resolved bytes replaced: PLSL, PLN and RVALID (R169). -/
def withPlace (b : List Byte) (plsl pln : Nat) (rvalid : Bool) : List Byte :=
  splice (splice b 47 (leBytes 1 plsl)) 63 (leBytes 1 (pln + (if rvalid then 128 else 0)))

/-! ## Tensor homes (R95, R102) -/

/-- The entry of a handle that is registered. -/
def thtOf (s : State) (h : W32) : Option Tht :=
  match tblGet none s.tht h.toNat with
  | some t => if t.dead then none else some t
  | none => none

/-- The entry of a handle that is registered and owned by a context: not that of an earlier context of the number, whose keys are gone with it
(R113, R136, R168). -/
def ownTht (s : State) (ctx : Nat) (h : W32) : Option Tht :=
  if h = 0 then none
  else match thtOf s h with
    | some t => if t.ctx = ctx ∧ t.key = keyOf s ctx then some t else none
    | none => none

/-- The owning context of the running instance. -/
def ctxOf (s : State) : Nat := (me s).run.inst.ctx

/-- The tier code of the home of page p (R95). -/
def homeOf (t : Tht) (p : Nat) : Nat := if p < t.f then t.new else t.old

/-- The physical page of page p: at NEW below the frontier, at OLD from it (R95, R102). -/
def pageOf (t : Tht) (p : Nat) : Nat := if p < t.f then listGet 0 t.newp p else listGet 0 t.oldp p

/-- The physical address of a tensor byte. -/
def tensorPa (t : Tht) (off : Nat) : Nat := withEnc t.key t.enc (pageOf t (off / 65536) * 65536 + off % 65536)

/-- A tensor byte lies in a page in flight (R101). -/
def inFlight (t : Tht) (off : Nat) : Bool := t.flight && off / 65536 == t.f

/-- The slices of a context's staging share in ascending order (R153). -/
def shareSlices (x : Ctxt) : List Nat :=
  (List.range 128).filter (fun n => x.dies.getLsbD (n / 32) && decide (0 < x.share))

/-- Those of its slices that are not retired (R407). -/
def shareOf (s : State) (x : Ctxt) : List Nat := (shareSlices x).filter (fun n => !s.ms.gone.contains n)

/-- The slice that holds page 0 of a Bud home. -/
def budSlice (t : Tht) : Nat := (listGet 0 t.oldp 0 * 65536 - 0x080000000000) / 0x1000000

/-- Resolve a record (R124, R169): the placement of the home its handle names, RVALID cleared where the handle is unregistered or
foreign. -/
def resolve (s : State) (ctx : Nat) (b : List Byte) : List Byte :=
  if tSpace b = 0 then
    match ownTht s ctx (tHandle b) with
    | none => withPlace b 0 0 false
    | some t =>
        if t.old = 3 then
          withPlace b (budSlice t) ((shareOf s ((tblGet none s.ctxs ctx).getD {})).length - 1) true
        else withPlace b 0 0 true
  else withPlace b 0 0 true

/-- The lowest OLD tier code among the tensors that the slots name, 3 where none counts (R129). -/
def optOf (s : State) (ctx : Nat) (slots : Tbl (List Byte)) : Nat :=
  slots.foldl (fun n e => match ownTht s ctx (tHandle e.2) with | some t => min n t.old | none => n) 3

/-! ## Validity (R168) -/

/-- The byte extent past OFFSET of the last element, in half bytes: of dimension 0, then the strides. -/
def extentN (b : List Byte) : Nat :=
  2 * tOffset b + (tSize b 0 - 1) * esize2 (tFmt b) +
    ((List.range 5).map (fun i => if i = 0 then 0 else 2 * ((tSize b i - 1) * tStride b i))).sum

/-- OFFSET + (SIZE0 − 1) × esize + Σ (SIZEi − 1) × STRIDEi in bytes. -/
def extent (b : List Byte) : Nat := extentN b / 2

/-- The first group of conditions of R168. -/
def tsrFields (b : List Byte) : Bool :=
  decide (tByte b 4 / 128 = 0) && decide (tByte b 4 / 8 % 2 = 0) && (tSpace b == 3 || tSib b == 0) && decide (tSpace b ≤ 3) &&
  decide (tByte b 5 ≤ 7) && decide (1 ≤ tRank b) && decide (tRank b ≤ 5) && decide (tByte b 7 < tRank b) &&
  (List.range 5).all (fun i => decide (1 ≤ tSize b i) && (decide (i < tRank b) ||
    (tSize b i == 1 && tBox b i == 1 && tOrg b i == 0 && (i == 0 || tStride b i == 0)))) &&
  decide (((List.range 5).map (fun i => tBox b i)).foldl (· * ·) 1 * esize2 (tFmt b) ≤ 131072)

/-- The alignment condition of R168. -/
def tsrAligned (b : List Byte) : Bool :=
  if tFmt b = 4 then
    decide (tOffset b % 16 = 0) && (List.range 5).all (fun i => decide (tStride b i % 16 = 0)) &&
    decide (tBox b 0 % 32 = 0) && decide (tSize b 0 % 32 = 0)
  else
    let e := esize2 (tFmt b) / 2
    decide (tOffset b % e = 0) && (List.range 5).all (fun i => decide (tStride b i % e = 0))

/-- The executor of local core `sib` of the cluster, where the gang group has an instance for it: wid 8g + j runs on local core j, and its scratchpad
stays reachable after its halt until the whole group has halted (R168, R237). -/
def siblingOf (s : State) (sib : Nat) : Option Nat :=
  match (me s).run.group with
  | none => none
  | some g =>
      let ex := s.ex.val / 8 * 8 + sib
      if isRoot s then none
      else if (coreAt s ex).run.group = some g ∧ 8 * g.2.2 + sib < (listGet {} (launchAt s g.1).nodes g.2.1).ninst then some ex
      else none

/-- The check of R168 on a record to be loaded; `w` is the engine word, the TVAL of ILLEGAL. -/
def checkTsr (s : State) (w : W64) (b : List Byte) : Except Trap Unit :=
  if !tsrFields b then .error (.illegal w)
  else if !tsrAligned b then .error (.misalign (BitVec.ofNat 64 (tOffset b)))
  else if tSpace b = 0 then
    match ownTht s (ctxOf s) (tHandle b) with
    | none => .error (.protect 0)
    | some t => if extent b < t.size then .ok () else .error (.protect 0)
  else if tHandle b ≠ 0 then .error (.illegal w)
  else if tSpace b = 1 then .ok ()
  else if 0x200000 ≤ extent b then .error (.illegal w)
  else if tSpace b = 3 then (match siblingOf s (tSib b) with | some _ => .ok () | none => .error (.protect 0))
  else .ok ()

/-- A use of a slot: RVALID first (R169), then the check of R168, and SPACE 3 against the group as it stands. -/
def checkUse (s : State) (w : W64) (b : List Byte) : Except Trap Unit :=
  if !tValid b then .error (.protect 0) else checkTsr s w b

/-! ## Boxes (R167) -/

/-- The box origin of a use: ORG, its WALK component advanced by k = n × STEP. -/
def gOf (b : List Byte) (k : Int) : List Int :=
  (List.range 5).map (fun i => (tOrg b i : Int) + (if i = tWalk b then k else 0))

/-- An origin outside 0 to 65535 in some dimension clips its box whole. -/
def gOut (g : List Int) : Bool := g.any (fun x => decide (x < 0) || decide (65535 < x))

/-- Coordinate i of box position j. -/
def coordAt (b : List Byte) (g : List Int) (i j : Nat) : Nat := (listGet 0 g i).toNat * tBox b i + j

/-- The rows of a box: positions in dimensions 1 to 4, dimension 1 fastest. -/
def boxRows (b : List Byte) : List (List Nat) :=
  (List.range (tBox b 4)).flatMap (fun j4 => (List.range (tBox b 3)).flatMap (fun j3 =>
    (List.range (tBox b 2)).flatMap (fun j2 => (List.range (tBox b 1)).map (fun j1 => [j1, j2, j3, j4]))))

/-- A row of the box is clipped in dimensions 1 to 4. -/
def rowClipped (b : List Byte) (g : List Int) (r : List Nat) : Bool :=
  gOut g || (List.range 4).any (fun i => decide (tSize b (i + 1) ≤ coordAt b g (i + 1) (listGet 0 r i)))

/-- The half-byte address of element c0 of a row. -/
def elemN (b : List Byte) (g : List Int) (r : List Nat) (c0 : Nat) : Nat :=
  2 * tOffset b + c0 * esize2 (tFmt b) +
    ((List.range 4).map (fun i => 2 * (tStride b (i + 1) * coordAt b g (i + 1) (listGet 0 r i)))).sum

/-- A run of consecutive elements of one row of a box: row, first box position, count. -/
structure Run1 where
  row : List Nat := []
  e : Nat := 0
  n : Nat := 0
deriving DecidableEq, Repr

/-- Split n elements from box position e of a row at 128-byte lines. -/
def splitRow (b : List Byte) (g : List Int) (r : List Nat) : Nat → Nat → Nat → List Run1
  | 0, _, _ => []
  | f + 1, e, n =>
      if n = 0 then []
      else
        let a := elemN b g r (coordAt b g 0 e)
        let k := min n (max 1 ((256 - a % 256) / esize2 (tFmt b)))
        { row := r, e := e, n := k } :: splitRow b g r f (e + k) (n - k)

/-- The unclipped elements of a row, from box position 0. -/
def rowLen (b : List Byte) (g : List Int) (r : List Nat) : Nat :=
  if rowClipped b g r then 0 else min (tBox b 0) (tSize b 0 - coordAt b g 0 0)

/-- The requests of a box in ascending element order, clipped elements left out: each within one 128-byte line (R172; DEDUCED, log 8). -/
def boxRuns (b : List Byte) (g : List Int) : List Run1 :=
  if gOut g then [] else (boxRows b).flatMap (fun r => splitRow b g r (tBox b 0) 0 (rowLen b g r))

/-! ## Access through a slot -/

/-- What a read through a slot gives: bytes, poison, whether the tensor was no longer registered (R469), the scaled lines' side
bytes of each 16-byte block with its tag. -/
structure SRead where
  data : List Byte := []
  poison : Bool := false
  closed : Bool := false
  tag : BitVec 4 := 0xF
  side : List Byte := []
deriving DecidableEq, Repr

/-- Where a slot address lies: a physical address, a scratchpad byte of an executor, nowhere (a tensor no longer registered). -/
inductive Loc where
  | pa (a : Nat)
  | spad (ex a : Nat)
  | gone
deriving DecidableEq, Repr

/-- Resolve one address of a slot for a request that leaves now (R102, R146, R180). -/
def locate (s : State) (b : List Byte) (a : Nat) (acc : Acc) (sq : Seq) : Except Trap Loc × State :=
  match tSpace b with
  | 0 => (match ownTht s (ctxOf s) (tHandle b) with
      | none => (.ok .gone, s)
      | some t => (.ok (.pa (tensorPa t a)), s))
  | 1 => (match translate s (BitVec.ofNat 64 a) acc sq with
      | (.error t, s) => (.error t, s)
      | (.ok x, s) => (.ok (.pa x.pa), s))
  | 2 => (.ok (.spad s.ex.val (a % 2097152)), s)
  | _ => (.ok (.spad (s.ex.val / 8 * 8 + tSib b) (a % 2097152)), s)

/-- Side bytes of one block: 2 for E2M1, 1 for the 8-bit formats (R155). -/
def sidePer (tag : BitVec 4) : Nat := if tag = 4 then 2 else 1

/-- The side bytes of the blocks that n code bytes from offset o of a line touch. -/
def sidePart (tag : BitVec 4) (side : List Byte) (o n : Nat) : List Byte :=
  let k := blockBytes tag
  (side.drop (o / k * sidePer tag)).take ((o % k + n + k - 1) / k * sidePer tag)

/-- Read n bytes of one line at a location. -/
def readLoc (s : State) (l : Loc) (n : Nat) : SRead × State :=
  match l with
  | .gone => ({ data := zeros n, closed := true }, s)
  | .spad ex a => ({ data := spRead (coreAt s ex) a n, poison := spPoison (coreAt s ex) a n }, s)
  | .pa pa =>
      let s := { s with ms := sliceTouch s.ms pa n }
      let ln := lineAt s.ms (lineKey pa)
      ({ data := sliceRead s.ms pa n, poison := slicePoison s.ms pa n, tag := ln.tag,
         side := sidePart ln.tag ln.side (pa % 128) n }, s)

/-- Join two reads of one request. -/
def SRead.join (x y : SRead) : SRead :=
  { data := x.data ++ y.data, poison := x.poison || y.poison, closed := x.closed || y.closed,
    tag := if x.tag = y.tag then x.tag else 0xF, side := x.side ++ y.side }

/-- Read n bytes from slot address a, line by line; fuel bounds the lines. -/
def readSlotN (b : List Byte) (sq : Seq) : Nat → State → Nat → Nat → Except Trap SRead × State
  | 0, s, _, _ => (.ok {}, s)
  | f + 1, s, a, n =>
      let k := min n (128 - a % 128)
      match locate s b a .read sq with
      | (.error t, s) => (.error t, s)
      | (.ok l, s) =>
          let (x, s) := readLoc s l k
          if n ≤ k then (.ok x, s)
          else
            match readSlotN b sq f s (a + k) (n - k) with
            | (.error t, s) => (.error t, s)
            | (.ok y, s) => (.ok (x.join y), s)

/-- Read n bytes from slot address a: a fault of translation, or the bytes. -/
def readSlot (s : State) (b : List Byte) (sq : Seq) (a n : Nat) : Except Trap SRead × State :=
  if n = 0 then (.ok {}, s) else readSlotN b sq (n / 128 + 2) s a n

/-! ## Elements -/

/-- The code of element k of a byte string of elements. -/
def elemCode (fmt : Nat) (bs : List Byte) (k : Nat) : Nat :=
  if fmt = 4 then field bs (k / 2) 1 / (if k % 2 = 0 then 1 else 16) % 16 else field bs (k * (esize2 fmt / 2)) (esize2 fmt / 2)

/-- Pack codes into bytes. -/
def packCodes (fmt : Nat) : List Nat → List Byte
  | [] => []
  | [x] => if fmt = 4 then leBytes 1 x else leBytes (esize2 fmt / 2) x
  | x :: y :: r =>
      if fmt = 4 then leBytes 1 (x + 16 * y) ++ packCodes fmt r
      else leBytes (esize2 fmt / 2) x ++ leBytes (esize2 fmt / 2) y ++ packCodes fmt r

/-- The FP32 encoding of a code, exact (R181 widening). -/
def widenF32 (fmt : Nat) (x : Nat) : W32 :=
  match fmt with
  | 0 => encF32 (decBf16 (BitVec.ofNat 16 x))
  | 1 => encF32 (decF16 (BitVec.ofNat 16 x))
  | 2 => encF32 (decE4m3 (BitVec.ofNat 8 x))
  | 3 => encF32 (decE5m2 (BitVec.ofNat 8 x))
  | _ => BitVec.ofNat 32 x

/-- Narrow an FP32 value (R27). -/
def narrowF32 (fmt : Nat) (v : W32) : Nat :=
  match fmt with
  | 0 => (encBf16 (decF32 v)).toNat
  | 1 => (encF16 (decF32 v)).toNat
  | 2 => (encE4m3 (decF32 v)).toNat
  | 3 => (encE5m2 (decF32 v)).toNat
  | _ => v.toNat

/-- Clamp an INT32 value to INT8. -/
def clampI8 (v : W32) : Nat := (BitVec.ofInt 8 (max (-128) (min 127 v.toInt))).toNat

/-- Sign-extend an INT8 code. -/
def sextI8 (x : Nat) : W32 := (BitVec.ofNat 8 x).signExtend 32

/-- A format pair of R181's table. -/
def convOk (src dst : Nat) : Bool :=
  src == dst || (src == 6 && decide (dst ≤ 3)) || (dst == 6 && decide (src ≤ 3)) || (src == 5 && dst == 7) || (src == 7 && dst == 5)

/-- Convert a code (R181). -/
def conv (src dst x : Nat) : Nat :=
  if src = dst then x
  else if src = 6 then narrowF32 dst (BitVec.ofNat 32 x)
  else if dst = 6 then (widenF32 src x).toNat
  else if src = 5 then (sextI8 x).toNat
  else clampI8 (BitVec.ofNat 32 x)

end Sys2Proof.Machine
end

