-- ==== Sys2Proof/Machine/Counts.lean ====
section
/-! DEFINITION. The outstanding operations of a core (spec/15_sync.md R340), when an engine's earlier words have completed
(spec/14_control.md R305, R306, spec/12_matrix.md R259), the sequence of a stream (spec/09_copy.md R187, R188), the groups of
segments (R303), the conditions of a seam instant (spec/06_handover.md R117). -/

namespace Sys2Proof.Machine

/-! ## When a sequencer may issue -/

/-- The executor's context is resident and its clock runs (R13, R318): not frozen by a trap, not at a precise stop, no pre-emption requested, so that
what remains of a wait is what remained at the request (R416). -/
def clockRuns (c : Core) : Bool :=
  c.run.live && !c.frozen && !c.run.preq &&
    (match c.run.st with
     | .running => true
     | .entering => true
     | .halting => true
     | .handover => true
     | _ => false) && !c.run.dstop

/-- Control words may issue: the context runs and HALT has not been reached. -/
def controlRuns (c : Core) : Bool :=
  c.run.live && !c.run.preq && !c.run.dstop && (c.run.st == .running || c.run.st == .halting)

/-- The context is resident on its executor and its words may issue, pre-emption and precise stops apart. -/
def contextOn (c : Core) : Bool := c.run.live && (c.run.st == .running || c.run.st == .halting)

/-- Engine repeats may issue: the context runs and no trap has frozen the core (R394). -/
def engineRuns (c : Core) : Bool :=
  c.run.live && !c.frozen && !c.run.preq && !c.run.dstop && (c.run.st == .running || c.run.st == .halting)

/-! ## Streams -/

/-- Rows of one box of a stream. -/
def strmBoxRows (b : List Byte) : Nat := tBox b 1 * tBox b 2 * tBox b 3 * tBox b 4

/-- Rows of a stream's whole sequence (R187). -/
def strmTotal (b : List Byte) : Nat :=
  let w := tWalk b
  ((tSize b w + tBox b w - 1) / tBox b w - tOrg b w) * strmBoxRows b

/-- Rows requested since the binding: prefetch keeps 16 beyond POS (R188). -/
def strmRequested (x : Strm) : Nat := min (x.pos + 16) (strmTotal x.slot)

/-- Rows that have arrived since the binding. -/
def strmArrived (x : Strm) : Nat := x.pos + x.rows.length

/-- Rows in flight. -/
def strmInFlight (x : Strm) : Nat := strmRequested x - strmArrived x

/-- The streams of a core. -/
def strmsOf (c : Core) : List Strm := c.cp.strms.filterMap (fun e => e.2)

/-- The stream of register q. -/
def strmAt (c : Core) (q : Nat) : Option Strm := tblGet none c.cp.strms q

/-- Replace the stream of register q. -/
def setStrm (c : Core) (q : Nat) (x : Option Strm) : Core :=
  { c with cp := { c.cp with strms := tblSet none c.cp.strms q x } }

/-- Streams that a channel carries. -/
def strmCount (c : Core) (ch : BitVec 2) : Nat := ((strmsOf c).filter (fun x => x.ch == ch)).length

/-! ## Channels -/

/-- The commands of channel n. -/
def chanOf (c : Core) (n : BitVec 2) : List CCmd := c.cp.ch.get n.toFin

/-- Replace a channel's commands. -/
def setChan (c : Core) (n : BitVec 2) (l : List CCmd) : Core :=
  { c with cp := { c.cp with ch := c.cp.ch.set n.toFin l } }

/-- Every command of every channel. -/
def allCmds (c : Core) : List CCmd := chanOf c 0 ++ chanOf c 1 ++ chanOf c 2 ++ chanOf c 3

/-- A drain command, which belongs to the matrix sequencer. -/
def isDrain (x : CCmd) : Bool := match x.kind with | .drain _ _ _ _ _ => true | _ => false

/-! ## Outstanding operations (R340) -/

/-- Rows in flight of a stream, by binding. -/
def rowIds (x : Strm) : List OpId := (List.range (strmInFlight x)).map (fun i => .row x.bind (strmArrived x + i))

/-- Every lane of a scatter has been served. -/
def scatDone (c : Core) (g : Gather) : Bool :=
  g.lanes.isEmpty && g.ids.all (fun i => !c.reqs.any (fun r => r.id == i) && !c.wc.any (fun w => w.id == i))

/-- Loads: gathers and stream rows in flight (a control load's reply holds every later WAITC and FENCE, R472). -/
def loadIds (c : Core) : List OpId :=
  (c.vec.gathers.filter (fun g => g.load && !g.done)).map (fun g => .num g.id) ++ (strmsOf c).flatMap rowIds

/-- Stores: stores, atomics, SNAPBC records, scatters until every lane is served. -/
def storeIds (c : Core) : List OpId :=
  (c.reqs.filter (fun r => r.counts && (r.sq == .control))).map (fun r => .num r.id) ++
  (c.wc.filter (fun w => w.sq == .control)).map (fun w => .num w.id) ++
  (c.vec.gathers.filter (fun g => !g.load && !scatDone c g)).map (fun g => .num g.id)

/-- Copies. -/
def copyIds (c : Core) : List OpId := (allCmds c).map (fun x => .num x.id)

/-- Tile operations. -/
def tileIds (c : Core) : List OpId := (c.mx.mgo.toList ++ c.mx.mgoNext.toList).map (fun n => .num n)

/-- Every counted operation. -/
def allIds (c : Core) : List OpId := loadIds c ++ storeIds c ++ copyIds c ++ tileIds c

/-- Every WAITC class is zero. -/
def classesZero (c : Core) : Bool := (allIds c).isEmpty && c.pend.isNone

/-- The earlier loads, stores and atomics of the control sequencer that are not complete (R342). -/
def controlIds (c : Core) : List OpId :=
  (c.reqs.filter (fun r => r.counts && r.sq == .control)).map (fun r => .num r.id) ++
  (c.wc.filter (fun w => w.sq == .control)).map (fun w => .num w.id)

/-- The members of a set of operations that are still outstanding. -/
def stillOut (c : Core) (ids : List OpId) : List OpId := ids.filter (fun i => (allIds c).any (fun j => j == i))

/-! ## Completion of an engine's earlier words -/

/-- The nest is idle, or pauses with no reduction running, as it does while its sequencer stands at MRDV (R117, R259). -/
def nestResting (c : Core) : Bool := !c.mx.live || (c.mx.red.isNone && (c.mx.paused || c.me.st == .stopped))

/-- Every earlier word of the sequencer's segment has completed (R305). -/
def wordsDone (c : Core) : Seq → Bool
  | .vector => c.vec.irb.isEmpty && c.vec.gathers.all (fun g => !g.load && scatDone c g) &&
      !c.reqs.any (fun r => r.sq == .vector) && !c.wc.any (fun w => w.sq == .vector)
  | .matrix => nestResting c && !(allCmds c).any isDrain
  | .copy => (allCmds c).all isDrain && c.cp.xload.isNone
  | .control => true

/-- The sequencer stands at a rendezvous word: STOPPED, with every earlier word complete (R303, R305). -/
def stands (c : Core) (sq : Seq) : Bool := (engOf c sq).st == .stopped && wordsDone c sq

/-! ## Groups (R303) -/

/-- The oldest open group with an id; groups are kept in age order. -/
def groupById (c : Core) (id : BitVec 10) : Option Group := c.sync.groups.find? (fun g => g.id == id)

/-- The group of a number. -/
def groupByNum (c : Core) (n : Nat) : Option Group := c.sync.groups.find? (fun g => g.num == n)

/-- An engine is named by EMASK: bit 0 vector, bit 1 matrix, bit 2 copy (R46). -/
def inMask (m : BitVec 3) (sq : Seq) : Bool :=
  match sq with
  | .vector => m.getLsbD 0
  | .matrix => m.getLsbD 1
  | .copy => m.getLsbD 2
  | .control => false

/-- A member stands at its rendezvous or has ended. -/
def memberReady (c : Core) (g : Group) (m : Member) : Bool :=
  m.ended || ((engOf c m.sq).group == some g.num && stands c m.sq)

/-- Drop a group once every member has ended. -/
def closeEnded (c : Core) : Core :=
  { c with sync := { c.sync with groups := c.sync.groups.filter (fun g => !g.members.all (fun m => m.ended)) } }

/-- The segment of an engine has ended: its member ends, and a group whose members have all ended closes (R303, R304). -/
def memberEnds (c : Core) (sq : Seq) : Core :=
  match (engOf c sq).group with
  | none => c
  | some n =>
      closeEnded { c with sync := { c.sync with groups := c.sync.groups.map (fun g =>
        if g.num = n then { g with members := g.members.map (fun m => if m.sq = sq then { m with ended := true } else m) } else g) } }

/-- The queue of an engine. -/
def queueOf (c : Core) : Seq → List Cmd
  | .matrix => c.sync.mq
  | .vector => c.sync.vq
  | _ => c.sync.xq

/-- Replace the queue of an engine. -/
def setQueue (c : Core) (sq : Seq) (q : List Cmd) : Core :=
  match sq with
  | .matrix => { c with sync := { c.sync with mq := q } }
  | .vector => { c with sync := { c.sync with vq := q } }
  | .copy => { c with sync := { c.sync with xq := q } }
  | .control => c

/-- The engines in the order copy, matrix, vector. -/
def engines : List Seq := [.copy, .matrix, .vector]

/-! ## The seam instant (R117) -/

/-- The four conditions of R117. -/
def seamCond (c : Core) : Bool :=
  engines.all (fun q => (queueOf c q).isEmpty && ((engOf c q).st == .idle || stands c q)) &&
  c.vec.irb.isEmpty && nestResting c

end Sys2Proof.Machine
end

