-- ==== Sys2Proof/Machine/Wait.lean ====
section
/-! DEFINITION. Waits of the control sequencer under a deadline (spec/15_sync.md R317 to R319): a waiting word is executed again at each
of its turns until its outcome is decided. -/

namespace Sys2Proof.Machine

/-- The multi-device gang of an executor's launch has aborted (R317, R387). -/
def gangAborted (s : State) (c : Core) : Bool :=
  match (launchAt s c.run.inst.launch).gang with
  | none => false
  | some g => g.state == 3

/-- Start a wait: the effective deadline is Min(value, DLMAX), or what remained at a pre-emption (R317, R318). -/
def startWait (s : State) (value : Nat) (e : Bool) (d : Reg) (k : WKind) : State :=
  onMe s (fun c => { c with
    cwait := some { t0 := c.ctc, dl := c.remain.getD (min value c.csr.dlmax.toNat), poll := c.remain.isNone && min value c.csr.dlmax.toNat == 0,
                    e := e, d := d, kind := k }
    remain := none })

/-- The outcome of a wait at this moment: decided with the state that follows, or not yet. -/
inductive WOut where
  | ok (s : State)
  | aborted (s : State)
  | expired (s : State)
  | deadline (s : State)
  | stay (s : State)

/-- End a wait with outcome OK or ABORTED: TOCNT ← 0 (R319). -/
def endWait (s : State) : State := onMe s (fun c => setTocnt { c with cwait := none } 0)

/-- The procedure of R317 at this moment, an expiry settled by R319. An event of the deadline's own tick counts first, so a wait that is no poll
expires as its tick ends. -/
def waitOn (s : State) (cond : Bool) : WOut :=
  let c := me s
  match c.cwait with
  | none => .stay s
  | some w =>
      if gangAborted s c then .aborted (endWait s)
      else if cond then .ok (endWait s)
      else if (c.ctc - w.t0).toNat < w.dl ∨ (!w.poll && !s.closing) then .stay s
      else if w.poll then .expired (onMe s (fun c => { c with cwait := none }))
      else
        let r := settle c w.e
        let s := setMe s { r.2 with cwait := none }
        if r.1 then .deadline s else .expired s

/-- Go on by the outcome of a wait: `ok` on OK, `undo` then a status or the DEADLINE trap otherwise. -/
def awaiting (s : State) (d : Reg) (cond : Bool) (tcode : Nat) (undo ok : State → State) : State :=
  match waitOn s cond with
  | .ok s => ok s
  | .aborted s => done (undo s) d 4
  | .expired s => done (undo s) d tcode
  | .deadline s => trapControl (undo s) .deadline
  | .stay s => s

/-- The word at the pc waits. -/
def waits (s : State) : Bool := (me s).cwait.isSome

/-- A word that may wait, under its guard: the predicate is read as the word issues, so one that waits already does not read it again (R51). -/
def guardedW (g : Guard) (s : State) (f : State → State) : State := if waits s then f s else guarded g s f

/-- The schedule log's record of a flag wait's end (R436, KIND 3). -/
def flagWaitLog (s : State) (sq : Seq) (fl : BitVec 6) (t0 : W64) (code : Nat) : State :=
  onMe s (fun c => slog s.ex.val c sq 3 code (BitVec.ofNat 64 ((c.ctc - t0).toNat % 4294967296 + 4294967296 * fl.toNat)))

/-- The start of the wait in progress. -/
def waitT0 (s : State) : W64 := match (me s).cwait with | some w => w.t0 | none => (me s).ctc

/-- Take a waiter's place out of the list of a key. -/
def unlink (t : Tbl (List (Nat × Nat))) (k place : Nat) : Tbl (List (Nat × Nat)) :=
  tblSet [] t k ((tblGet [] t k).filter (fun e => e.2 != place))

/-! ## Plain loads of several words -/

/-- What a plain load of a run block, a descriptor or a parameter word gives. -/
inductive PRead where
  | trap (t : Trap)
  /-- An earlier store of the sequencer to a byte of it has not been served (R351). -/
  | blocked
  | ok (bs : List Byte)

/-- An earlier write of a sequencer to n bytes of memory has not been served. -/
def ownPending (s : State) (sq : Seq) (r : Req) : Bool :=
  (me s).reqs.any (fun e => e.sq == sq && clash s e r) || (me s).wc.any (fun w => w.sq == sq && overlaps { pa := w.pa, kind := .store w.data } r)

/-- Read n bytes of one page as a plain load at the owning slice; a control word does not reach the scratchpad window in this way (R223, R235, R292;
DEDUCED, log 86). -/
def plainPiece (s : State) (sq : Seq) (va : W64) (n : Nat) : PRead × State :=
  if sq == .control && inWindow (me s) va then (.trap (.protect va), s)
  else
    match translate s va .read sq with
    | (.error t, s) => (.trap t, s)
    | (.ok x, s) =>
        if ownPending s sq { pa := x.pa, kind := .store (zeros n) } then (.blocked, s)
        else
          let s := l1Refresh { s with ms := sliceTouch s.ms x.pa n } x.pa
          if slicePoison s.ms x.pa n then (.trap (.poison va), s) else (.ok (sliceRead s.ms x.pa n), s)

/-- Read k words of 8 bytes. -/
def plainRead (sq : Seq) : Nat → State → W64 → PRead × State
  | 0, s, _ => (.ok [], s)
  | k + 1, s, va =>
      match plainPiece s sq va 8 with
      | (.ok bs, s) => (match plainRead sq k s (va + 8) with | (.ok r, s) => (.ok (bs ++ r), s) | x => x)
      | x => x

end Sys2Proof.Machine
end

