-- ==== Sys2Proof/Machine/Atomic.lean ====
section
/-! DEFINITION. The atomics (spec/08_translation_l2.md R162): checks, issue, and the request that the owning slice serves. -/

namespace Sys2Proof.Machine

/-- Issue an atomic: MISALIGN, PROTECT in the scratchpad window (R223), translation; then the core's L1 copy of the line is dropped and
the request leaves, its reply awaited (R162, R472). -/
def atomicWord (op : Nat) (g : Guard) (d a b c : Reg) (f : AtomF) (s : State) : State :=
  guarded g s (fun s =>
    let va := ea s a f.off
    let n := szBytes f.sz
    let before := (me s).ctl
    if va.toNat % n ≠ 0 then trapControl s (.misalign va)
    else if inWindow (me s) va then trapControl s (.protect va)
    else
      match translate s va .atomic .control with
      | (.error t, s) => trapControl s t
      | (.ok x, s) =>
          let acq := f.ord == 1 || f.ord == 3
          let rel := f.ord == 2 || f.ord == 3
          let s := traceData (l1Drop s x.pa) 3 va
          let s := if rel then relSend s f.scope else s
          let id := s.nextId
          let r : Req := { pa := x.pa, kind := .atomic op n (rd s b) (rd s c), rel := rel, scope := f.scope, so := x.ord == 0 }
          await (addReq s r) before d va (.atomic id acq))

/-- AADD (R162). -/
def execAadd (g : Guard) (d a b : Reg) (f : AtomF) (s : State) : Out := .next (atomicWord 0 g d a b 0 f s)
/-- AMIN (R162). -/
def execAmin (g : Guard) (d a b : Reg) (f : AtomF) (s : State) : Out := .next (atomicWord 1 g d a b 0 f s)
/-- AMAX (R162). -/
def execAmax (g : Guard) (d a b : Reg) (f : AtomF) (s : State) : Out := .next (atomicWord 2 g d a b 0 f s)
/-- AMINU (R162). -/
def execAminu (g : Guard) (d a b : Reg) (f : AtomF) (s : State) : Out := .next (atomicWord 3 g d a b 0 f s)
/-- AMAXU (R162). -/
def execAmaxu (g : Guard) (d a b : Reg) (f : AtomF) (s : State) : Out := .next (atomicWord 4 g d a b 0 f s)
/-- AAND (R162). -/
def execAand (g : Guard) (d a b : Reg) (f : AtomF) (s : State) : Out := .next (atomicWord 5 g d a b 0 f s)
/-- AOR (R162). -/
def execAor (g : Guard) (d a b : Reg) (f : AtomF) (s : State) : Out := .next (atomicWord 6 g d a b 0 f s)
/-- AXOR (R162). -/
def execAxor (g : Guard) (d a b : Reg) (f : AtomF) (s : State) : Out := .next (atomicWord 7 g d a b 0 f s)
/-- AXCHG (R162). -/
def execAxchg (g : Guard) (d a b : Reg) (f : AtomF) (s : State) : Out := .next (atomicWord 8 g d a b 0 f s)
/-- ACAS (R162). -/
def execAcas (g : Guard) (d a b c : Reg) (f : AtomF) (s : State) : Out := .next (atomicWord 9 g d a b c f s)
/-- AFADD (R162). -/
def execAfadd (g : Guard) (d a b : Reg) (f : AtomF) (s : State) : Out := .next (atomicWord 10 g d a b 0 f s)
/-- AINCB (R162). -/
def execAincb (g : Guard) (d a b c : Reg) (f : AtomF) (s : State) : Out := .next (atomicWord 11 g d a b c f s)

end Sys2Proof.Machine
end

