-- ==== Sys2Proof/Machine/Branch.lean ====
section
/-! DEFINITION. Branches, calls and control loops (spec/14_control.md R293 to R297). -/

namespace Sys2Proof.Machine

/-- Record the outcome of a predicated branch word while the schedule log is on; 64 outcomes make one BRANCH record (R436). -/
def branchOutcome (g : Guard) (taken : Bool) (s : State) : State :=
  if g.pr = 15 && !g.pn then s
  else onMe s (fun c =>
    if !slogOn c then c else
    let c := { c with dbg := { c.dbg with brOut := c.dbg.brOut ++ [taken] } }
    if c.dbg.brOut.length < 64 then c else slogBranch s.ex.val c)

/-- Redirect the pc to a target that must be a multiple of 8; MISALIGN at the branch word otherwise (R293). `pre` is what the
word writes before it redirects. Two cycles follow in which no word issues (R288). -/
def branchTo (s : State) (target : W64) (pre : State → State) : State :=
  if target.toNat % 8 ≠ 0 then trapControl s (.misalign target)
  else
    let s := pre s
    jumpTo (onCtl (onMe s (fun c => trc s.ex.val s.gtc c .control 1 target)) (fun c => c.passes 2)) target

/-- A branch word under its guard: outcome recorded, predicate-false falls through (R50, R293). -/
def branch (g : Guard) (s : State) (target : State → W64) (pre : State → State) : State :=
  if guardOk (me s).ctl g then branchTo (branchOutcome g true s) (target s) pre else retire (branchOutcome g false s)

/-- The link register lk = s62 (R42). -/
def lk : Reg := 62

/-- lk ← PC + 8. -/
def link (s : State) : State := wr s lk ((me s).ctl.pc + 8)

/-- Log the target of CALLR, JMPR or RET (R436). -/
def logTarget (s : State) (t : W64) : State := onMe s (fun c => slog s.ex.val c .control 5 0 t)

/-- BR (R293). -/
def execBr (g : Guard) (d : BitVec 32) (s : State) : Out :=
  .next (branch g s (fun s => (me s).ctl.pc + disp d) id)
/-- CALL: lk ← PC + 8 (R293). -/
def execCall (g : Guard) (d : BitVec 32) (s : State) : Out :=
  .next (branch g s (fun s => (me s).ctl.pc + disp d) link)
/-- CALLR: the target is read before lk is written (R293). -/
def execCallr (g : Guard) (a : Reg) (s : State) : Out :=
  .next (branch g s (fun s => rd s a) (fun s1 => link (logTarget s1 (rd s a))))
/-- JMPR (R293). -/
def execJmpr (g : Guard) (a : Reg) (s : State) : Out :=
  .next (branch g s (fun s => rd s a) (fun s1 => logTarget s1 (rd s a)))
/-- RET: PC ← lk (R293). -/
def execRet (g : Guard) (s : State) : Out :=
  .next (branch g s (fun s => rd s lk) (fun s1 => logTarget s1 (rd s lk)))

/-- The loop level that LV names, 0 to 3. -/
def lvl (lv : BitVec 3) : Fin 4 := ⟨lv.toNat % 4, Nat.mod_lt _ (by decide)⟩

/-- The body of an active level holds the address. -/
def bodyHolds (l : Loop) (pc : W64) : Bool := l.act && decide ((pc - l.start).toNat < 8 * l.len.toNat)

/-- A loop of len words opened at pc on level lv nests in every active level whose body holds pc (R294). -/
def nests (c : Ctl) (lv : Fin 4) (last : W64) : Bool :=
  ([0, 1, 2, 3] : List (Fin 4)).all (fun i =>
    let l := c.loops.get i
    i == lv || !bodyHolds l c.pc || decide ((last - l.start).toNat ≤ (l.last - l.start).toNat))

/-- Open level lv with a count, or skip the body where the count is zero; ILLEGAL where bodies do not nest (R294). -/
def openLoop (s : State) (lv : Fin 4) (len : BitVec 16) (count : W64) : State :=
  let c := me s
  let pc := c.ctl.pc
  let last := pc + 8 * zext64 len
  if !nests c.ctl lv last then trapControl s (.illegal (curWord s))
  else if count = 0 then jumpTo s (last + 8)
  else
    let l : Loop := ⟨count, pc + 8, len, true, c.loopSeq + 1⟩
    retire (setMe s { c with loopSeq := c.loopSeq + 1, ctl := { c.ctl with loops := c.ctl.loops.set lv l } })

/-- LOOP: the count is s[A], or CNT20 where A is s0 (R294). -/
def execLoop (g : Guard) (a : Reg) (lv : BitVec 3) (len : BitVec 16) (cnt : BitVec 20) (s : State) : Out :=
  .next (guarded g s (fun s =>
    let count := if a = 0 then zext64 cnt else rd s a
    let s := if a = 0 then s else onMe s (fun c => slog s.ex.val c .control 6 0 count)
    openLoop s (lvl lv) len count))

/-- Level j is cleared when level l breaks: it is l, or it was activated after l and its body lies within l's (R297). -/
def brokenBy (c : Ctl) (l j : Fin 4) : Bool :=
  let a := c.loops.get l
  let b := c.loops.get j
  j == l || (b.act && decide (a.order < b.order) && decide ((b.start - a.start).toNat < 8 * a.len.toNat) &&
    decide ((b.last - a.start).toNat ≤ (a.last - a.start).toNat))

/-- Clear the levels of a list. -/
def clearLevels : List (Fin 4) → Ctl → Ctl
  | [], c => c
  | i :: r, c => clearLevels r { c with loops := c.loops.set i { c.loops.get i with act := false } }

/-- LBRK: leave level LV where it is active (R297). -/
def execLbrk (g : Guard) (lv : BitVec 3) (s : State) : Out :=
  .next (
    let l := lvl lv
    let a := (me s).ctl.loops.get l
    if guardOk (me s).ctl g then
      let s := branchOutcome g a.act s
      if a.act then
        let gone := ([3, 2, 1, 0] : List (Fin 4)).filter (fun j => j != l && brokenBy (me s).ctl l j) ++ [l]
        let s := onCtl s (clearLevels gone)
        let s := endSnaps (gone.map (fun i => (i.val, (me s).ccycle))) s
        jumpTo (onMe s (fun c => trc s.ex.val s.gtc c .control 1 (a.last + 8))) (a.last + 8)
      else retire s
    else retire (branchOutcome g false s))

end Sys2Proof.Machine
end

