-- ==== Sys2Proof/Machine/Engine.lean ====
section
/-! DEFINITION. The engine sequencers (spec/03 R55 to R58, spec/10 R198 to R201, R204, spec/14 R298, R299, R303 to R309, spec/15 R317 to
R327): slots, repeats, loops, waits, abandonment, the end of a segment, the commands of the engine queues. -/

namespace Sys2Proof.Machine

/-- The engine word at index i of a segment in the executor's engine word memory; none past the end of its ENG section (R55). -/
def ememWord (c : Core) (seg : W64) (i : Nat) : Option (BitVec 48) :=
  match c.run.res with
  | none => none
  | some r =>
      match r.eng.find? (fun x => decide ((seg - x.base).toNat < x.bytes.length)) with
      | none => none
      | some x =>
          let o := (seg - x.base).toNat + 6 * i
          if o + 6 ≤ x.bytes.length then some (BitVec.ofNat 48 (field x.bytes o 6)) else none

/-- The engine sequencer's current word, zero where none can be fetched: TVAL of an ILLEGAL that a meaning raises (R392). -/
def curEng (s : State) (sq : Seq) : W64 :=
  ((ememWord (me s) (engOf (me s) sq).seg (engOf (me s) sq).widx).getD 0).setWidth 64

/-- The engine sequencer's current word, where it decodes (R57). -/
def curInstr (s : State) (sq : Seq) : Option Instr :=
  match ememWord (me s) (engOf (me s) sq).seg (engOf (me s) sq).widx with
  | none => none
  | some w => (match decodeEngine sq w with | .ok i => some i | .error _ => none)

/-- The sequencer runs and its current word is in a wait. -/
def engWaits (s : State) (sq : Seq) : Bool :=
  engineRuns (me s) && (engOf (me s) sq).st == .running && (engOf (me s) sq).wait.isSome

/-- Change an engine sequencer's record. -/
def onEng (s : State) (sq : Seq) (f : Eng → Eng) : State := onMe s (fun c => setEng c sq (f (engOf c sq)))

/-- Change the vector engine's record. -/
def onVec (s : State) (f : Vec → Vec) : State := onMe s (fun c => { c with vec := f c.vec })

/-! ## Results in flight (R198 to R201) -/

/-- Lane by lane, the new value where the mask has its bit, else the old one. -/
def mergeRow (lanes : W64) (old new : Row) : Row :=
  Vector.ofFn (fun i => if lanes.getLsbD i.val then new.get i else old.get i)

/-- The value of vector register n. -/
def vreg (v : Vec) (n : Nat) : Row := tblGet (Vector.replicate 64 0) v.v n

/-- Write lanes of vector register n; writing every lane clears its poison (R406). -/
def setVreg (v : Vec) (n : Nat) (lanes : W64) (x : Row) : Vec :=
  { v with v := tblSet (Vector.replicate 64 0) v.v n (mergeRow lanes (vreg v n) x)
           vpoison := if lanes = allLanes then tblSet false v.vpoison n false else v.vpoison }

/-- The value of mask register n: m0 reads all ones (R41). -/
def mreg (v : Vec) (n : Nat) : W64 := if n = 0 then allLanes else if h : n < 16 then v.m.get ⟨n, h⟩ else 0

/-- Write bits of mask register n; a write to m0 is discarded. -/
def setMreg (v : Vec) (n : Nat) (lanes x : W64) : Vec :=
  if n = 0 then v
  else if h : n < 16 then
    { v with m := v.m.set n ((mreg v n &&& ~~~lanes) ||| (x &&& lanes)) h
             vpoison := if lanes = allLanes then tblSet false v.vpoison (1000 + n) false else v.vpoison }
  else v

/-- A result lands in its lanes (R201). -/
def landOne (v : Vec) (r : Irb) : Vec :=
  let mark (v : Vec) (n : Nat) : Vec := if r.poison then { v with vpoison := tblSet false v.vpoison n true } else v
  match r.dest with
  | .reg n => mark (setVreg v n r.lanes r.value) n
  | .mask n => mark (setMreg v n r.lanes r.mask) (1000 + n)

/-- Insert a result by its slot, then its order of issue. -/
def irbIns (r : Irb) : List Irb → List Irb
  | [] => [r]
  | x :: l => if decide (r.due < x.due) || (r.due == x.due && decide (r.order < x.order)) then r :: x :: l else x :: irbIns r l

/-- Results by slot, then order of issue (R200). -/
def irbSort (l : List Irb) : List Irb := l.foldr irbIns []

/-- A gather's destination becomes visible. -/
def landGather (v : Vec) (g : Gather) : Vec := landOne v (gatherIrb g)

/-- The results, and the gathers that have arrived, due at or before the next slot, by slot and then by issue (R198, R200, R234; DEDUCED, log 7). -/
def dueNow (v : Vec) : List Irb :=
  irbSort (v.irb.filter (fun r => decide (r.due ≤ v.slot)) ++ (v.gathers.filter (fun g => g.load && g.done && decide (g.due ≤ v.slot))).map gatherIrb)

/-- A result lands; the trace buffer records a mask write (R438). -/
def landIn (ex : Nat) (gtc : W64) (c : Core) (r : Irb) : Core :=
  let c := { c with vec := landOne c.vec r }
  match r.dest with
  | .reg _ => c
  | .mask n => trc ex gtc c .vector 2 (mreg c.vec n)

/-- Land what is due, and drop the scatters whose lanes have all been served. -/
def landVec (s : State) : State :=
  onMe s (fun c =>
    (dueNow c.vec).foldl (landIn s.ex.val s.gtc)
      { c with vec := { c.vec with irb := c.vec.irb.filter (fun r => !decide (r.due ≤ c.vec.slot))
                                   gathers := c.vec.gathers.filter (fun g => if g.load then !(g.done && decide (g.due ≤ c.vec.slot)) else !scatDone c g) } })

/-! ## Slots, repeats and loops (R57, R199, R308) -/

/-- One issue slot of a sequencer has passed. -/
def slotOn (s : State) (sq : Seq) : State :=
  let s := onEng s sq (fun e => { e with cycle := e.cycle + 1 })
  if sq = .vector then onVec s (fun v => { v with slot := v.slot + 1 }) else s

/-- Level n of an engine. -/
def getELoop (e : Eng) (n : Nat) : ELoop := if n = 0 then e.loop0 else e.loop1

/-- Replace level n of an engine. -/
def setELoop (e : Eng) (n : Nat) (l : ELoop) : Eng := if n = 0 then { e with loop0 := l } else { e with loop1 := l }

/-- The index of a level's last body word. -/
def ELoop.last (l : ELoop) : Nat := l.start + l.len - 1

/-- The end test of a level at the current word: it continues, with the sequencer at its start, or has ended, or is not concerned. -/
def eLevelEnd (e : Eng) (n : Nat) : Eng × Bool × Bool :=
  let l := getELoop e n
  if l.act && l.last == e.widx then
    if 1 < l.count then (setELoop { e with widx := l.start } n { l with count := l.count - 1 }, true, false)
    else (setELoop e n { l with act := false }, false, true)
  else (e, false, false)

/-- The end tests at the last repeat of the current word, the level activated later first; then the next word. Answers the levels
that ended. -/
def eLoopEnd (e : Eng) : Eng × List Nat :=
  let first := if e.loop0.order < e.loop1.order then 1 else 0
  let (e1, go1, end1) := eLevelEnd e first
  if go1 then (e1, [])
  else
    let (e2, go2, end2) := eLevelEnd e1 (1 - first)
    let ended := (if end1 then [first] else []) ++ (if end2 then [1 - first] else [])
    if go2 then (e2, ended) else ({ e2 with widx := e.widx + 1 }, ended)

/-- Snapshots of the engine levels that ended, their word in a slot (R432): vl0 and vl1 are bits 20 and 21 of LVMASK's place, xl0 and xl1 bits 22 and 23. -/
def eSnaps (sq : Seq) (slot : Nat) : List Nat → State → State
  | [], s => s
  | l :: r, s =>
      let at_ := (if sq = .vector then 20 else 22) + l
      eSnaps sq slot r (if (me s).csrd.bcctl.getLsbD at_ then snapshot s sq (if sq = .vector then 2 else 3) l slot else s)

/-- The lane at the head of the gather queue is a load's, or a scatter's; it is no longer held when those are given up (R151, R234). -/
def dropLaneHold (load : Bool) (c : Core) : Core :=
  match c.vec.gathers.find? (fun g => !g.lanes.isEmpty) with
  | some g => if g.load = load then { c with held := c.held.filter (fun h => h.1 != .gather) } else c
  | none => c

/-- The lanes of scatters that have not been served are never stored (R234). -/
def dropScatters (c : Core) : Core :=
  let c := dropLaneHold false c
  let ids := c.vec.gathers.flatMap (fun g => if g.load then [] else g.ids)
  { c with reqs := c.reqs.filter (fun r => !ids.contains r.id), wc := c.wc.filter (fun w => !ids.contains w.id),
           vec := { c.vec with gathers := c.vec.gathers.filter (fun g => g.load) } }

/-- A repeat of a word with RPT = rpt has issued: one slot; the next repeat, or the next word after the end tests, or, in an abandoned
segment, no further word (R57, R204, R308). -/
def retireEng (s : State) (sq : Seq) (rpt : Nat) : State :=
  let slot := cycleOf (me s) sq
  let s := slotOn s sq
  let e := engOf (me s) sq
  if e.rep < rpt then onEng s sq (fun e => { e with rep := e.rep + 1 })
  else if e.abandoned then
    let s := if e.gdead then onMe s dropScatters else s
    onEng s sq (fun e => { e with rep := 0, st := .ending, qdead := none, tdead := false, gdead := false })
  else
    let (e', ended) := eLoopEnd { e with rep := 0 }
    eSnaps sq slot ended (onEng s sq (fun _ => e'))

/-! ## Abandonment and the end of a segment (R204, R303, R306) -/

/-- The schedule log's record of an abandonment (R436): REASON is an ESTAT bit number. -/
def abandonLog (s : State) (sq : Seq) (reason : Nat) : State :=
  onMe s (fun c => slog s.ex.val c sq 8 reason (BitVec.ofNat 64 (engOf c sq).widx))

/-- The segment is abandoned once the current word's repeats have issued (R204). -/
def abandonAfter (s : State) (sq : Seq) (reason : Nat) : State :=
  if (engOf (me s) sq).abandoned then s else onEng (abandonLog s sq reason) sq (fun e => { e with abandoned := true })

/-- The segment is abandoned at the current word, which ends; none of its later sets is made, and its promises stay in P (R204, R324). -/
def abandonNow (s : State) (sq : Seq) (reason : Nat) : State :=
  onEng (abandonLog s sq reason) sq (fun e => { e with st := .ending, rep := 0, abandoned := true, wait := none })

/-- The segment has completed: the sequencer is IDLE, its group's member has ended; a promise of a set that it has not made stays in P (R303, R306,
R324). -/
def finishSeg (s : State) (sq : Seq) : State :=
  onMe s (fun c =>
    let c := memberEnds c sq
    setEng c sq { engOf c sq with st := .idle, group := none, abandoned := false, wait := none, rep := 0 })

/-- One drain slot of the vector sequencer (R199): what is due lands; a slot passes while results are in flight. -/
def drainSlot (s : State) : State :=
  let s := landVec s
  if (me s).vec.irb.isEmpty && !(me s).vec.gathers.any (fun g => g.load && g.done) then s else slotOn s .vector

/-- The vector sequencer issues drain slots: at VEND, at a rendezvous word, in an abandoned segment (R199, R306). -/
def draining (s : State) : Bool :=
  engineRuns (me s) &&
  (match (me s).ve.st with
   | .stopped => true
   | .ending => true
   | .running => curInstr s .vector == some .vend
   | _ => false)

/-- IRB_LANDING: results land in their slots: the drain slot that the sequencer issues where it drains; elsewhere they land as the slot of the next
repeat issues, and never between two slots (R198 to R201, R400). -/
def execIrbLanding (s : State) : Out := .next (if draining s then drainSlot s else s)

/-- The matrix nest, and every drain, of an ending segment has ended; the other engines' words complete in the sense of R305. -/
def endReady (c : Core) (sq : Seq) : Bool := wordsDone c sq && (sq != .matrix || !c.mx.live)

/-- An abandoned matrix segment ends the nest: at once where no reduction runs or one is stalled, else at its retirement; a waiting MGO and the count of
an ALL = 1 drain are gone with their word (R257, R259, R261). -/
def nestEnds (c : Core) : Core :=
  let c := nestStop { c with mx := { c.mx with mgoNext := none, drained := false, wait := none } }
  let c := { c with mx := { c.mx with left := none } }
  if c.mx.red.isNone then { c with mx := { c.mx with live := false, mgo := none, paused := false } } else c

/-- An abandoned segment completes once its words that had issued have completed (R306). -/
def endingTurn (s : State) (sq : Seq) : State :=
  let s := if sq = .vector then drainSlot s else if sq = .matrix then onMe s nestEnds else s
  if endReady (me s) sq then finishSeg s sq else s

/-! ## Traps and waits of an engine (R317 to R319, R394, R397) -/

/-- An engine repeat traps at its schedule cycle, the rest of the state as it was; its wait is over. -/
def engTrap (s : State) (sq : Seq) (t : Trap) : State := trapEngine (onEng s sq (fun e => { e with wait := none })) sq t

/-- The outcome of an engine's wait at this moment. -/
inductive EOut where
  | go (s : State)
  | stay (s : State)
  | expired (s : State)
  | aborted (s : State)
  | trap (s : State)

/-- The engine's deadline register clamped by DLMAX (R317). -/
def engDl (c : Core) (sq : Seq) : Nat := min (engOf c sq).dl.toNat c.csr.dlmax.toNat

/-- A wait of an engine word on a condition (R317, R319). `always`: the word waits even where the condition holds at once. An event of the
deadline's own tick counts first, so a wait that is no poll expires as its tick ends. -/
def engWait (s : State) (sq : Seq) (always cond : Bool) : EOut :=
  let c := me s
  let w := (engOf c sq).wait.getD (c.ctc, engDl c sq)
  let clear (s : State) : State := onEng s sq (fun e => { e with wait := none })
  if (engOf c sq).wait.isNone && cond && !always then .go s
  else if gangAborted s c then .aborted (onMe (clear s) (fun c => setTocnt c 0))
  else if cond then .go (onMe (clear s) (fun c => setTocnt c 0))
  else if w.2 = 0 then .expired (clear s)
  else if (c.ctc - w.1).toNat < w.2 ∨ !s.closing then .stay (onEng s sq (fun e => { e with wait := some w }))
  else
    let r := settle c false
    if r.1 then .trap (clear (setMe s r.2)) else .expired (clear (setMe s r.2))

/-- A wait of a named kind: one that the sequencer has begun for another reason is over once this condition is asked. -/
def waitFor (s : State) (sq : Seq) (k : WFor) (always cond : Bool) : EOut :=
  let e := engOf (me s) sq
  if e.wait.isSome && e.wfor != k then
    (if cond && !always then .go s else engWait (onEng s sq (fun e => { e with wait := none, wfor := k })) sq always cond)
  else engWait (if e.wfor = k then s else onEng s sq (fun e => { e with wfor := k })) sq always cond

/-- A wait whose deadline counts as expired at once (R188, R319). -/
def expireNow (s : State) (sq : Seq) : EOut :=
  let c := me s
  let clear (s : State) : State := onEng s sq (fun e => { e with wait := none })
  if engDl c sq = 0 then .expired (clear s)
  else
    let r := settle c false
    if r.1 then .trap (clear (setMe s r.2)) else .expired (clear (setMe s r.2))

/-- The free value that stands for a number the spec gives no rule for, and the state with the next index (DESIGN CHOICE, log 19). -/
def freeNat (s : State) (m : Nat) : Nat × State :=
  ((Config.freeValue s.nextId).toNat % m, { s with nextId := s.nextId + 1 })

/-! ## Rendezvous (R305) -/

/-- VRDV, MRDV and XRDV: no effect without a group; ILLEGAL with another id; else the sequencer stops at the word. -/
def rdvWord (sq : Seq) (id : BitVec 10) (s : State) : State :=
  let e := engOf (me s) sq
  match e.group with
  | none => retireEng s sq 0
  | some g =>
      if g % 1024 ≠ id.toNat then engTrap s sq (.illegal (curEng s sq))
      else onEng s sq (fun e => { e with st := .stopped, wait := some ((me s).ctc, engDl (me s) sq) })

/-- Release a sequencer that stands at its rendezvous: it continues with the next word in its next slot (R303). -/
def releaseEng (s : State) (sq : Seq) : State :=
  if stands (me s) sq then retireEng (onEng s sq (fun e => { e with rep := 0, st := .running, wait := none })) sq 0 else s

/-- Release every sequencer of a list. -/
def releaseAll : List Seq → State → State
  | [], s => s
  | q :: r, s => releaseAll r (releaseEng s q)

/-- A stopped sequencer: drain slots (R199); past its deadline, or in an aborted gang, the segment is abandoned and the expiry settled (R305,
R319). -/
def stoppedTurn (s : State) (sq : Seq) : State :=
  let s := if sq = .vector then drainSlot s else s
  match engWait s sq true false with
  | .stay s => s
  | .go s => s
  | .trap t => trapEngine (onEng t sq (fun e => { e with st := .running, rep := 0 })) sq .deadline
  | .aborted s => let (r, s) := freeNat s 64; abandonNow (slotOn s sq) sq r
  | .expired s => let (r, s) := freeNat s 64; abandonNow (slotOn s sq) sq r

/-- RENDEZVOUS_STOP_EXPIRY: a rendezvous stop's deadline has passed (R305). Choice: sq. -/
def execRendezvousStopExpiry (s : State) : Out :=
  .next (asTickEnds s (fun s => if s.choice.sq ≠ .control ∧ (engOf (me s) s.choice.sq).st = .stopped ∧ engineRuns (me s) then stoppedTurn s s.choice.sq else s))

/-- VRDV (R305). -/
def execVrdv (id : BitVec 10) (s : State) : Out := .next (rdvWord .vector id s)
/-- MRDV (R305). -/
def execMrdv (id : BitVec 10) (s : State) : Out := .next (rdvWord .matrix id s)
/-- XRDV (R305). -/
def execXrdv (id : BitVec 10) (s : State) : Out := .next (rdvWord .copy id s)

/-- VEND: drain slots, then the segment completes (R306). -/
def execVend (s : State) : Out :=
  .next (
    let s := drainSlot s
    if (me s).vec.irb.isEmpty && wordsDone (me s) .vector then finishSeg (slotOn s .vector) .vector else s)

/-- MEND: once the nest and the drains have ended (R259, R306). -/
def execMend (s : State) : Out :=
  .next (if endReady (me s) .matrix then finishSeg (slotOn s .matrix) .matrix else s)

/-- XEND: once every command that the segment enqueued has completed (R305, R306). -/
def execXend (s : State) : Out :=
  .next (if wordsDone (me s) .copy then finishSeg (slotOn s .copy) .copy else s)

/-! ## Deadline registers (R320) -/

/-- A word that only writes the deadline register. -/
def setDl (sq : Seq) (dl : BitVec 24) (s : State) : State :=
  retireEng (onEng s sq (fun e => { e with dl := dl.setWidth 32 })) sq 0

/-- VSETDL (R320). -/
def execVsetdl (dl : BitVec 24) (s : State) : Out := .next (setDl .vector dl s)
/-- MSETDL (R320). -/
def execMsetdl (dl : BitVec 24) (s : State) : Out := .next (setDl .matrix dl s)
/-- XSETDL (R320). -/
def execXsetdl (dl : BitVec 24) (s : State) : Out := .next (setDl .copy dl s)

/-! ## Flag words (R325, R326) -/

/-- A set word may take effect: every earlier word of the segment has completed; results in flight are visible to this sequencer alone
and hold it up no longer than their time (R325, R259). -/
def setReady (c : Core) : Seq → Bool
  | .vector => c.vec.gathers.all (fun g => if g.load then g.done else scatDone c g) && !c.reqs.any (fun r => r.sq == .vector) && !c.wc.any (fun w => w.sq == .vector)
  | .matrix => !c.mx.live && !(allCmds c).any isDrain
  | q => wordsDone c q

/-- A set word: it stalls until it may take effect, then V + 1 (R325, R326). A release sends the write-combining entries (R353). -/
def setWord (sq : Seq) (fl : BitVec 6) (s : State) : State :=
  let s := wcFlushSq s sq
  if flagBad (me s) fl then engTrap s sq (.poison 0)
  else if setReady (me s) sq then
    let s := flagWaitLog s sq fl (((engOf (me s) sq).wait.map (fun w => w.1)).getD (me s).ctc) 0
    retireEng (onEng (onMe s (fun c => addV c fl 1)) sq (fun e => { e with wait := none })) sq 0
  else onEng s sq (fun e => { e with wait := some (e.wait.getD ((me s).ctc, 0)) })

/-- VSETF (R326). -/
def execVsetf (fl : BitVec 6) (s : State) : Out := .next (setWord .vector fl s)
/-- MSETF (R326). -/
def execMsetf (fl : BitVec 6) (s : State) : Out := .next (setWord .matrix fl s)
/-- XSETF (R326). -/
def execXsetf (fl : BitVec 6) (s : State) : Out := .next (setWord .copy fl s)

/-- A wait word's abandonment: MWAITF also writes TIMEOUT to ESTAT.MATRIX (R326), whose bits begin at 32. -/
def waitAbandon (s : State) (sq : Seq) : State :=
  if sq = .matrix then abandonNow (onMe s (fun c => estatMatrix c 1)) sq 32
  else (let (r, s) := freeNat s 64; abandonNow s sq r)

/-- A wait word gives its claim back and abandons the segment; ILLEGAL where P would pass 2^32 − 1 (R322, R326; DESIGN CHOICE, log 82). -/
def waitGivesUp (s : State) (sq : Seq) (fl : BitVec 6) : State :=
  match promiseFlag (me s) fl 1 with
  | .error _ => engTrap s sq (.illegal (curEng s sq))
  | .ok c => waitAbandon (setMe s c) sq

/-- A wait word: wait for V ≥ 1 and consume one set; an expiry returns the claim and abandons the
segment, so that a wait whose promised set never arrives ends at its deadline (R324); one that traps keeps the claim, since the word waits afresh (R319,
R326; DEDUCED, log 25). -/
def waitWord (sq : Seq) (fl : BitVec 6) (s : State) : State :=
  let t0 := ((engOf (me s) sq).wait.map (fun w => w.1)).getD (me s).ctc
  if flagBad (me s) fl then engTrap s sq (.poison 0)
  else match engWait s sq true (decide (1 ≤ (flagV (me s) fl).toNat)) with
  | .go s => retireEng (onMe (flagWaitLog s sq fl t0 0) (fun c => subV c fl 1)) sq 0
  | .stay s => s
  | .aborted s => waitGivesUp (flagWaitLog s sq fl t0 4) sq fl
  | .expired s => waitGivesUp (flagWaitLog s sq fl t0 1) sq fl
  | .trap s =>
      let s := flagWaitLog s sq fl t0 1
      trapEngine (if sq = .matrix then onMe s (fun c => estatMatrix c 1) else s) sq .deadline

/-- VWAITF (R326). -/
def execVwaitf (fl : BitVec 6) (s : State) : Out := .next (waitWord .vector fl s)
/-- MWAITF (R326). -/
def execMwaitf (fl : BitVec 6) (s : State) : Out := .next (waitWord .matrix fl s)
/-- XWAITF (R326). -/
def execXwaitf (fl : BitVec 6) (s : State) : Out := .next (waitWord .copy fl s)

/-- FLAG_WAIT_EXPIRY: a wait word's deadline has passed (R319, R326). Choice: sq. -/
def execFlagWaitExpiry (s : State) : Out :=
  .next (asTickEnds s (fun s =>
    let sq := s.choice.sq
    if engWaits s sq then
      (match curInstr s sq with
       | some (.vwaitf fl) => waitWord .vector fl s
       | some (.mwaitf fl) => waitWord .matrix fl s
       | some (.xwaitf fl) => waitWord .copy fl s
       | _ => s)
    else s))

end Sys2Proof.Machine
end

