-- ==== Sys2Proof/Machine/Sync.lean ====
section
/-! DEFINITION. Event counters, rules, FENCE, WAITC (spec/15_sync.md R322 to R332, R340 to R342), the engine queues and their commands
(spec/14_control.md R296, R298 to R303), the engine loops (R308, R309). -/

namespace Sys2Proof.Machine

/-! ## Commands and their promises (R322, R323) -/

/-- A segment of the running kernel's image for an engine, 0 copy, 1 matrix, 2 vector (R300). -/
def segEnt (c : Core) (engine : Nat) (addr : W64) : Option SegEnt :=
  match c.run.res with
  | none => none
  | some r => r.segs.find? (fun x => x.addr == addr && x.engine == engine)

/-- The engine of a number. -/
def engNo (n : Nat) : Seq := if n = 0 then .copy else if n = 1 then .matrix else .vector

/-- The number of an engine. -/
def noOf : Seq → Nat
  | .copy => 0
  | .matrix => 1
  | _ => 2

/-- What the push of a command does to the counters: a RUN claims for the wait list, then promises for the set list, each flag once, so that only the
first set and wait of each flag is checked (R323, R324); SETF promises one, WAITF claims one. -/
def charge (c : Core) (engine : Nat) (cmd : Cmd) : Except Trap Core :=
  match cmd with
  | .setf fl => promiseFlag c fl 1
  | .waitf fl _ => claimFlag c fl 1
  | .run seg _ _ =>
      match segEnt c engine seg with
      | none => .error (.illegal 0)
      | some x =>
          match claimAll (flagsOf x.waits) c with
          | .error t => .error t
          | .ok c => promiseAll (flagsOf x.sets) c

/-- Charge the commands of one push in engine order. -/
def chargeAll : List (Nat × Cmd) → Core → Except Trap Core
  | [], c => .ok c
  | (n, cmd) :: r, c => (match charge c n cmd with | .error t => .error t | .ok c => chargeAll r c)

/-- An ILLEGAL that a counter raises names the word (R392). -/
def atWord (w : W64) (t : Trap) : Trap := if t.code = 1 then { t with tval := w } else t

/-- Put commands at the tails of their queues. -/
def pushAll : List (Nat × Cmd) → Core → Core
  | [], c => c
  | (n, cmd) :: r, c => pushAll r (setQueue c (engNo n) (queueOf c (engNo n) ++ [cmd]))

/-- Every queue that a push names has a free entry. -/
def pushRoom (c : Core) (cmds : List (Nat × Cmd)) : Bool := cmds.all (fun x => decide ((queueOf c (engNo x.1)).length < 32))

/-! ## FORK, EPUSH, JOIN (R300 to R303) -/

/-- The control sequencer's earlier stores and atomics that have not been served. -/
def controlStores (c : Core) : List Nat :=
  (c.reqs.filter (fun r => r.sq == .control && r.isWrite)).map (fun r => r.id) ++
  (c.wc.filter (fun w => w.sq == .control)).map (fun w => w.id)

/-- The push: the group opens, the counters are charged, the commands enter, a WAITF with the promised count as it stands (R298), OK. -/
def pushNow (s : State) (d : Reg) (cmds : List (Nat × Cmd)) (rdv : Option (BitVec 10)) : State :=
  let (n, s) := fresh s
  let num := rdv.map (fun i => n * 1024 + i.toNat)
  let cmds := cmds.map (fun x => (x.1, match x.2 with | .run sg p _ => .run sg p num | .waitf fl _ => .waitf fl (flagP (me s) fl) | y => y))
  match chargeAll cmds (me s) with
  | .error t => trapControl s (atWord (curWord s) t)
  | .ok c =>
      let c := match rdv with
        | none => c
        | some i =>
            let g : Group := { num := n * 1024 + i.toNat, id := i, members := cmds.map (fun x : Nat × Cmd => ({ sq := engNo x.1 } : Member)) }
            { c with sync := { c.sync with groups := c.sync.groups ++ [g] } }
      done (setMe s (pushAll cmds { c with cwait := none })) d 0

/-- A push that waits: for a free entry in every queue under the deadline, then for the earlier stores, with what was left of the deadline kept for a
word that is to issue again (R301, R318). -/
def pushStep (s : State) (d : Reg) (mask : BitVec 3) (cmds : List (Nat × Cmd)) (rdv : Option (BitVec 10)) (ids : List Nat) : State :=
  let left := match (me s).cwait with | some w => w.dl - ((me s).ctc - w.t0).toNat | none => 0
  if ids.isEmpty then
    awaiting s d (pushRoom (me s) cmds) 1 id (fun s =>
      let ids := controlStores (me s)
      if ids.isEmpty then pushNow s d cmds rdv
      else onMe s (fun c => { c with cwait := some { t0 := c.ctc, dl := left, d := d, kind := .push mask cmds rdv ids } }))
  else if ids.any (fun i => (controlStores (me s)).any (fun j => j == i)) then s
  else pushNow s d cmds rdv

/-- The word in the wait, or one about to start. -/
def pushWaiting (s : State) (start : State → State) : State :=
  match (me s).cwait with
  | some w => (match w.kind with | .push mask cmds rdv ids => pushStep s w.d mask cmds rdv ids | _ => s)
  | none => start s

/-- RUN commands for the engines of a mask from a run block (R300); ILLEGAL where an address is no segment of its engine. -/
def runCmds (c : Core) (w : W64) (mask : BitVec 3) (rb : List Byte) : Except Trap (List (Nat × Cmd)) :=
  let want := ([0, 1, 2] : List Nat).filter (fun n => inMask mask (engNo n))
  let p := field64 rb 24 8
  if want.any (fun n => (segEnt c n (field64 rb (8 * n) 8)).isNone) then .error (.illegal w)
  else if p.toNat % 8 ≠ 0 then .error (.misalign p)
  else .ok (want.map (fun n => (n, .run (field64 rb (8 * n) 8) p none)))

/-- Check the commands of a push on a copy of the counters, then wait (R301, R323). -/
def startPush (s : State) (d c : Reg) (mask : BitVec 3) (cmds : List (Nat × Cmd)) (rdv : Option (BitVec 10)) : State :=
  match chargeAll cmds (me s) with
  | .error t => trapControl s (atWord (curWord s) t)
  | .ok _ =>
      let s := wcFlushSq s .control
      pushStep (startWait s (dlOf s c) false d (.push mask cmds rdv [])) d mask cmds rdv []

/-- Read a run block and push RUN commands. -/
def runPush (s : State) (d a c : Reg) (mask : BitVec 3) (rdv : Option (BitVec 10)) : State :=
  let va := rd s a
  if va.toNat % 8 ≠ 0 then trapControl s (.misalign va)
  else
    match plainRead .control 4 s va with
    | (.trap t, s) => trapControl s t
    | (.blocked, s) => wcFlushSq s .control
    | (.ok rb, s) => orTrap s (runCmds (me s) (curWord s) mask rb) (fun cmds => startPush s d c mask cmds rdv)

/-- FORK (R301). -/
def execFork (g : Guard) (d a c : Reg) (mask : BitVec 3) (rdv : BitVec 10) (s : State) : Out :=
  .next (guardedW g s (fun s => pushWaiting s (fun s => runPush s d a c mask (some rdv))))

/-- The bits of an EPUSH operand that must be zero, beside kind and flag (R302). -/
def epushBad (w : W64) : Bool := bits w 63 14 != 0 || bits w 7 2 != 0 || (bits w 1 0 == 0 && bits w 13 8 != 0) || bits w 1 0 == 3

/-- An EPUSH word of one kind (R302): the kind stands in s[B], whose bad values trap ILLEGAL. -/
def epush (g : Guard) (b : Reg) (s : State) (f : State → BitVec 6 → State) : State :=
  guardedW g s (fun s => pushWaiting s (fun s =>
    let w := rd s b
    if epushBad w then trapControl s (.illegal (curWord s)) else f s (w.extractLsb' 8 6)))

/-- The same command for each engine of a mask. -/
def eachEngine (mask : BitVec 3) (cmd : Cmd) : List (Nat × Cmd) :=
  (([0, 1, 2] : List Nat).filter (fun n => inMask mask (engNo n))).map (fun n => (n, cmd))

/-- EPUSH of a RUN (R302). -/
def execEpushRun (g : Guard) (d a b c : Reg) (mask : BitVec 3) (s : State) : Out :=
  .next (epush g b s (fun s _ => runPush s d a c mask none))

/-- EPUSH of a SETF (R302). -/
def execEpushSetf (g : Guard) (d _a b c : Reg) (mask : BitVec 3) (s : State) : Out :=
  .next (epush g b s (fun s fl => startPush s d c mask (eachEngine mask (.setf fl)) none))

/-- EPUSH of a WAITF, with the promised count as it stands (R298, R302). -/
def execEpushWaitf (g : Guard) (d _a b c : Reg) (mask : BitVec 3) (s : State) : Out :=
  .next (epush g b s (fun s fl => startPush s d c mask (eachEngine mask (.waitf fl (flagP (me s) fl))) none))

/-- Every member of a group on the engines of a mask stands or has ended; a group that has closed has ended. -/
def joinCond (c : Core) (num : Nat) (mask : BitVec 3) : Bool :=
  match groupByNum c num with
  | none => true
  | some g => g.members.all (fun m => !(mask == 0 || inMask mask m.sq) || memberReady c g m)

/-- The members of a group on the engines of a mask, by sequencer. -/
def joinSet (c : Core) (num : Nat) (mask : BitVec 3) : List Seq :=
  match groupByNum c num with
  | none => []
  | some g => (g.members.filter (fun m => (mask == 0 || inMask mask m.sq) && !m.ended && (engOf c m.sq).group == some num)).map (fun m => m.sq)

/-- The wait of a JOIN. -/
def joinStep (s : State) (d : Reg) (num : Nat) (mask : BitVec 3) : State :=
  awaiting s d (joinCond (me s) num mask) 1 id (fun s =>
    done (onMe (releaseAll (joinSet (me s) num mask) s) closeEnded) d 0)

/-- JOIN (R303). -/
def execJoin (g : Guard) (d c : Reg) (mask : BitVec 3) (rdv : BitVec 10) (s : State) : Out :=
  .next (guardedW g s (fun s =>
    match (me s).cwait with
    | some w => (match w.kind with | .join num m => joinStep s d num m | _ => s)
    | none =>
        match groupById (me s) rdv with
        | none => done s d 8
        | some x => joinStep (startWait s (dlOf s c) false d (.join x.num mask)) d x.num mask))

/-! ## The commands of the engine queues (R298, R299, R327) -/

/-- The pacing gap of an engine: the larger of its own and, on a compute die, the power controller's (R299, R452, R453; DESIGN CHOICE, log 16). -/
def gapOf (s : State) (sq : Seq) : Nat :=
  let c := me s
  let imposed (g : BitVec 12) : Nat := if isRoot s then 0 else g.toNat
  match sq with
  | .matrix => max c.csr.mpace.toNat (imposed s.dev.power.mg)
  | .vector => max c.csr.vpace.toNat (imposed s.dev.power.vg)
  | _ => max c.csr.xpace.toNat (imposed s.dev.power.xg)

/-- The operating point of the rail that feeds an engine; the copy engine's is the lower of SRAM's and fabric's (R452, R453; DESIGN CHOICE, log 16). -/
def pointOf (p : Power) : Seq → Nat
  | .matrix => (p.rails.get 0).toNat
  | .vector => (p.rails.get 1).toNat
  | _ => min (p.rails.get 2).toNat (p.rails.get 3).toNat

/-- The ticks of a gap of g cycles of the engine's clock, rounded up: a Root executor's runs at 1.0 GHz, a Crown core's engine at 0.6 + 0.1 p GHz (R13,
R299, R452). -/
def gapTicks (s : State) (sq : Seq) (g : Nat) : Nat :=
  if isRoot s then g else let f := 6 + pointOf s.dev.power sq; (10 * g + f - 1) / f

/-- A change of its rail's point stalls the engine (R453). -/
def pointStalls (s : State) (sq : Seq) : Bool := match (engOf (me s) sq).stall with | some t => decide (s.gtc.toNat < t.toNat) | none => false

/-- The pacing gap since the engine's last dequeue has not passed (R299). -/
def paced (s : State) (sq : Seq) : Bool :=
  match (engOf (me s) sq).lastDeq with | none => false | some t => decide ((s.gtc - t).toNat < gapTicks s sq (gapOf s sq))

/-- An engine may dequeue: it is IDLE in a running core and the gap has passed since its last dequeue. -/
def mayDequeue (s : State) (sq : Seq) : Bool :=
  let e := engOf (me s) sq
  sq != .control && engineRuns (me s) && e.st == .idle && e.trap.isNone && !pointStalls s sq && !paced s sq

/-- Dequeues counted for the engine's ramp of one power burst (R453). -/
def countDequeue (s : State) (sq : Seq) : State :=
  let k := s.ex.val * 4 + seqNo sq
  { s with dev := { s.dev with power := { s.dev.power with burst := tblSet 0 s.dev.power.burst k (tblGet 0 s.dev.power.burst k + 1) } } }

/-- The oldest command leaves its queue. -/
def dequeue (s : State) (sq : Seq) : State :=
  countDequeue (onEng (onMe s (fun c => setQueue c sq (queueOf c sq).tail)) sq (fun e => { e with lastDeq := some s.gtc })) sq

/-- ENGINE_RUN: an idle engine dequeues a RUN and starts the segment at word 0, both loop levels inactive (R298, R299, R308). Choice: sq. -/
def execEngineRun (s : State) : Out :=
  .next (
    let sq := s.choice.sq
    match queueOf (me s) sq with
    | .run seg param group :: _ =>
        if mayDequeue s sq then
          let s := onEng (dequeue s sq) sq (fun e => { dl := e.dl, lastDeq := e.lastDeq, stall := e.stall, st := .running, seg := seg, param := param, group := group })
          onMe s (fun c => segStart s.ex.val s.gtc c sq seg)
        else s
    | _ => s)

/-- The engine is IDLE and stands at no word of a segment (R327). -/
def noSegment (s : State) (sq : Seq) : State := onEng s sq (fun e => { e with st := .idle, seg := 0, widx := 0, cycle := 0, rep := 0, wait := none })

/-- SETF_COMMAND: an idle engine dequeues a SETF, V + 1 (R325, R327). Choice: sq. -/
def execSetfCommand (s : State) : Out :=
  .next (
    let sq := s.choice.sq
    match queueOf (me s) sq with
    | .setf fl :: _ =>
        if mayDequeue s sq then
          (if flagBad (me s) fl then trapEngine (noSegment (dequeue s sq) sq) sq (.poison 0) else onMe (dequeue s sq) (fun c => addV c fl 1))
        else s
    | _ => s)

/-- An engine that executes a WAITF waits on; an expired one returns its claim and is discarded; its trap names no segment (R327). A return that would
carry P past 2^32 − 1 traps ILLEGAL (R322; DESIGN CHOICE, log 82). -/
def waitfTurn (s : State) (sq : Seq) (fl : BitVec 6) : State :=
  let t0 := ((engOf (me s) sq).wait.map (fun w => w.1)).getD (me s).ctc
  let back (s : State) (f : State → State) : State :=
    match promiseFlag (me s) fl 1 with
    | .error t => trapEngine (noSegment s sq) sq t
    | .ok c => f (noSegment (setMe s c) sq)
  if flagBad (me s) fl then trapEngine (noSegment s sq) sq (.poison 0)
  else match engWait s sq true (decide (1 ≤ (flagV (me s) fl).toNat)) with
  | .go s => noSegment (onMe (flagWaitLog s sq fl t0 0) (fun c => subV c fl 1)) sq
  | .stay s => s
  | .aborted s => back (flagWaitLog s sq fl t0 4) id
  | .expired s => back (flagWaitLog s sq fl t0 1) id
  | .trap s => back (flagWaitLog s sq fl t0 1) (fun s => trapEngine s sq .deadline)

/-- WAITF_COMMAND: an idle engine dequeues a WAITF, or one that executes it tests its flag again (R327). Choice: sq. -/
def execWaitfCommand (s : State) : Out :=
  .next (
    let sq := s.choice.sq
    match (engOf (me s) sq).st with
    | .waitf fl => if engineRuns (me s) && sq != .control then waitfTurn s sq fl else s
    | _ =>
        match queueOf (me s) sq with
        | .waitf fl _ :: _ =>
            if mayDequeue s sq then waitfTurn (onEng (dequeue s sq) sq (fun e => { e with st := .waitf fl, wait := none })) sq fl else s
        | _ => s)

/-- WAITF_COMMAND_EXPIRY: the deadline of a WAITF command has passed (R319, R327). Choice: sq. -/
def execWaitfCommandExpiry (s : State) : Out :=
  .next (asTickEnds s (fun s =>
    let sq := s.choice.sq
    match (engOf (me s) sq).st with
    | .waitf fl => if engineRuns (me s) && sq != .control then waitfTurn s sq fl else s
    | _ => s))

/-! ## EWAIT, EADD (R328, R329) -/

/-- The wait of an EWAIT whose claim stands, which ends at its deadline where the promised sets do not arrive (R324, R328); a return that would carry P past 2^32 − 1 traps ILLEGAL (R322; DESIGN CHOICE, log 82). -/
def ewaitStep (s : State) (d : Reg) (fl : BitVec 6) (k : Nat) : State :=
  let t0 := waitT0 s
  let back (s : State) (f : State → State) : State :=
    match promiseFlag (me s) fl k with
    | .error t => trapControl s (atWord (curWord s) t)
    | .ok c => f (setMe s c)
  if flagBad (me s) fl then trapControl s (.poison 0)
  else match waitOn s (decide (k ≤ (flagV (me s) fl).toNat)) with
  | .ok s => done (onMe (flagWaitLog s .control fl t0 0) (fun c => subV c fl k)) d 0
  | .aborted s => back (flagWaitLog s .control fl t0 4) (fun s => done s d 4)
  | .expired s => back (flagWaitLog s .control fl t0 1) (fun s => done s d 1)
  | .deadline s => back (flagWaitLog s .control fl t0 1) (fun s => trapControl s .deadline)
  | .stay s => s

/-- EWAIT (R328). -/
def execEwait (g : Guard) (d b c : Reg) (e : Bool) (fl : BitVec 6) (s : State) : Out :=
  .next (guardedW g s (fun s =>
    match (me s).cwait with
    | some w => (match w.kind with | .ewait f k => ewaitStep s d f k | _ => s)
    | none =>
        let k := bits (rd s b) 31 0
        if k = 0 then done s d 0
        else orTrap s (claimFlag (me s) fl k) (fun x => ewaitStep (startWait (setMe s x) (dlOf s c) e d (.ewait fl k)) d fl k)))

/-- EADD: P rises now, V once every earlier store of the control sequencer has been served (R329). -/
def execEadd (g : Guard) (b : Reg) (fl : BitVec 6) (s : State) : Out :=
  .next (guarded g s (fun s =>
    let k := bits (rd s b) 31 0
    match promiseFlag (me s) fl k with
    | .error t => trapControl s (atWord (curWord s) t)
    | .ok c =>
        let s := wcFlushSq (setMe s c) .control
        if (controlStores (me s)).isEmpty then retire (onMe s (fun c => addV c fl k))
        else retire (addReq s { kind := .eadd fl k })))

/-! ## Event-crossbar rules (R330 to R332) -/

/-- The rule of number n. -/
def ruleOf (c : Core) (n : Nat) : Rule := tblGet {} c.sync.rules n

/-- Replace rule n. -/
def setRule (c : Core) (n : Nat) (r : Rule) : Core := { c with sync := { c.sync with rules := tblSet {} c.sync.rules n r } }

/-- The flags that term t of a rule uses. -/
def termFlags (r : Rule) (t : Nat) : List (BitVec 6) :=
  ((r.terms.drop (3 * t)).take 3).filterMap (fun b => if b.getLsbD 7 then some (b.setWidth 6) else none)

/-- The descriptor's fields. -/
def ruleFrom (bs : List Byte) : Rule :=
  { terms := bs.take 12, armed := decide (128 ≤ field bs 12 1), engine := BitVec.ofNat 2 (field bs 12 1), seg := field64 bs 16 8, param := field64 bs 24 8 }

/-- A descriptor that traps ILLEGAL (R330, R331). -/
def ruleBad (bs : List Byte) : Bool :=
  let r := ruleFrom bs
  (bs.take 12).any (fun b => b.getLsbD 6) || field bs 12 1 / 4 % 32 != 0 || field bs 13 3 != 0 || field bs 24 8 % 8 != 0 ||
  r.engine == 3 || (List.range 4).any (fun t => !(termFlags r t).Nodup) || (r.armed && (termFlags r 0).isEmpty)

/-- The wait list of a rule's segment. -/
def ruleWaits (c : Core) (r : Rule) : List (BitVec 6) :=
  match segEnt c r.engine.toNat r.seg with | none => [] | some x => flagsOf x.waits

/-- Configure rule n from a descriptor (R331). -/
def ruleSet (s : State) (d : Reg) (n : Nat) (bs : List Byte) : State :=
  let c := me s
  let r := ruleFrom bs
  let old := ruleOf c n
  if ruleBad bs then trapControl s (.illegal (curWord s))
  else if r.armed then
    if old.armed then done s d 7
    else
      match segEnt c r.engine.toNat r.seg with
      | none => trapControl s (.illegal (curWord s))
      | some x =>
          match claimAll (termFlags r 0 ++ flagsOf x.waits) c with
          | .error t => trapControl s t
          | .ok c =>
              match promiseAll (flagsOf x.sets) c with
              | .error t => trapControl s (atWord (curWord s) t)
              | .ok c => done (setMe s (setRule c n r)) d 0
  else
    match promiseAll (if old.armed then termFlags old 0 ++ ruleWaits c old else []) c with
    | .error t => trapControl s (atWord (curWord s) t)
    | .ok c => done (setMe s (setRule c n r)) d 0

/-- EVCFG (R331). -/
def execEvcfg (g : Guard) (d a : Reg) (off : BitVec 12) (rule : BitVec 4) (s : State) : Out :=
  .next (guarded g s (fun s =>
    let va := ea s a off
    if va.toNat % 32 ≠ 0 then trapControl s (.misalign va)
    else
      match plainRead .control 4 s va with
      | (.trap t, s) => trapControl s t
      | (.blocked, s) => wcFlushSq s .control
      | (.ok bs, s) => ruleSet s d rule.toNat bs))

/-- Term t of a rule is used and every flag of it has V ≥ 1. -/
def termHolds (c : Core) (r : Rule) (t : Nat) : Bool :=
  !(termFlags r t).isEmpty && (termFlags r t).all (fun f => !flagBad c f && decide (1 ≤ (flagV c f).toNat))

/-- Entries that a FORK or EPUSH waiting for its stores will push to an engine's queue (R301). -/
def reservedFor (c : Core) (n : Nat) : Nat :=
  match c.cwait with
  | none => 0
  | some w => (match w.kind with | .push _ cmds _ ids => if ids.isEmpty then 0 else (cmds.filter (fun x => x.1 == n)).length | _ => 0)

/-- A firing that cannot return term 0's claims has no effect and traps in its engine's name, with no segment, once a trap can be taken (R322;
DESIGN CHOICE, log 82). -/
def ruleTrap (s : State) (sq : Seq) (t : Trap) : State :=
  if holdsTraps (me s) then s else setMe s (enterTrap s.ex.val (park (me s)) sq t (me s).ctl.pc 0 0)

/-- RULE_FIRING: an armed rule fires on its lowest term that holds, where its queue has a free entry; not while a precise stop holds (R332, R435).
Choice: n, the rule. -/
def execRuleFiring (s : State) : Out :=
  .next (
    let c := me s
    let n := s.choice.n % 16
    let r := ruleOf c n
    match (List.range 4).find? (termHolds c r) with
    | none => s
    | some t =>
        let q := engNo r.engine.toNat
        if contextOn c && !c.run.dstop && r.armed && decide ((queueOf c q).length + reservedFor c r.engine.toNat < 32) then
          match promiseAll (if t = 0 then [] else termFlags r 0) ((termFlags r t).foldl (fun c f => subV c f 1) c) with
          | .error e => ruleTrap s q e
          | .ok c => setMe s (pushAll [(r.engine.toNat, .run r.seg r.param none)] (setRule c n { r with armed := false }))
        else s)

/-! ## FENCE and WAITC (R341, R342) -/

/-- The operations of the executor with a host write that has been served and not acknowledged: the control sequencer's alone, or every agent's. -/
def ackIds (s : State) (eng : Bool) : List OpId :=
  (s.acks.filter (fun a => a.ex == s.ex.val && (eng || a.sq == .control))).map (fun a => .num a.op)

/-- The members of a FENCE that are not complete at its scope (R342, R348). -/
def fenceLeft (s : State) (ids : List OpId) (scope : BitVec 3) : List OpId :=
  let c := me s
  ids.filter (fun i => (allIds c).any (fun j => j == i) || (controlIds c).any (fun j => j == i) ||
    (scope == 4 && (ackIds s true).any (fun j => j == i)))

/-- What a SYSTEM-scope FENCE drains beside its members: the writes that have left the core's write-combining and non-temporal buffers, the
core's host writes that are not acknowledged, and those of any agent that its own has acquired (R352, R353). -/
def fenceDrains (s : State) : List Nat :=
  ((me s).reqs.filter (fun r => drains { scope := 4 } r)).map (fun r => r.id) ++
  (s.acks.filter (fun a => a.ex == s.ex.val || decide (a.id < (me s).acq))).map (fun a => a.id)

/-- Every write of a list has been served, and acknowledged where it is the host's. -/
def drained (s : State) (l : List Nat) : Bool :=
  !(me s).reqs.any (fun r => l.contains r.id) && !s.acks.any (fun a => l.contains a.id)

/-- The wait of a FENCE: its members, and the writes that it drains, which it does not count. -/
def fenceStep (s : State) (d b : Reg) (ids : List OpId) (flushed : List Nat) (scope : BitVec 3) : State :=
  let left := fenceLeft s ids scope
  let count (s : State) : State := wr s b (BitVec.ofNat 64 left.length)
  match waitOn s (left.isEmpty && drained s flushed) with
  | .ok s => done (wr (if scope = 0 then s else l1Clear s) b 0) d 0
  | .aborted s => done (count s) d 4
  | .expired s => done (count s) d 3
  | .deadline s => trapControl s .deadline
  | .stay s => s

/-- FENCE (R342). -/
def execFence (g : Guard) (d b c : Reg) (e : Bool) (scope : BitVec 3) (eng : Bool) (s : State) : Out :=
  .next (guardedW g s (fun s =>
    match (me s).cwait with
    | some w => (match w.kind with | .fence ids fl sc b => fenceStep s d b ids fl sc | _ => s)
    | none =>
        let s := if eng || scope == 4 then wcFlushAll s else wcFlushSq s .control
        let ids := controlIds (me s) ++ (if eng then allIds (me s) else []) ++ (if scope = 4 then ackIds s eng else [])
        let ids := ids.eraseDups
        let flushed := if scope = 4 then fenceDrains s else []
        fenceStep (startWait s (dlOf s c) e d (.fence ids flushed scope b)) d b ids flushed scope))

/-- A class is at or below its threshold; 7 ignores it. -/
def atMost (t : BitVec 3) (n : Nat) : Bool := t == 7 || decide (n ≤ t.toNat)

/-- Every class that WAITC does not ignore is at or below its threshold. -/
def waitcCond (c : Core) (ld st cp tl : BitVec 3) : Bool :=
  atMost ld (loadIds c).length && atMost st (storeIds c).length && atMost cp (copyIds c).length && atMost tl (tileIds c).length

/-- WAITC (R341). -/
def execWaitc (g : Guard) (d c : Reg) (e : Bool) (ld st cp tl : BitVec 3) (s : State) : Out :=
  .next (guardedW g s (fun s =>
    let s := if waits s then s else startWait s (dlOf s c) e d (.waitc ld st cp tl)
    awaiting s d (waitcCond (me s) ld st cp tl) 1 id (fun s => done s d 0)))

/-! ## Count queues and loops from them (R275, R296, R308, R309) -/

/-- Count queue k. -/
def kqOf (c : Core) (k : BitVec 3) : List (Option W32) := c.sync.kq.get k.toFin

/-- Replace count queue k. -/
def setKq (c : Core) (k : BitVec 3) (q : List (Option W32)) : Core := { c with sync := { c.sync with kq := c.sync.kq.set k.toFin q } }

/-- Pop the oldest entry of count queue k, a DEVICE-scope acquire (R275, R355). -/
def popKq (s : State) (k : BitVec 3) : W32 × State :=
  match kqOf (me s) k with
  | [] => (0, s)
  | x :: r => (x.getD 0, l1Clear (onMe s (fun c => setKq c k r)))

/-- The oldest entry of count queue k is poisoned (R406). -/
def kqPoison (c : Core) (k : BitVec 3) : Bool := (kqOf c k).head? == some none

/-- The wait of a LOOPQ; an expiry opens the loop with count 0 and sets STATUS.LQTO (R296). -/
def loopqStep (s : State) (k lv : BitVec 3) (len : BitVec 16) : State :=
  let go (s : State) (n : W64) : State := openLoop (onMe s (fun c => slog s.ex.val c .control 6 0 n)) (lvl lv) len n
  let late (s : State) : State := onMe s (fun c => { c with csr := { c.csr with lqto := true } })
  match waitOn s (!(kqOf (me s) k).isEmpty) with
  | .ok s => if kqPoison (me s) k then trapControl s (.poison 0) else let (n, s) := popKq s k; go s (zext64 n)
  | .aborted s => go s 0
  | .expired s => go (late s) 0
  | .deadline s => trapControl s .deadline
  | .stay s => s

/-- LOOPQ (R296): a body that does not nest traps ILLEGAL before the pop (R294). -/
def execLoopq (g : Guard) (k : BitVec 3) (lv : BitVec 3) (len : BitVec 16) (s : State) : Out :=
  .next (guardedW g s (fun s =>
    let c := me s
    if !nests c.ctl (lvl lv) (c.ctl.pc + 8 * zext64 len) then trapControl s (.illegal (curWord s))
    else loopqStep (if waits s then s else startWait s c.csr.dlmax.toNat false 0 (.loopq k lv len)) k lv len))

/-- LOOPQ_EXPIRY: the deadline of a waiting LOOPQ has passed (R296). -/
def execLoopqExpiry (s : State) : Out :=
  .next (asTickEnds s (fun s =>
    match (me s).cwait with
    | some w => (match w.kind with | .loopq k lv len => if controlRuns (me s) then loopqStep s k lv len else s | _ => s)
    | none => s))

/-- The word at index i of the segment is its engine's END word (R308). -/
def isEndWord (s : State) (sq : Seq) (i : Nat) : Bool :=
  match ememWord (me s) (engOf (me s) sq).seg i with
  | none => false
  | some w => (match decodeEngine sq w with
      | .ok .vend => true
      | .ok .mend => true
      | .ok .xend => true
      | _ => false)

/-- A loop word's body holds the END word, or would end after the other level's body that holds it (R308). -/
def eLoopBad (s : State) (sq : Seq) (lev len : Nat) : Bool :=
  let e := engOf (me s) sq
  let o := getELoop e (1 - lev)
  (List.range len).any (fun i => isEndWord s sq (e.widx + 1 + i)) ||
  (o.act && decide (o.start ≤ e.widx) && decide (e.widx ≤ o.last) && decide (o.last < e.widx + len))

/-- Open a level with a trip count after the loop word's slot, or skip its body (R308). -/
def eLoopOpen (s : State) (sq : Seq) (lev len trips : Nat) : State :=
  let e := engOf (me s) sq
  if trips = 0 then onEng (slotOn s sq) sq (fun e => { e with widx := e.widx + 1 + len, rep := 0 })
  else
    onEng (slotOn s sq) sq (fun x =>
      setELoop { x with widx := e.widx + 1, rep := 0, loopSeq := x.loopSeq + 1 } lev
        { count := trips, start := e.widx + 1, len := len, act := true, order := x.loopSeq + 1 })

/-- VLOOP and XLOOP (R308). -/
def eLoopWord (sq : Seq) (lev : BitVec 1) (len trips : BitVec 12) (s : State) : State :=
  if eLoopBad s sq lev.toNat len.toNat then engTrap s sq (.illegal (curEng s sq)) else eLoopOpen s sq lev.toNat len.toNat trips.toNat

/-- VLOOP (R308). -/
def execVloop (lev : BitVec 1) (len trips : BitVec 12) (s : State) : Out := .next (eLoopWord .vector lev len trips s)
/-- XLOOP (R308). -/
def execXloop (lev : BitVec 1) (len trips : BitVec 12) (s : State) : Out := .next (eLoopWord .copy lev len trips s)

/-- VLOOPQ and XLOOPQ: the trip count popped, or 0 on expiry with VQ or XQ of ESTAT (R309, R313). -/
def eLoopqWord (sq : Seq) (lev : BitVec 1) (k : BitVec 3) (len : BitVec 12) (s : State) : State :=
  let go (s : State) (n : Nat) : State :=
    eLoopOpen (onMe s (fun c => slog s.ex.val c sq 6 0 (BitVec.ofNat 64 n))) sq lev.toNat len.toNat n
  let late (s : State) : State := onMe s (fun c => setEstat c (if sq = .vector then 43 else 44))
  if eLoopBad s sq lev.toNat len.toNat then engTrap s sq (.illegal (curEng s sq))
  else
    match engWait s sq true (!(kqOf (me s) k).isEmpty) with
    | .go s => if kqPoison (me s) k then engTrap s sq (.poison 0) else let (n, s) := popKq s k; go s n.toNat
    | .stay s => s
    | .aborted s => go s 0
    | .expired s => go (late s) 0
    | .trap s => trapEngine (late s) sq .deadline

/-- VLOOPQ (R309). -/
def execVloopq (lev : BitVec 1) (k : BitVec 3) (len : BitVec 12) (s : State) : Out := .next (eLoopqWord .vector lev k len s)
/-- XLOOPQ (R309). -/
def execXloopq (lev : BitVec 1) (k : BitVec 3) (len : BitVec 12) (s : State) : Out := .next (eLoopqWord .copy lev k len s)

/-- QUEUE_LOOP_EXPIRY: the deadline of a VLOOPQ or XLOOPQ has passed (R309). Choice: sq. -/
def execQueueLoopExpiry (s : State) : Out :=
  .next (asTickEnds s (fun s =>
    let sq := s.choice.sq
    if engWaits s sq then
      (match curInstr s sq with
       | some (.vloopq lev k len) => eLoopqWord .vector lev k len s
       | some (.xloopq lev k len) => eLoopqWord .copy lev k len s
       | _ => s)
    else s))

end Sys2Proof.Machine
end

