-- ==== Sys2Proof/Machine/Barrier.lean ====
section
/-! DEFINITION. Barriers (spec/15_sync.md R333 to R335), wait queues on memory words (R337), message queues (R338, R339). -/

namespace Sys2Proof.Machine

/-! ## Releases of the control sequencer (R352, R353) -/

/-- Every write that a release of the control sequencer covers has been performed at its scope: those issued before number id. -/
def relReady (s : State) (scope : BitVec 3) (id : Nat) : Bool :=
  !(me s).reqs.any (fun e => decide (e.id < id) && drains { scope := scope } e) && (scope != 4 || acksDone s s.ex.val id)

/-- Act as a release: the word stays until its earlier writes have been performed. -/
def releasing (s : State) (scope : BitVec 3) (f : State → State) : State :=
  let id := (me s).relAt.getD s.nextId
  let s := onMe (relSend s scope) (fun c => { c with relAt := some id })
  if relReady s scope id then f s else s

/-- An acquire at a scope: CLUSTER or wider drops the L1 (R353). -/
def acquireAt (s : State) (scope : BitVec 3) : State := if scope = 0 then s else l1Clear s

/-! ## Barriers -/

/-- The unit of a scope that an executor belongs to; a Root executor's CLUSTER and DIE unit is its root controller (R7, R333). -/
def unitOf (ex : Nat) (scope : BitVec 3) : Nat :=
  if scope = 0 then ex
  else if scope = 3 then 0
  else if ex < 256 then (if scope = 1 then ex / 8 else ex / 64)
  else 64 + (ex - 256) / 4

/-- The key of a barrier of the executor's launch. -/
def barKey (s : State) (bar : Nat) : Nat := (me s).run.inst.launch * 1024 + bar

/-- The key of the object of a barrier for an executor. -/
def objKey (key : Nat) (scope : BitVec 3) (ex : Nat) : Nat := (key * 4 + scope.toNat) * 512 + unitOf ex scope

/-- The configuration of a barrier. -/
def barCfgOf (s : State) (bar : Nat) : Option BarCfg := tblGet none s.barCfg (barKey s bar)

/-- The calling context's object. -/
def barObj (s : State) (bar : Nat) (cfg : BarCfg) : BarObj := tblGet {} s.barObj (objKey (barKey s bar) cfg.scope s.ex.val)

/-- Replace that object. -/
def setBarObj (s : State) (bar : Nat) (cfg : BarCfg) (o : BarObj) : State :=
  { s with barObj := tblSet {} s.barObj (objKey (barKey s bar) cfg.scope s.ex.val) o }

/-- ARR and PH of the calling context. -/
def barLoc (s : State) (bar : Nat) : BarLoc := tblGet {} (me s).sync.bars bar

/-- Replace ARR and PH. -/
def setBarLoc (s : State) (bar : Nat) (l : BarLoc) : State :=
  onMe s (fun c => { c with sync := { c.sync with bars := tblSet {} c.sync.bars bar l } })

/-- The unit of a scope whose object counts an executor's arrival, as one number; a CORE or DEVICE one has no place to keep (R417). -/
def countingUnit (scope : BitVec 3) (ex : Nat) : Nat := if scope = 1 ∨ scope = 2 then scope.toNat * 512 + unitOf ex scope else 0

/-- Arrive: none where the context has already arrived; the last arrival completes the phase, and the context keeps which unit counted it (R333,
R335, R417). -/
def arrive (s : State) (bar : Nat) (cfg : BarCfg) : Option State :=
  let o := barObj s bar cfg
  let l := barLoc s bar
  if l.arr && l.ph == o.parity then none
  else
    let s := setBarLoc s bar { arr := true, unit := countingUnit cfg.scope s.ex.val, ph := o.parity }
    some (setBarObj s bar cfg (if cfg.count ≤ o.count + 1 then { count := 0, parity := !o.parity } else { o with count := o.count + 1 }))

/-- Done: the arrival's phase has completed. -/
def barDone (s : State) (bar : Nat) : Bool :=
  match barCfgOf s bar with
  | none => false
  | some cfg => (barLoc s bar).arr && (barLoc s bar).ph != (barObj s bar cfg).parity

/-- The scope of a barrier, CORE where it has no configuration. -/
def barScope (s : State) (bar : Nat) : BitVec 3 := match barCfgOf s bar with | none => 0 | some cfg => cfg.scope

/-- Observe a completed phase: ARR ← 0, an acquire at the barrier's scope. -/
def observe (s : State) (d : Reg) (bar : Nat) : State :=
  done (acquireAt (setBarLoc s bar { barLoc s bar with arr := false }) (barScope s bar)) d 0

/-- Withdraw an arrival: one that has completed is in no count any more (R335). -/
def withdraw (s : State) (bar : Nat) : State :=
  if barDone s bar then setBarLoc s bar { barLoc s bar with arr := false }
  else match barCfgOf s bar with
  | none => setBarLoc s bar { barLoc s bar with arr := false }
  | some cfg =>
      let o := barObj s bar cfg
      setBarLoc (setBarObj s bar cfg { o with count := o.count - 1 }) bar { barLoc s bar with arr := false }

/-- BARR (R335). -/
def execBarr (g : Guard) (d : Reg) (bar : BitVec 10) (s : State) : Out :=
  .next (guarded g s (fun s =>
    match barCfgOf s bar.toNat with
    | none => done s d 7
    | some cfg => releasing s cfg.scope (fun s =>
        match arrive s bar.toNat cfg with
        | none => done s d 7
        | some s => done s d 0)))

/-- BWAIT (R335). -/
def execBwait (g : Guard) (d c : Reg) (e : Bool) (bar : BitVec 10) (s : State) : Out :=
  .next (guardedW g s (fun s =>
    if !waits s && !(barLoc s bar.toNat).arr then done s d 8
    else
      let s := if waits s then s else startWait s (dlOf s c) e d (.bwait bar.toNat)
      awaiting s d (barDone s bar.toNat) 1 id (fun s => observe s d bar.toNat)))

/-- The wait of a BSYNC that has arrived: an expiry or an abort withdraws the arrival. -/
def bsyncStep (s : State) (d : Reg) (bar : Nat) : State :=
  awaiting s d (barDone s bar) 2 (fun s => withdraw s bar) (fun s => observe s d bar)

/-- BSYNC (R335). -/
def execBsync (g : Guard) (d c : Reg) (e : Bool) (bar : BitVec 10) (s : State) : Out :=
  .next (guardedW g s (fun s =>
    if waits s then bsyncStep s d bar.toNat
    else
      match barCfgOf s bar.toNat with
      | none => done s d 7
      | some cfg => releasing s cfg.scope (fun s =>
          match arrive s bar.toNat cfg with
          | none => done s d 7
          | some s => bsyncStep (startWait s (dlOf s c) e d (.bsync bar.toNat)) d bar.toNat)))

/-- BWDR (R335). -/
def execBwdr (g : Guard) (d : Reg) (bar : BitVec 10) (s : State) : Out :=
  .next (guarded g s (fun s =>
    match barCfgOf s bar.toNat with
    | none => done s d 8
    | some cfg =>
        let l := barLoc s bar.toNat
        if l.arr && l.ph == (barObj s bar.toNat cfg).parity then done (withdraw s bar.toNat) d 0 else done s d 8))

/-- Some object of a barrier has arrivals. -/
def barBusy (s : State) (key : Nat) : Bool :=
  s.barObj.any (fun e => decide (e.1 / 512 / 4 = key) && decide (0 < e.2.count))

/-- BCFG (R334). -/
def execBcfg (g : Guard) (d b : Reg) (bar : BitVec 10) (s : State) : Out :=
  .next (guarded g s (fun s =>
    let w := rd s b
    let scope := bits w 18 16
    let count := bits w 8 0
    let key := barKey s bar.toNat
    if bits w 63 19 ≠ 0 ∨ bits w 15 9 ≠ 0 ∨ 3 < scope ∨ 288 < count then trapControl s (.illegal (curWord s))
    else
      let new : Option BarCfg := if count = 0 then none else some { scope := BitVec.ofNat 3 scope, count := count }
      let old := tblGet none s.barCfg key
      if old.isSome && barBusy s key then done s d (if new = old then 0 else 7)
      else done { s with barCfg := tblSet none s.barCfg key new } d 0))

/-! ## Wait queues on memory words (R337) -/

/-- The checks of WAITQ, WAKE, QSEND and QRECV, in order, with both rights of the page (R337). -/
def queueAddr (s : State) (va : W64) (align : Nat) : Except Trap Xl × State :=
  if va.toNat % align ≠ 0 then (.error (.misalign va), s)
  else if inWindow (me s) va then (.error (.protect va), s)
  else
    match translate s va .atomic .control with
    | (.error t, s) => (.error t, s)
    | (.ok x, s1) => (match translate s va .read .control with | (.error t, _) => (.error t, s) | (.ok _, _) => (.ok x, s1))

/-- The size of a WAITQ or WAKE word in bytes. -/
def wqBytes (sz : Bool) : Nat := if sz then 8 else 4

/-- A sequencer is linked at a place of a queue. -/
def linked (t : Tbl (List (Nat × Nat))) (k place : Nat) : Bool := (tblGet [] t k).any (fun e => e.2 == place)

/-- Link an executor at the tail of a queue. -/
def link_ (t : Tbl (List (Nat × Nat))) (k ex place : Nat) : Tbl (List (Nat × Nat)) := tblSet [] t k (tblGet [] t k ++ [(ex, place)])

/-- The wait of a linked WAITQ. -/
def waitqStep (s : State) (d : Reg) (pa place : Nat) (scope : BitVec 3) : State :=
  awaiting s d (!linked s.wq pa place) 1 (fun s => { s with wq := unlink s.wq pa place }) (fun s => done (acquireAt s scope) d 0)

/-- WAITQ (R337): the compare and the link are one service event, after the sequencer's earlier writes to the word (R351). -/
def execWaitq (g : Guard) (d a b c : Reg) (e : Bool) (off : BitVec 12) (sz : Bool) (scope : BitVec 3) (s : State) : Out :=
  .next (guardedW g s (fun s =>
    match (me s).cwait with
    | some w => (match w.kind with | .waitq pa place sc => waitqStep s d pa place sc | _ => s)
    | none =>
        let va := ea s a off
        let n := wqBytes sz
        match queueAddr s va n with
        | (.error t, s) => trapControl s t
        | (.ok x, s) =>
            if ownPending s .control { pa := x.pa, kind := .store (zeros n) } then wcFlushSq s .control
            else
              let s := traceData (l1Refresh { s with ms := sliceTouch s.ms x.pa n } x.pa) 3 va
              if slicePoison s.ms x.pa n then trapControl s (.poison va)
              else if leNat (sliceRead s.ms x.pa n) ≠ (rd s b).toNat % 2 ^ (8 * n) then done s d 0
              else
                let (place, s) := fresh s
                let k := pa50 x.pa
                waitqStep (startWait { s with wq := link_ s.wq k s.ex.val place } (dlOf s c) e d (.waitq k place scope)) d k place scope))

/-- WAKE (R337): unlink and wake the first waiters; a release at SCOPE. -/
def execWake (g : Guard) (d a b : Reg) (off : BitVec 12) (sz : Bool) (scope : BitVec 3) (s : State) : Out :=
  .next (guarded g s (fun s =>
    let va := ea s a off
    match queueAddr s va (wqBytes sz) with
    | (.error t, s) => trapControl s t
    | (.ok x, s) => releasing s scope (fun s =>
        let k := pa50 x.pa
        let q := tblGet [] s.wq k
        let n := min (bits (rd s b) 31 0) q.length
        retire (wr { s with wq := tblSet [] s.wq k (q.drop n) } d (BitVec.ofNat 64 n)))))

/-! ## Message queues (R338, R339) -/

/-- CAP, HEAD and TAIL of a header. -/
def qCap (h : List Byte) : Nat := field h 0 4
def qHead (h : List Byte) : W64 := field64 h 8 8
def qTail (h : List Byte) : W64 := field64 h 16 8

/-- A header that breaks the limits of R338. -/
def qMalformed (pa : Nat) (h : List Byte) : Bool :=
  field h 4 4 != 0 || !allZero (h.drop 24) || decide (4096 < qCap h) || !((List.range 13).any (fun i => qCap h == 2 ^ i)) ||
  decide (65536 < pa % 65536 + 64 + 8 * qCap h)

/-- The header at a physical address. -/
def qHeader (s : State) (pa : Nat) : List Byte := sliceRead s.ms pa 64

/-- The physical address of the slot of message number i. -/
def qSlot (pa : Nat) (h : List Byte) (i : W64) : Nat := pa + 64 + 8 * (i.toNat % qCap h)

/-- Write 8 bytes at the slice and drop the core's L1 copy. -/
def qWrite (s : State) (pa : Nat) (v : W64) : State := l1Drop { s with ms := sliceWrite s.ms pa (leBytes 8 v.toNat) } pa

/-- A place is the oldest of a list. -/
def oldest (q : List (Nat × Nat)) (place : Nat) : Bool := match q with | [] => false | e :: _ => e.2 == place

/-- The wait of a QSEND; POISON where the header has become poisoned by the time it is read. -/
def qsendStep (s : State) (d : Reg) (pa : Nat) (va : W64) (msg : W64) (place : Nat) : State :=
  let h := qHeader s pa
  let leave (s : State) : State := { s with sendq := unlink s.sendq (pa50 pa) place }
  if oldest (tblGet [] s.sendq (pa50 pa)) place && slicePoison s.ms pa 64 then trapControl (leave s) (.poison va)
  else awaiting s d (oldest (tblGet [] s.sendq (pa50 pa)) place && decide ((qTail h - qHead h).toNat < qCap h)) 1 leave (fun s =>
    done (qWrite (qWrite (leave s) (qSlot pa h (qTail h)) msg) (pa + 16) (qTail h + 1)) d 0)

/-- QSEND (R339): a release at SCOPE. -/
def execQsend (g : Guard) (d a b c : Reg) (e : Bool) (off : BitVec 12) (scope : BitVec 3) (s : State) : Out :=
  .next (guardedW g s (fun s =>
    match (me s).cwait with
    | some w => (match w.kind with | .qsend pa msg place _ => qsendStep s d pa (ea s a off) msg place | _ => s)
    | none =>
        let va := ea s a off
        match queueAddr s va 64 with
        | (.error t, s) => trapControl s t
        | (.ok x, s) => releasing s scope (fun s =>
            let s := traceData (l1Refresh { s with ms := sliceTouch s.ms x.pa 64 } x.pa) 4 va
            let h := qHeader s x.pa
            if slicePoison s.ms x.pa 64 then trapControl s (.poison va)
            else if qMalformed x.pa h || qCap h == 0 then done s d 7
            else
              let (place, s) := fresh s
              let s := { s with sendq := link_ s.sendq (pa50 x.pa) s.ex.val place }
              qsendStep (startWait s (dlOf s c) e d (.qsend x.pa (rd s b) place scope)) d x.pa va (rd s b) place)))

/-- The wait of a QRECV: the message to `dst`, the status to `st`; POISON on a poisoned slot, and on a header that has become poisoned by the time it
is read (R405). -/
def qrecvStep (s : State) (dst st : Reg) (pa : Nat) (va : W64) (place : Nat) (scope : BitVec 3) : State :=
  let h := qHeader s pa
  let at_ := qSlot pa h (qHead h)
  let leave (s : State) : State := { s with recvq := unlink s.recvq (pa50 pa) place }
  if oldest (tblGet [] s.recvq (pa50 pa)) place && slicePoison s.ms pa 64 then trapControl (leave s) (.poison va)
  else awaiting s st (oldest (tblGet [] s.recvq (pa50 pa)) place && (qHead h).ult (qTail h)) 1 leave (fun s =>
    let s := { leave s with ms := sliceTouch s.ms at_ 8 }
    if slicePoison s.ms at_ 8 then trapControl s (.poison (va + BitVec.ofNat 64 (at_ - pa)))
    else
      let s := wr s dst (BitVec.ofNat 64 (leNat (sliceRead s.ms at_ 8)))
      done (acquireAt (qWrite s (pa + 8) (qHead h + 1)) scope) st 0)

/-- QRECV (R339): status to s[B], message to s[D]. -/
def execQrecv (g : Guard) (d a b c : Reg) (e : Bool) (off : BitVec 12) (scope : BitVec 3) (s : State) : Out :=
  .next (guardedW g s (fun s =>
    match (me s).cwait with
    | some w => (match w.kind with | .qrecv pa va dst place sc => qrecvStep s dst b pa va place sc | _ => s)
    | none =>
        let va := ea s a off
        match queueAddr s va 64 with
        | (.error t, s) => trapControl s t
        | (.ok x, s) =>
            if ownPending s .control { pa := x.pa, kind := .store (zeros 64) } then wcFlushSq s .control
            else
              let s := traceData (l1Refresh { s with ms := sliceTouch s.ms x.pa 64 } x.pa) 3 va
              let h := qHeader s x.pa
              if slicePoison s.ms x.pa 64 then trapControl s (.poison va)
              else if qMalformed x.pa h || qCap h == 0 then done s b 7
              else
                let (place, s) := fresh s
                let s := { s with recvq := link_ s.recvq (pa50 x.pa) s.ex.val place }
                qrecvStep (startWait s (dlOf s c) e b (.qrecv x.pa va d place scope)) d b x.pa va place scope))

end Sys2Proof.Machine
end

