-- ==== Sys2Proof/Machine/Tiers.lean ====
section
/-! DEFINITION. Tensor homes and moves (spec/05_tiers.md R95 to R108): the reservation of destination pages, TLIFT, TDROP and THOME (R113,
R114), the order of the move queue and its claims, the halving of DEMAND. -/

namespace Sys2Proof.Machine

/-- Replace the entry of a handle. -/
def setTht (s : State) (h : W32) (t : Tht) : State := { s with tht := tblSet none s.tht h.toNat (some t) }

/-- The owning context of a number. -/
def ctxAt (s : State) (n : Nat) : Option Ctxt := tblGet none s.ctxs n

/-- The registered entries of the Tensor Home Table, with their handles. -/
def thtList (s : State) : List (Nat × Tht) := s.tht.filterMap (fun e => e.2.map (fun t => (e.1, t)))

/-! ## Reservation (R99, R153, R383) -/

/-- The 8-byte words of a physical page of which memory or a cache way holds a byte. -/
def pageWords (m : MemSys) (p : Nat) : List Nat :=
  ((m.mem.filter (fun (e : Nat × Byte) => e.1 / 65536 == p)).map (fun (e : Nat × Byte) => e.1 / 8 * 8) ++
    (keysIn m (p * 512) 512).flatMap (fun (k : Nat) => (List.range 16).map (fun i => pa50 (k * 128) + 8 * i))).eraseDups

/-- The page tables from a table's page down, through as many levels as are given (R146, R147). -/
def tablesAt (m : MemSys) : Nat → Nat → List Nat
  | 0, _ => []
  | n + 1, p =>
      p :: (if n = 0 then [] else (pageWords m p).flatMap (fun a =>
        let e := BitVec.ofNat 64 (leNat (sliceRead m a 8))
        if bit e 0 && !pteLeaf e then tablesAt m n (bits e 50 16) else []))

/-- Physical pages in use: those of tensors, of published images (R91) and of the page tables of live contexts. -/
def usedPages (s : State) : List Nat :=
  (thtList s).flatMap (fun e => e.2.oldp ++ e.2.newp) ++
  s.images.flatMap (fun (e : Nat × Option Image) => match e.2 with | some i => i.phys | none => []) ++
  s.ctxs.flatMap (fun (e : Nat × Option Ctxt) => match e.2 with | some x => tablesAt s.ms 3 (bits x.ptroot 50 16) | none => [])

/-- A physical page lies in a retired channel, whose pages are withheld (R19, R407). -/
def pageRetired (s : State) (p : Nat) : Bool :=
  s.dev.retired.any (fun u => match u with
    | .channel k c => paRange (p * 65536) == .hbm k && Config.channelOf p == c
    | _ => false)

/-- A request that resolved to a physical page is still on its way to it. -/
def pageOut (s : State) (page : Nat) : Bool :=
  (List.range 288).any (fun i => (coreAt s i).reqs.any (fun r => r.spad.isNone && pa50 r.pa / 65536 == page))

/-- A physical page may not be given to a tensor or an image: it is in use, withheld, or requests to its last use are still on their way. -/
def pageUsed (s : State) (p : Nat) : Bool := (usedPages s).contains p || pageRetired s p || pageOut s p

/-- A physical page lies at a tier; a Leaf page of a tensor with a stack lies on it. -/
def pageAt (tier : Nat) (stack : Option Nat) (p : Nat) : Bool :=
  match tier, paRange (p * 65536) with
  | 0, .root => true
  | 1, .stalk => true
  | 2, .hbm n => (match stack with | none => true | some k => n == k)
  | 3, .bud _ => true
  | _, _ => false

/-- The staging slice of a physical page. -/
def sliceOfPage (p : Nat) : Nat := (p * 65536 - 0x080000000000) / 0x1000000

/-- Staging pages of a context in one slice that its tensors hold. -/
def budHeld (s : State) (ctx slice : Nat) : Nat :=
  (((thtList s).filter (fun e => e.2.ctx == ctx)).flatMap (fun e => e.2.oldp ++ e.2.newp)
    |>.filter (fun p => pageAt 3 none p && sliceOfPage p == slice)).length

/-- The slices after position i of a round, wrapping. -/
def roundFrom (l : List Nat) (i : Nat) : List Nat := l.drop i ++ l.take i

/-- The slices that n pages take: the next slice of the round with a page left, each in turn (R99). `left` gives the pages left. -/
def budTake : Nat → List (Nat × Nat) → Option (List Nat)
  | 0, _ => some []
  | n + 1, round =>
      match round.findIdx? (fun e => decide (0 < e.2)) with
      | none => none
      | some i =>
          match round[i]? with
          | none => none
          | some e => (budTake n (round.drop (i + 1) ++ round.take i ++ [(e.1, e.2 - 1)])).map (fun r => e.1 :: r)

/-- The slices of a Bud reservation of n pages of a context, in page order. -/
def budSlices (s : State) (ctx n : Nat) : Option (List Nat) :=
  match ctxAt s ctx with
  | none => none
  | some x =>
      let sl := shareOf s x
      let start := match x.bud with | none => 0 | some b => (sl.findIdx? (fun k => decide (b ≤ k))).getD 0
      budTake n ((roundFrom sl start).map (fun k => (k, x.share * 8 - budHeld s ctx k)))

/-- The slice after the last page's, where the context's next Bud reservation starts. -/
def budNext (s : State) (ctx : Nat) (pages : List Nat) (tier : Nat) : State :=
  match tier, pages.getLast?, ctxAt s ctx with
  | 3, some p, some x => { s with ctxs := tblSet none s.ctxs ctx (some { x with bud := some (sliceOfPage p + 1) }) }
  | _, _, _ => s

/-- A list of physical pages reserves n pages at a tier for a context (R99, R135): free, distinct, at the tier, and at Bud in the round's
slices; a STEM tensor has no pages outside Leaf (R136). A context's pool outside Bud is every such page of the tier (DESIGN CHOICE, log 20). -/
def reserves (s : State) (ctx n tier enc : Nat) (stack : Option Nat) (pages : List Nat) : Bool :=
  pages.length == n && decide pages.Nodup && pages.all (fun p => decide (p < 2 ^ 35) && pageAt tier stack p && !pageUsed s p) &&
  (enc != 2 || tier == 2) && (tier != 3 || budSlices s ctx n == some (pages.map sliceOfPage))

/-- n pages that are not in use, counted down from page p to page lo. -/
def freeDown (s : State) (lo : Nat) : Nat → Nat → Nat → Option (List Nat)
  | _, 0, _ => some []
  | 0, _, _ => none
  | f + 1, n + 1, p =>
      if p < lo then none
      else if pageUsed s p then freeDown s lo f (n + 1) (p - 1)
      else (freeDown s lo f n (p - 1)).map (fun r => p :: r)

/-- One page in each of a list of slices, the lowest that is not in use and that no earlier one of these takes. -/
def freeInSlices (s : State) : List Nat → List Nat → Option (List Nat)
  | [], _ => some []
  | k :: r, taken =>
      match ((List.range 256).map (fun i => (0x080000000000 + k * 0x1000000) / 65536 + i)).find? (fun p => !pageUsed s p && !taken.contains p) with
      | none => none
      | some p => (freeInSlices s r (p :: taken)).map (fun l => p :: l)

/-- Free pages of a tier: the highest ones, or at Bud the lowest of each slice of the round (DESIGN CHOICE, log 20). -/
def freePages (s : State) (ctx n tier : Nat) (stack : Option Nat) : Option (List Nat) :=
  let down (lo hi : Nat) : Option (List Nat) := freeDown s (lo / 65536) (hi / 65536 + 1 - lo / 65536) n (hi / 65536)
  match tier with
  | 0 => down 0x400000000000 0x7FFFFFFFFFFF
  | 1 => down 0x040000000000 0x07FFFFFFFFFF
  | 2 => (match stack with | none => down 0 0x008FFFFFFFFF | some k => down (k * 0xC00000000) ((k + 1) * 0xC00000000 - 1))
  | _ => (match budSlices s ctx n with | none => none | some sl => freeInSlices s sl [])

/-- The pages of a reservation: those that the turn names where they reserve, else free ones; none where the reservation fails (R99; DESIGN CHOICE, log 20). -/
def reserved (s : State) (ctx n tier enc : Nat) (stack : Option Nat) (named : List Nat) : Option (List Nat) :=
  if reserves s ctx n tier enc stack named then some named
  else
    match freePages s ctx n tier stack with
    | none => none
    | some l => if reserves s ctx n tier enc stack l then some l else none

/-- A tier is present on the part (R2). -/
def tierPresent (s : State) (tier : Nat) : Bool := tier != 0 || s.dev.rootTier

/-! ## TLIFT, TDROP, THOME (R113, R114) -/

/-- The status of a TLIFT or TDROP, and the entry after it; `pages` are the destination pages that the turn names. Acceptances are numbered one after
another, so that no two have one time and the handles never decide (R100; DESIGN CHOICE, log 90). -/
def moveDecide (s : State) (t : Tht) (tgt prio : Nat) (lift : Bool) (pages : List Nat) : Nat × Tht :=
  if !tierPresent s tgt then (7, t)
  else if t.ms ≠ 0 then (if t.new = tgt then (0, { t with mprio := max t.mprio prio }) else (7, t))
  else if tgt = t.old then (0, t)
  else if lift ≠ decide (t.old < tgt) then (7, t)
  else
    match reserved s t.ctx t.npages tgt t.enc t.stack pages with
    | none => (7, t)
    | some l => (0, { t with new := tgt, f := 0, ms := 1, mprio := prio, newp := l, at_ := s.nextId, claim := .none })

/-- DEMAND + 1, saturating (R97). -/
def demandUp (t : Tht) : Tht := { t with demand := min 0xFFFF (t.demand + 1) }

/-- TLIFT and TDROP: the Graph Unit decides; its reply brings the status (R113, R472). Choice: list, the pages to reserve. -/
def moveWord (g : Guard) (d a b : Reg) (x : BitVec 4) (lift : Bool) (s : State) : State :=
  guarded g s (fun s =>
    let h := (rd s a).setWidth 32
    match ownTht s (ctxOf s) h with
    | none => trapControl s (.protect 0)
    | some t =>
        if 3 < (rd s b).toNat then trapControl s (.illegal (curWord s))
        else
          let before := (me s).ctl
          let r := moveDecide s t (rd s b).toNat x.toNat lift s.choice.list
          let s := if t.ms = 0 ∧ r.2.ms = 1 then budNext s t.ctx r.2.newp r.2.new else s
          let s := { s with nextId := s.nextId + 1 }
          let s := setTht s h (if lift then demandUp r.2 else r.2)
          await s before d 0 (.value (BitVec.ofNat 64 r.1) false))

/-- TLIFT (R113). -/
def execTlift (g : Guard) (d a b : Reg) (x : BitVec 4) (s : State) : Out := .next (moveWord g d a b x true s)
/-- TDROP (R113). -/
def execTdrop (g : Guard) (d a b : Reg) (x : BitVec 4) (s : State) : Out := .next (moveWord g d a b x false s)

/-- THOME's result (R114). -/
def homeWord (t : Tht) : W64 :=
  BitVec.ofNat 64 (t.f % 2 ^ 26 * 2 ^ 38 + t.old % 4 * 64 + t.new % 4 * 16 + t.ms % 4 * 4)

/-- THOME (R114). -/
def execThome (g : Guard) (d a : Reg) (s : State) : Out :=
  .next (guarded g s (fun s =>
    match ownTht s (ctxOf s) ((rd s a).setWidth 32) with
    | none => trapControl s (.protect 0)
    | some t => await s (me s).ctl d 0 (.value (homeWord t) false)))

/-! ## The move queue and its claims (R100) -/

/-- Move (h, t) is served before move (h', t'). -/
def moveBefore (x y : Nat × Tht) : Bool :=
  let (h, t) := x
  let (h', t') := y
  if t.mprio ≠ t'.mprio then decide (t'.mprio < t.mprio)
  else if t.demand ≠ t'.demand then decide (t'.demand < t.demand)
  else if t.at_ ≠ t'.at_ then decide (t.at_ < t'.at_)
  else decide (h < h')

/-- The first of a list of moves in the queue's order. -/
def firstMove : List (Nat × Tht) → Option (Nat × Tht)
  | [] => none
  | x :: r => (match firstMove r with | none => some x | some y => some (if moveBefore x y then x else y))

/-- A running command of an attention decode engine names the tensor: no engine claims its move (R141). -/
def adeNames (s : State) (h : Nat) : Bool :=
  s.ades.any (fun (e : Nat × Option Ade) => match e.2 with | some a => field a.cmd 8 4 == h || field a.cmd 12 4 == h | none => false)

/-- Moves that no engine has claimed and one may claim. -/
def unclaimed (s : State) : List (Nat × Tht) := (thtList s).filter (fun e => e.2.ms != 0 && e.2.claim == .none && !adeNames s e.1)

/-- Moves in service at the tier copy engine of a die; `all` counts passed claims too. -/
def served (s : State) (die : Nat) (all : Bool) : Nat :=
  ((thtList s).filter (fun e => match e.2.claim with | .tce d p => d == die && (all || !p) | _ => false)).length

/-- The Graph Unit serves launches and moves: its firmware has been verified, the compute dies have power, and no suspend is entering or in force
(R107, R454, R456, R457, R460). -/
def movesRun (s : State) : Bool :=
  s.dev.sec.fwOk && !s.dev.power.off &&
  (match s.dev.sus.st with
   | .none => true
   | .ordered _ _ => true
   | .restoring => true
   | _ => false)

/-- The host ring and the doorbells are served: after a suspend, last (R457). -/
def hostServed (s : State) : Bool := movesRun s && s.dev.sus.st != .restoring

/-- The compute dies have power: no trip, and no suspend in force or resuming (R454, R456). -/
def awake (s : State) : Bool :=
  !s.dev.power.off &&
  (match s.dev.sus.st with
   | .suspended => false
   | .resuming => false
   | _ => true)

/-- MOVE_CLAIM: the engine of the lowest-numbered die with room takes the first unclaimed move, whose page F is then in flight (R100, R101). -/
def execMoveClaim (s : State) : Out :=
  .next (
    match (List.range 4).find? (fun d => decide (served s d false < 4)), firstMove (unclaimed s) with
    | some d, some (h, t) =>
        if movesRun s then setTht s (BitVec.ofNat 32 h) { t with ms := 2, claim := .tce d false, flight := true } else s
    | _, _ => s)

/-- The die whose engine has the fewest moves in service, the lowest-numbered on a tie. -/
def passDie (s : State) : Nat :=
  (List.range 4).foldl (fun b d => if served s d true < served s b true then d else b) 0

/-- A claim passes from a copy channel to a tier copy engine, with its page in flight (R100, R107). -/
def passClaim (s : State) (h : W32) : State :=
  match tblGet none s.tht h.toNat with
  | none => s
  | some t => setTht s h { t with claim := .tce (passDie s) true, flight := t.flight || movesRun s }

/-- DEMAND_HALVING: at a 1 ms boundary of the Global Time Counter every DEMAND is halved, rounding down (R97). -/
def execDemandHalving (s : State) : Out :=
  .next (
    if s.dev.halvings < s.gtc.toNat / 1000000 then
      { s with dev := { s.dev with halvings := s.dev.halvings + 1 }
               tht := s.tht.map (fun e => (e.1, e.2.map (fun t => { t with demand := t.demand / 2 }))) }
    else s)

end Sys2Proof.Machine
end

