-- ==== Sys2Proof/Machine/Launch.lean ====
section
/-! DEFINITION. Launches (spec/17_scheduling.md): the launch queue and acceptance (R369 to R371), the ready pool and dispatch (R372 to
R375), boot mailboxes and kernel entry (R378, R379), HALT (spec/14 R304), SPAWN (R381), completion records (R384, R385, R473), gangs (R386,
R387). -/

namespace Sys2Proof.Machine

/-! ## Memory of an owning context, as the Graph Unit and the attention decode engines reach it -/

/-- The page table of a context. -/
def rootOf (s : State) (ctx : Nat) : Nat := bits ((ctxAt s ctx).getD {}).ptroot 50 16 * 65536

/-- Translate an address under a page table and a context's keys. -/
def rootTranslate (s : State) (root key : Nat) (va : W64) (acc : Acc) : Except Trap Xl × State :=
  if !canonical va then (.error (xlFault 1 va .control acc 1), s)
  else
    match walk s.ms va acc .control 3 1 root with
    | .error t => (.error t, s)
    | .ok (e, shift, at_, _) =>
        (.ok { pa := withEnc key (pteEnc e) (leafPa e shift va), ord := pteOrd e, enc := pteEnc e }, { s with ms := markPte s.ms at_ acc })

/-- Translate an address in an owning context's address space. -/
def ctxTranslate (s : State) (ctx : Nat) (va : W64) (acc : Acc) : Except Trap Xl × State := rootTranslate s (rootOf s ctx) (keyOf s ctx) va acc

/-- Read n bytes page by page; none where a page does not translate or a byte is poisoned. -/
def ctxReadN (ctx : Nat) : Nat → State → W64 → Nat → Option (List Byte) × State
  | 0, s, _, _ => (some [], s)
  | f + 1, s, va, n =>
      if n = 0 then (some [], s)
      else
        let k := min n (65536 - va.toNat % 65536)
        match ctxTranslate s ctx va .read with
        | (.error _, s) => (none, s)
        | (.ok x, s) =>
            if slicePoison s.ms x.pa k then (none, s)
            else
              let bs := sliceRead s.ms x.pa k
              match ctxReadN ctx f { s with ms := sliceTouch s.ms x.pa k } (va + BitVec.ofNat 64 k) (n - k) with
              | (none, s) => (none, s)
              | (some r, s) => (some (bs ++ r), s)

/-- Read n bytes of an owning context. -/
def ctxRead (s : State) (ctx : Nat) (va : W64) (n : Nat) : Option (List Byte) × State := ctxReadN ctx (n / 65536 + 2) s va n

/-- Write bytes within one page of an owning context; none where the page does not translate. -/
def ctxWrite (s : State) (ctx : Nat) (va : W64) (bs : List Byte) : Option State :=
  match ctxTranslate s ctx va .write with
  | (.error _, _) => none
  | (.ok x, s) => some { s with ms := sliceWrite s.ms x.pa bs }

/-! ## Kernel entries (R84) -/

def kEntry (k : List Byte) : W64 := field64 k 8 8
def kSeam0 (k : List Byte) : Nat := field k 16 4
def kSeamN (k : List Byte) : Nat := field k 20 4
def kPrio (k : List Byte) : Nat := field k 38 1
def kAffin (k : List Byte) : Nat := field k 39 1
def kLflags (k : List Byte) : Nat := field k 40 2
def kArgsz (k : List Byte) : Nat := field k 48 4
def kGangdl (k : List Byte) : Nat := field k 52 4
def kNinst (k : List Byte) : Nat := field k 56 8
def kCompl (k : List Byte) : W64 := field64 k 64 8

/-- The kernel shares its cluster's L1. -/
def kFuse (k : List Byte) : Bool := kLflags k % 2 == 1
/-- The kernel runs in cluster gangs. -/
def kCluster (k : List Byte) : Bool := kLflags k / 2 % 2 == 1
/-- The kernel runs in a multi-device gang. -/
def kGang (k : List Byte) : Bool := kLflags k / 4 % 2 == 1

/-- A field of a work identifier at level l (R372). -/
def widField (k : List Byte) (wid l : Nat) : Nat :=
  let lo := ((List.range l).map (fun i => field k (32 + i) 1)).sum
  wid / 2 ^ lo % 2 ^ field k (32 + l) 1

/-- The image of a handle that a context owns (R91). -/
def imageOf (s : State) (ctx : Nat) (h : W64) : Option Image :=
  match tblGet none s.images h.toNat with
  | none => none
  | some i => if i.ctx = ctx then some i else none

/-! ## The launch queue (R369, R381) -/

/-- One more refused doorbell of a context (R446). -/
def dropDoorbell (s : State) (c : Nat) : State :=
  { s with dev := { s.dev with lqdrop := tblSet 0 s.dev.lqdrop c (min 0xFFFFFFFF (tblGet 0 s.dev.lqdrop c + 1)) } }

/-- A free launch place. -/
def freePlace (s : State) : Option Nat := (List.range 1024).find? (fun i => (tblGet none s.launches i).isNone)

/-- The next launch generation of a context (R382). -/
def takeGen (s : State) (ctx : Nat) : BitVec 22 × State :=
  match ctxAt s ctx with
  | none => (0, s)
  | some x =>
      let next : BitVec 22 := if x.gen + 1 = 0 then 1 else x.gen + 1
      (x.gen, { s with ctxs := tblSet none s.ctxs ctx (some { x with gen := next }) })

/-- A descriptor joins the launch queue and takes the next launch generation of its context (R369, R382). -/
def pushLaunch (s : State) (ctx : Nat) (va : W64) (spawn : Option Nat) : BitVec 22 × State :=
  let (gen, s) := takeGen s ctx
  (gen, { s with lqueue := s.lqueue ++ [{ ctx := ctx, va := va, gen := gen, spawn := spawn }] })

/-- SPAWN's OK: the launch generation in [53:32] (R381). -/
def spawnOk (gen : BitVec 22) : W64 := BitVec.ofNat 64 (gen.toNat * 2 ^ 32)

/-- LAUNCH_DOORBELL: the host writes a context's doorbell; a suspend refuses it (R369, R446, R456). Choice: n, the context; v, the descriptor's address. -/
def execLaunchDoorbell (s : State) : Out :=
  .next (
    let n := s.choice.n
    if 1024 ≤ n then s
    else if !hostServed s || (ctxAt s n).isNone || decide (256 ≤ s.lqueue.length) then dropDoorbell s n
    else (pushLaunch s n s.choice.v none).2)

/-- SPAWN: after the earlier stores and atomics have been served, the descriptor's address goes to the Graph Unit; a full queue is CLOSED, and
else the reply comes with the acceptance, which says whether the launch is refused (R369, R381; DEDUCED, log 22). -/
def execSpawn (g : Guard) (d a : Reg) (s : State) : Out :=
  .next (guarded g s (fun s =>
    let va := rd s a
    if va.toNat % 64 ≠ 0 then trapControl s (.misalign va)
    else releasing s 3 (fun s =>
      let before := (me s).ctl
      if 256 ≤ s.lqueue.length then await s before d 0 (.value 7 false)
      else await (pushLaunch s (ctxOf s) va (some s.ex.val)).2 before d 0 (.spawn va))))

/-- The Graph Unit's reply to a SPAWN. -/
def spawnReply (s : State) (e : LqEnt) (v : W64) : State :=
  match e.spawn with
  | none => s
  | some ex => onCore s ex (fun c => match c.pend with
      | some p => (match p.kind with | .spawn _ => { c with pend := some { p with kind := .value v false } } | _ => c)
      | none => c)

/-! ## Acceptance (R370, R371) -/

/-- The fields of a launch descriptor lie in their limits, the gang fields apart. -/
def descOk (b : List Byte) : Bool :=
  decide (field b 8 8 % 128 = 0) && decide (1 ≤ field b 16 2) && decide (field b 16 2 ≤ 4096) && decide (field b 24 8 % 32 = 0) &&
  decide (field b 18 2 = 0) && decide (field b 38 2 = 0) && allZero (b.drop 48)

/-- The gang fields of a descriptor agree with its kernels (R369). -/
def gangOk (b : List Byte) (gang : Bool) : Bool :=
  if gang then decide (2 ≤ field b 36 2) && decide (field b 36 2 ≤ 64)
  else decide (field b 32 4 = 0) && decide (field b 36 2 = 0) && decide (field b 40 8 = 0)

/-- The fields of a node descriptor lie in their limits. -/
def nodeOk (b : List Byte) : Bool :=
  decide (field b 0 1 ≤ 2) && decide (field b 1 1 ≤ 8) && decide (field b 4 2 ≤ 4095) && decide (field b 6 2 = 0) &&
  decide (field b 12 4 = 0) && decide (field b 16 8 % 2 = 0) &&
  (field b 0 1 != 2 || (decide (field b 8 4 = 0) && decide (field b 24 8 % 64 = 0))) &&
  (List.range 8).all (fun i => if i < field b 1 1 then decide (1 ≤ field b (40 + 12 * i) 4) else allZero ((b.drop (32 + 12 * i)).take 12))

/-- The declared operands of a node: handle, first page, page count. -/
def nodeOpnds (b : List Byte) : List (W32 × Nat × Nat) :=
  (List.range (field b 1 1)).map (fun i => (BitVec.ofNat 32 (field b (32 + 12 * i) 4), field b (36 + 12 * i) 4, field b (40 + 12 * i) 4))

/-- Two-byte numbers of a byte string. -/
def halves (bs : List Byte) (n : Nat) : List Nat := (List.range n).map (fun i => field bs (2 * i) 2)

/-- Read node i and its successors: none where a read faults; the node, with whether its fields are legal. -/
def readNode (s : State) (ctx : Nat) (img : Image) (base : W64) (i : Nat) : Option (Node × Bool) × State :=
  match ctxRead s ctx (base + BitVec.ofNat 64 (128 * i)) 128 with
  | (none, s) => (none, s)
  | (some b, s) =>
      match ctxRead s ctx (field64 b 16 8) (2 * field b 4 2) with
      | (none, s) => (none, s)
      | (some sb, s) =>
          let typ := field b 0 1
          let kidx := field b 8 4
          let ker := if typ = 2 then [] else listGet [] img.kernels kidx
          let n : Node := { typ := typ, npred := field b 2 2, succ := halves sb (field b 4 2), kidx := kidx, ker := ker,
                            argb := field64 b 24 8, opnds := nodeOpnds b, left := field b 2 2,
                            ninst := if typ = 2 then 1 else kNinst ker }
          (some (n, nodeOk b && (typ == 2 || decide (kidx < img.kernels.length))), s)

/-- Read nodes i to i + n − 1; a node whose read faults is illegal. -/
def readNodes (ctx : Nat) (img : Image) (base : W64) : Nat → State → Nat → List (Node × Bool) × State
  | 0, s, _ => ([], s)
  | n + 1, s, i =>
      let (x, s) := readNode s ctx img base i
      let (r, s) := readNodes ctx img base n s (i + 1)
      (x.getD ({}, false) :: r, s)

/-- Nodes that a set of nodes reaches in at most n more edges. -/
def reachN (ns : List Node) : Nat → List Nat → List Nat
  | 0, l => l
  | n + 1, l => reachN ns n ((l ++ l.flatMap (fun i => (listGet {} ns i).succ)).eraseDups)

/-- Node i lies on a cycle. -/
def onCycle (ns : List Node) (i : Nat) : Bool := (reachN ns ns.length (listGet {} ns i).succ).contains i

/-- Edges that enter node i. -/
def inEdges (ns : List Node) (i : Nat) : Nat := (ns.map (fun n => (n.succ.filter (fun j => j == i)).length)).sum

/-- A node obeys the type rules of R374. -/
def typeOk (s : State) (n : Node) : Bool :=
  match n.typ with
  | 0 => kAffin n.ker != 1
  | 1 => kAffin n.ker != 2 && (kAffin n.ker != 1 || (kLflags n.ker % 4 == 0 && s.dev.rootTier))
  | _ => true

/-- Node i of a launch offends (R371). -/
def nodeBad (s : State) (ctx : Nat) (ns : List (Node × Bool)) (i : Nat) : Bool :=
  let (n, ok) := listGet ({}, false) ns i
  let l := ns.map (fun x => x.1)
  !ok || n.succ.any (fun j => decide (ns.length ≤ j)) || inEdges l i != n.npred || onCycle l i || !typeOk s n ||
  n.opnds.any (fun o => match ownTht s ctx o.1 with | none => true | some t => decide (t.npages < o.2.1 + o.2.2))

/-- The first offending node, or 0xFFFF for the descriptor, of a launch that is refused; none where it is accepted. -/
def refusal (s : State) (ctx : Nat) (b : List Byte) (ns : List (Node × Bool)) (devs : Option (List Nat)) : Option Nat :=
  let gang := ns.any (fun x => kGang x.1.ker)
  match (List.range ns.length).find? (nodeBad s ctx ns) with
  | some i => some i
  | none =>
      if !gangOk b gang || (gang && (devs.isNone || s.dev.sysdev == 0xFFFF)) then some 0xFFFF else none

/-! ## The ready pool (R373) -/

/-- Nodes in a part of the pool. -/
def inPart (s : State) (d : Nat) : Nat :=
  (s.launches.flatMap (fun e => match e.2 with | none => [] | some l => l.nodes.filter (fun n => n.part == some d))).length

/-- The die of an operand's page where its home is Leaf or Bud (R374). -/
def homeDie (s : State) (n : Node) : Option Nat :=
  match n.opnds with
  | [] => none
  | (h, pg, _) :: _ =>
      match thtOf s h with
      | none => none
      | some t =>
          match paRange (pageOf t pg * 65536) with
          | .hbm k => some (k / 3)
          | .bud k => some (k / 32)
          | _ => none

/-- A unit is retired or absent (R11, R407). -/
def retired (s : State) (ex : Nat) : Bool := s.dev.absent.contains ex

/-- The schedule-log and snapshot records of an executor's last instance have been written: they go to that instance's address space, so that no other one takes
the executor before (R433, R437; DESIGN CHOICE, log 104). -/
def recordsOut (c : Core) : Bool := c.dbg.slbuf.isEmpty && !c.reqs.any (fun r => match r.kind with | .record _ _ _ => true | _ => false)

/-- An executor is idle, kept for no hand-over and no cluster group, present, and its records are written. -/
def idleEx (s : State) (ex : Nat) : Bool :=
  let r := (coreAt s ex).run
  r.st == .idle && !r.reserved && r.group.isNone && !retired s ex && (ex < 256 || s.dev.rootTier) && recordsOut (coreAt s ex)

/-- An executor is free for dispatch: idle, and not reserved for the host (R378). -/
def freeEx (s : State) (ex : Nat) : Bool := idleEx s ex && !s.dev.hostEx.contains ex

/-- Free Crown cores of a die. -/
def freeOn (s : State) (d : Nat) : Nat := ((List.range 64).filter (fun i => freeEx s (64 * d + i))).length

/-- The die with the most free cores, the lowest-numbered on a tie. -/
def emptiestDie (s : State) : Nat := (List.range 4).foldl (fun b d => if freeOn s b < freeOn s d then d else b) 0

/-- The die that R374 chooses for a node. -/
def dieFor (s : State) (n : Node) : Nat := (homeDie s n).getD (emptiestDie s)

/-- Change node i of the launch at a place. -/
def onNode (s : State) (place i : Nat) (f : Node → Node) : State :=
  onLaunch s place (fun l => { l with nodes := listSet l.nodes i (f (listGet {} l.nodes i)) })

/-- A ready node enters the pool at its die's part, or the next one with room (R373). -/
def enterPool (s : State) (place i : Nat) : State :=
  let n := listGet {} (launchAt s place).nodes i
  let d := dieFor s n
  match ([d, d + 1, d + 2, d + 3].map (fun k => k % 4)).find? (fun k => decide (inPart s k < 1024)) with
  | none => s
  | some k => onNode s place i (fun n => { n with part := some k })

/-- Nodes that are ready, still hold instances to dispatch and have no pool entry, by when they became ready. -/
def waitingNodes (s : State) : List (Nat × Nat × Nat) :=
  (s.launches.flatMap (fun e => match e.2 with
    | none => []
    | some l => ((List.range l.nodes.length).filter (fun i =>
        let n := listGet {} l.nodes i
        n.ready && n.part.isNone && decide (n.nextWid < n.ninst) && !n.faulted)).map (fun i => ((listGet {} l.nodes i).readySeq, e.1, i))))

/-- The node that has waited longest for an entry enters the pool, and so on for n nodes. -/
def refillN : Nat → State → State
  | 0, s => s
  | n + 1, s =>
      match (waitingNodes s).foldl (fun b x => match b with | none => some x | some y => if x.1 < y.1 then some x else b) none with
      | none => s
      | some (_, p, i) => refillN n (enterPool s p i)

/-- While the pool has room, waiting nodes enter it in the order in which they became ready (R373). -/
def refill (s : State) : State := refillN (waitingNodes s).length s

/-- Node i becomes ready, and enters the pool after those that wait. -/
def makeReady (s : State) (place i : Nat) : State :=
  let (q, s) := fresh s
  refill (onNode s place i (fun n => { n with ready := true, readyAt := s.gtc, readySeq := q }))

/-- Ready every node of a list of a launch that has no edge left. -/
def readyAll (place : Nat) : List Nat → State → State
  | [], s => s
  | i :: r, s =>
      readyAll place r (if (listGet {} (launchAt s place).nodes i).left = 0 ∧ !(listGet {} (launchAt s place).nodes i).ready then makeReady s place i else s)

/-- The COMPL in the header of node 0's kernel, zero where there is none, whatever else of the descriptor or of the node cannot be read (R369,
R473). -/
def headerCompl (s : State) (ctx : Nat) (b : List Byte) : W64 × State :=
  match imageOf s ctx (field64 b 0 8) with
  | none => (0, s)
  | some img =>
      if field b 16 2 = 0 then (0, s)
      else
        match ctxRead s ctx (field64 b 8 8) 128 with
        | (none, s) => (0, s)
        | (some n, s) => (if field n 0 1 = 2 then 0 else kCompl (listGet [] img.kernels (field n 8 4)), s)

/-- The launch that a descriptor describes, refused or ready to run, with its first generation. -/
def buildLaunch (s : State) (e : LqEnt) (gen : BitVec 22) : Launch × State :=
  let (q, s) := fresh s
  let l0 : Launch := { ctx := e.ctx, gen := gen, accepted := q }
  match ctxRead s e.ctx e.va 64 with
  | (none, s) => ({ l0 with refused := some 0xFFFF }, s)
  | (some b, s) =>
      let l0 := { l0 with image := field64 b 0 8, compl := field64 b 24 8 }
      if e.va.toNat % 64 ≠ 0 ∨ !descOk b then
        (let (c, s) := headerCompl s e.ctx b
         ({ l0 with refused := some 0xFFFF, compl := if field b 24 8 = 0 then c else field64 b 24 8 }, s))
      else
        match imageOf s e.ctx (field64 b 0 8) with
        | none => ({ l0 with refused := some 0xFFFF }, s)
        | some img =>
            let (ns, s) := readNodes e.ctx img (field64 b 8 8) (field b 16 2) s 0
            let nodes : List Node := ns.map (fun (x : Node × Bool) => { x.1 with argsz := if field b 20 4 = 0 then kArgsz x.1.ker else field b 20 4 })
            let k0 := (listGet {} nodes 0).ker
            let (c, s) := headerCompl s e.ctx b
            let l := { l0 with compl := if field b 24 8 = 0 then c else field64 b 24 8 }
            let gang := nodes.any (fun n => kGang n.ker)
            let (db, s) := if gang then ctxRead s e.ctx (field64 b 40 8) (2 * field b 36 2) else (some [], s)
            let devs := db.map (fun x => halves x (field b 36 2))
            match refusal s e.ctx b ns devs with
            | some i => ({ l with refused := some i }, s)
            | none =>
                ({ l with nodes := nodes,
                          gang := if gang then some { id := BitVec.ofNat 32 (field b 32 4), devs := devs.getD [], dl := kGangdl k0 } else none }, s)

/-- The launch queue is served: until a suspend's entry, and during the entry while a SPAWN still waits for its reply, before which its instance
does not stop (R401, R456; DEDUCED, log 22). -/
def queueServed (s : State) : Bool :=
  movesRun s || (s.lqueue.any (fun e => e.spawn.isSome) && (match s.dev.sus.st with | .entering _ => true | _ => false))

/-- While a suspend enters and no launch place is free, the first SPAWN that waits has its reply, so that its instance can stop: what the acceptance says
as things stand. Its descriptor stays in the queue (R390, R401, R456; DEDUCED, log 22). -/
def answerSpawn (s : State) : State :=
  match s.lqueue.findIdx? (fun e => e.spawn.isSome) with
  | none => s
  | some i =>
      let e := s.lqueue.getD i {}
      let refused := (buildLaunch s e e.gen).1.refused.isSome
      spawnReply { s with lqueue := s.lqueue.set i { e with spawn := none } } e (if refused then 7 else spawnOk e.gen)

/-- LAUNCH_ACCEPT: the oldest descriptor of the queue is read and takes a launch place; a decommissioned device accepts none (R369, R371, R456,
R465). -/
def execLaunchAccept (s : State) : Out :=
  .next (
    match s.lqueue, freePlace s with
    | e :: r, some p =>
        if !queueServed s || s.dev.sec.lcs == 4 then s
        else
        let (l, s) := buildLaunch { s with lqueue := r } e e.gen
        let s := { s with launches := tblSet none s.launches p (some l) }
        match l.refused with
        | some _ => spawnReply s e 7
        | none => readyAll p (List.range l.nodes.length) (spawnReply s e (spawnOk e.gen))
    | _, none => if queueServed s && !movesRun s then answerSpawn s else s
    | _, _ => s)

/-! ## Candidates and their order (R375, R377) -/

/-- A candidate for dispatch: effective priority, whether it was pre-empted, acceptance, node, wid; the launch's place and what to dispatch:
an index of the stopped list, or the next instance of a node; the highest wid that is dispatched with it, and its pre-empted group (R237). -/
structure Cand where
  prio : Nat := 0
  pre : Bool := false
  accepted : Nat := 0
  node : Nat := 0
  wid : Nat := 0
  place : Nat := 0
  idx : Option Nat := none
  since : W64 := 0
  top : Nat := 0
  grp : Option (Nat × Nat × Nat) := none
deriving DecidableEq, Repr

/-- Min(7, PRIO + whole AGEQ periods waited) (R375). -/
def effPrio (s : State) (prio : Nat) (since : W64) : Nat :=
  if s.dev.sched.ageq = 0 then min 7 prio else min 7 (prio + (s.gtc - since).toNat / (s.dev.sched.ageq.toNat * 1000))

/-- A gang launch dispatches once it has armed, and never after an abort (R386, R387). -/
def gangRuns (l : Launch) : Bool := match l.gang with | none => true | some g => g.state == 1 || g.state == 2

/-- The pool's candidates. -/
def poolCands (s : State) : List Cand :=
  s.launches.flatMap (fun e => match e.2 with
    | none => []
    | some l =>
        if !gangRuns l then []
        else ((List.range l.nodes.length).filter (fun i =>
            let n := listGet {} l.nodes i
            n.part.isSome && decide (n.nextWid < n.ninst) && !n.faulted)).map (fun i =>
          let n := listGet {} l.nodes i
          { prio := effPrio s (kPrio n.ker) n.readyAt, accepted := l.accepted, node := i, wid := n.nextWid, place := e.1, since := n.readyAt
            top := if kCluster n.ker then min (n.nextWid + 7) (n.ninst - 1) else n.nextWid }))

/-- The node of an instance. -/
def nodeOf (s : State) (i : Inst) : Node := listGet {} (launchAt s i.launch).nodes i.node

/-- The pre-empted candidates; one of a cluster group stands for the whole group, its lowest wid. -/
def stoppedCands (s : State) : List Cand :=
  ((List.range s.stopped.length).filterMap (fun i =>
    match s.stopped[i]? with
    | none => none
    | some x =>
        let n := nodeOf s x.inst
        let lowest := x.core.run.group.isNone || !s.stopped.any (fun y => y.core.run.group == x.core.run.group && decide (y.inst.wid.toNat < x.inst.wid.toNat))
        if n.faulted || !lowest then none
        else some { prio := effPrio s (kPrio n.ker) x.since, pre := true, accepted := (launchAt s x.inst.launch).accepted, node := x.inst.node,
                    wid := x.inst.wid.toNat, place := x.inst.launch, idx := some i, since := x.since, grp := x.core.run.group
                    top := if x.core.run.group.isNone then x.inst.wid.toNat else
                      ((s.stopped.filter (fun y => y.core.run.group == x.core.run.group)).map (fun y => y.inst.wid.toNat)).foldl max 0 }))

/-- No instance of a launch goes before one of its pre-empted instances with a lower wid, whether that one is held, its image is still being written or it is
asked to stop; of a group, every wid that goes with it is tested (R377, R391). -/
def inTurn (s : State) (c : Cand) : Bool :=
  let lower (i : Inst) : Bool := i.launch == c.place && !(nodeOf s i).faulted && decide (i.wid.toNat < c.top)
  !s.stopped.any (fun x => lower x.inst && (c.grp.isNone || x.core.run.group != c.grp)) &&
  !s.cores.any (fun k => k.run.live && (k.run.st == .saving || k.run.preq) && lower k.run.inst && (c.grp.isNone || k.run.group != c.grp))

/-- Candidate x is served before y (R375). -/
def candBefore (x y : Cand) : Bool :=
  if x.prio ≠ y.prio then decide (y.prio < x.prio)
  else if x.pre ≠ y.pre then x.pre
  else if x.accepted ≠ y.accepted then decide (x.accepted < y.accepted)
  else if x.node ≠ y.node then decide (x.node < y.node)
  else decide (x.wid < y.wid)

/-- Insert a candidate in the order of R375. -/
def candIns (x : Cand) : List Cand → List Cand
  | [] => [x]
  | y :: r => if candBefore x y then x :: y :: r else y :: candIns x r

/-- Every candidate in order. -/
def candidates (s : State) : List Cand := ((poolCands s ++ stoppedCands s).filter (inTurn s)).foldr candIns []

/-! ## Executors for a candidate (R374) -/

/-- The lowest-numbered free core of a die. -/
def freeCoreOn (s : State) (d : Nat) : Option Nat := ((List.range 64).map (fun i => 64 * d + i)).find? (freeEx s)

/-- The free Crown core for a die: its own, then its neighbours', then the opposite die's. -/
def crownFor (s : State) (d : Nat) : Option Nat :=
  [d, (d + 1) % 4, (d + 3) % 4, (d + 2) % 4].findSome? (freeCoreOn s)

/-- A cluster whose eight cores are free. -/
def clusterFree (s : State) (k : Nat) : Bool := (List.range 8).all (fun i => freeEx s (8 * k + i))

/-- The lowest-numbered free cluster. -/
def clusterFor (s : State) : Option Nat := (List.range 32).find? (clusterFree s)

/-- The controller of a Root page: 8 TiB each, in ascending order (PRESUMED, log 41). -/
def rootCtl (page : Nat) : Nat := (page * 65536 - 0x400000000000) / 2 ^ 43

/-- The lowest-numbered executor of a root controller that may be taken. -/
def rootOn (may : Nat → Bool) (k : Nat) : Option Nat := ((List.range 4).map (fun i => 256 + 4 * k + i)).find? may

/-- The controller that holds operand 0's page, where its home is Root. -/
def opndCtl (s : State) (n : Node) : Option Nat :=
  match n.opnds with
  | [] => none
  | (h, pg, _) :: _ =>
      match thtOf s h with
      | none => none
      | some t => if homeOf t pg = 0 then some (rootCtl (pageOf t pg)) else none

/-- The Root executor for a node, of those that may be taken: of the controller that holds operand 0's page, else of the lowest-numbered one that
has one. -/
def rootFor (s : State) (may : Nat → Bool) (n : Node) : Option Nat :=
  match opndCtl s n with
  | some k => rootOn may k
  | none => (List.range 8).findSome? (rootOn may)

/-- A node's instances run on Root executors at this dispatch. -/
def onRoot (s : State) (n : Node) : Bool :=
  n.typ == 1 && (kAffin n.ker == 1 ||
    (kAffin n.ker == 0 && kLflags n.ker % 4 == 0 && (match n.opnds with
      | [] => false
      | (h, pg, _) :: _ => (match thtOf s h with | none => false | some t => homeOf t pg == 0))))

/-- The context image keeps an arrival of a barrier of CLUSTER or DIE scope that the object of another unit than ex's counted (R417). -/
def arrivalElsewhere (x : Stopped) (ex : Nat) : Bool :=
  x.core.sync.bars.any (fun e => e.2.arr && e.2.unit != 0 && countingUnit (BitVec.ofNat 3 (e.2.unit / 512)) ex != e.2.unit)

/-- A pre-empted instance holds a RAT that is armed or busy, and so goes back only to its executor (R474). -/
def tied (x : Stopped) : Bool := x.core.rats.any (fun e => e.2.st != 0)

/-- It is tied to another executor than ex. -/
def tiedTo (x : Stopped) (ex : Nat) : Bool := tied x && ex != x.ex

/-- A pre-empted instance may resume on an executor of its kind. -/
def mayResume (s : State) (x : Stopped) (ex : Nat) : Bool :=
  freeEx s ex && (decide (ex < 256) == decide (x.ex < 256)) && !arrivalElsewhere x ex && !tiedTo x ex

/-- The members of a pre-empted cluster group that are stopped. -/
def groupStopped (s : State) (g : Nat × Nat × Nat) : List Stopped := s.stopped.filter (fun y => y.core.run.group == some g)

/-- Every instance of a cluster group that runs on an executor has stopped. -/
def groupWhole (s : State) (g : Nat × Nat × Nat) : Bool :=
  s.cores.all (fun c => !(c.run.group == some g && c.run.st != .idle))

/-- Where a candidate would go now: an executor, or the first of a cluster. -/
def targetFor (s : State) (c : Cand) : Option Nat :=
  match c.idx with
  | some i =>
      (match s.stopped[i]? with
       | none => none
       | some x =>
           match x.core.run.group with
           | some g =>
               if groupWhole s g then ((List.range 32).find? (fun k => clusterFree s k &&
                 (groupStopped s g).all (fun y => mayResume s y (8 * k + y.inst.wid.toNat % 8)))).map (fun k => 8 * k) else none
           | none =>
               if x.ex < 256 then
                 (let d := dieFor s (nodeOf s x.inst)
                  [d, (d + 1) % 4, (d + 3) % 4, (d + 2) % 4].findSome? (fun k => ((List.range 64).map (fun i => 64 * k + i)).find? (mayResume s x)))
               else if tied x then (if mayResume s x x.ex then some x.ex else none)
               else rootFor s (mayResume s x) (nodeOf s x.inst))
  | none =>
      let n := listGet {} (launchAt s c.place).nodes c.node
      if n.typ = 2 then none
      else if onRoot s n then rootFor s (freeEx s) n
      else if kCluster n.ker then (clusterFor s).map (fun k => 8 * k)
      else crownFor s (dieFor s n)

/-- The first candidate that an executor may run, with its executor. -/
def nextDispatch (s : State) : Option (Cand × Nat) :=
  (candidates s).findSome? (fun c => (targetFor s c).map (fun t => (c, t)))

/-! ## Dispatch (R378) -/

/-- DEMAND rises by 1 for each of a list of handles (R97). -/
def demandAll : List W32 → State → State
  | [], s => s
  | h :: r, s => demandAll r (match thtOf s h with | none => s | some t => setTht s h (demandUp t))

/-- DEMAND rises by 1 for each handle that an instance declares, in one operand or in several (R97). -/
def demandOpnds (l : List (W32 × Nat × Nat)) (s : State) : State := demandAll (l.map (fun o => o.1)).eraseDups s

/-- The boot mailbox's bytes (R378). -/
def mailBytes (image wid argb : W64) (kidx place : Nat) : List Byte :=
  leBytes 8 image.toNat ++ leBytes 8 wid.toNat ++ leBytes 8 argb.toNat ++ leBytes 4 kidx ++ leBytes 4 (if 1024 ≤ place then 0 else place)

/-- Write an executor's boot mailbox: it enters, or its overlay loader fills the instruction memories first. -/
def boot (s : State) (ex : Nat) (i : Inst) (group : Option (Nat × Nat × Nat)) : State :=
  onCore s ex (fun c =>
    let resident := match c.run.res with | none => false | some r => r.image == i.image
    { c with run := { c.run with st := if resident then .entering else .loading, inst := i, live := true, group := group, hreq := .none, preq := false,
                                 dstop := false, dreq := false, mailbox := mailBytes i.image i.wid i.argb i.kidx i.launch, readyAt := s.gtc } })

/-- Fuse or part the L1s of a cluster: its lines are dropped (R236). -/
def setFused (s : State) (k : Nat) (b : Bool) : State :=
  (List.range 8).foldl (fun s i => onCore s (8 * k + i) (fun c => if c.fused = b then c else { c with fused := b, l1 := [] })) s

/-- A launch with LFLAGS[0] fuses the cluster of a core that an instance of it comes to occupy, until its end (R236). -/
def fuseFor (s : State) (n : Node) (place ex : Nat) : State :=
  if kFuse n.ker ∧ ex < 256 then
    let s := setFused s (ex / 8) true
    { s with dev := { s.dev with fused := tblSet [] s.dev.fused (ex / 8) ((tblGet [] s.dev.fused (ex / 8)).filter (fun p => p != place) ++ [place]) } }
  else s

/-- Dispatch the next instance of a node to an executor. -/
def dispatchOne (s : State) (place node ex : Nat) (group : Option (Nat × Nat × Nat)) : State :=
  let l := launchAt s place
  let n := listGet {} l.nodes node
  let i : Inst := { launch := place, node := node, wid := BitVec.ofNat 64 n.nextWid, ctx := l.ctx, image := l.image, kidx := n.kidx, argb := n.argb }
  let s := demandOpnds n.opnds (fuseFor s n place ex)
  let s := onNode s place node (fun n => { n with nextWid := n.nextWid + 1, running := n.running + 1,
                                                   part := if n.nextWid + 1 < n.ninst then n.part else none })
  refill (boot s ex i group)

/-- Dispatch up to eight instances of a cluster-gang node to a cluster; every core of it is kept for the group (R237). -/
def dispatchGroup (s : State) (place node first : Nat) : State :=
  let n := listGet {} (launchAt s place).nodes node
  let g := (place, node, n.nextWid / 8)
  let k := min 8 (n.ninst - n.nextWid)
  let s := (List.range k).foldl (fun s j => dispatchOne s place node (first + j) (some g)) s
  (List.range 8).foldl (fun s j => onCore s (first + j) (fun c => { c with run := { c.run with group := some g } })) s

/-- The placements whose admission write is held at a ring of an instance go with it (R286, R475). -/
def moveHeld (s : State) (c : Core) (ex : Nat) : State :=
  let held := c.rings.filterMap (fun (e : Nat × Option Ring) => match e.2 with | some r => r.held | none => none)
  { s with msgs := s.msgs.map (fun m => if held.contains m.id then { m with dst := ex } else m) }

/-- Move a pre-empted instance's image to an executor, which will read it (R404). -/
def redispatch (s : State) (x : Stopped) (ex : Nat) : State :=
  let s := moveHeld { s with stopped := s.stopped.filter (fun y => !(y.inst == x.inst)) } x.core ex
  let s := onNode s x.inst.launch x.inst.node (fun n => { n with running := n.running + 1 })
  let s := fuseFor s (nodeOf s x.inst) x.inst.launch ex
  onCore s ex (fun c =>
    { x.core with run := { x.core.run with st := .restoring, live := true, quiesce := false, res := c.run.res, lastCtx := c.run.lastCtx, readyAt := s.gtc }, l1 := c.l1, tlb := c.tlb,
                  fused := c.fused, dbg := { tb := if c.run.lastCtx = some x.inst.ctx then c.dbg.tb else [], slbuf := x.core.dbg.slbuf, brOut := x.core.dbg.brOut } })

/-- Redispatch every stopped member of a cluster group to a cluster; a core whose member had halted holds that member's scratchpad, of its context (R224,
R237). -/
def redispatchGroup (s : State) (g : Nat × Nat × Nat) (first : Nat) : State :=
  let spads := (groupStopped s g).flatMap (fun y => y.spads.map (fun e => (e.1, e.2, y.inst.ctx)))
  let s := (groupStopped s g).foldl (fun s y => redispatch s y (first + y.inst.wid.toNat % 8)) s
  let s := spads.foldl (fun s (e : Nat × Spad × Nat) => onCore s (first + e.1) (fun c => { c with spad := e.2.1, run := { c.run with lastCtx := some e.2.2 } })) s
  (List.range 8).foldl (fun s j => onCore s (first + j) (fun c => { c with run := { c.run with group := some g } })) s

/-- Dispatch runs: no suspend is entering or in force (R390). -/
def dispatchRuns (s : State) : Bool := movesRun s

/-- Cores kept for cluster groups of which no instance runs or is held fall free (R237). -/
def sweepGroups (s : State) : State :=
  { s with cores := s.cores.map (fun c =>
      match c.run.group with
      | none => c
      | some g =>
          if groupWhole s g && !s.stopped.any (fun x => x.core.run.group == some g) then { c with run := { c.run with group := none } } else c) }

/-- DISPATCH: the first candidate that a free executor may run is dispatched (R374 to R377). -/
def execDispatch (s : State) : Out :=
  .next (
    if !dispatchRuns s then s
    else
      let s := refill (sweepGroups s)
      match nextDispatch s with
      | none => s
      | some (c, t) =>
          match c.idx with
          | none =>
              if kCluster (listGet {} (launchAt s c.place).nodes c.node).ker ∧ !onRoot s (listGet {} (launchAt s c.place).nodes c.node) then
                dispatchGroup s c.place c.node t
              else dispatchOne s c.place c.node t none
          | some i =>
              match s.stopped[i]? with
              | none => s
              | some x => (match x.core.run.group with | some g => redispatchGroup s g t | none => redispatch s x t))

/-- An executor that the supervisor has reserved for the host can take a direct launch: it is free, and the record of its last one has been written
(R378, R384). -/
def bootable (s : State) (ex : Nat) : Bool :=
  s.dev.hostEx.contains ex && idleEx s ex && (tblGet none s.launches (1024 + ex)).isNone

/-- BOOT_MAILBOX_WRITE: the host boots an executor that the supervisor has reserved for it, with one instance; a device that is suspended or decommissioned,
or whose firmware has failed, boots none (R378, R456, R460, R465). Choice: n, the executor; data, the 32 bytes. -/
def execBootMailboxWrite (s : State) : Out :=
  .next (
    let ex := s.choice.n
    let b := s.choice.data
    match tblGet none s.images (field b 0 8) with
    | none => s
    | some img =>
        if ex < 288 ∧ bootable s ex ∧ movesRun s ∧ s.dev.sec.lcs ≠ 4 ∧ field b 24 4 < img.kernels.length then
          let ker := listGet [] img.kernels (field b 24 4)
          let (gen, s) := takeGen s img.ctx
          let (q, s) := fresh s
          let n : Node := { typ := if ex < 256 then 0 else 1, kidx := field b 24 4, ker := ker, argb := field64 b 16 8, ready := true, nextWid := 1, running := 1, argsz := kArgsz ker }
          let l : Launch := { ctx := img.ctx, image := field64 b 0 8, gen := gen, compl := kCompl ker, nodes := [n], accepted := q }
          boot (fuseFor { s with launches := tblSet none s.launches (1024 + ex) (some l) } n (1024 + ex) ex) ex
            { launch := 1024 + ex, node := 0, wid := field64 b 8 8, ctx := img.ctx, image := field64 b 0 8, kidx := field b 24 4, argb := field64 b 16 8 } none
        else s)

/-- The segment table of an image as the queues check it (R85, R300). -/
def segsOf (img : Image) : List SegEnt :=
  img.segs.map (fun b => { addr := img.base + field64 b 0 8, engine := field b 12 1, sets := field64 b 16 8, waits := field64 b 24 8, nwords := field b 8 4 })

/-- What the overlay loader leaves of an image, as its pages hold it now (R43, R92). -/
def residentOf (h : W64) (img : Image) : Resident := { image := h, ctrl := img.ctrl, eng := img.eng, segs := segsOf img }

/-- Read a section's bytes from its pages; of one with a page that does not translate or holds poison, the bytes as published (R92 names no outcome;
DESIGN CHOICE, log 91). -/
def loadSects (ctx : Nat) : List Sect → State → List Sect × State
  | [], s => ([], s)
  | x :: r, s =>
      let (b, s) := ctxRead s ctx x.base x.bytes.length
      let (l, s) := loadSects ctx r s
      ({ x with bytes := b.getD x.bytes } :: l, s)

/-- OVERLAY_LOAD_DONE: the overlay loader has filled the executor's instruction memories from the image's pages (R92, R378). -/
def execOverlayLoadDone (s : State) : Out :=
  .next (
    let c := me s
    match tblGet none s.images c.run.inst.image.toNat with
    | none => s
    | some img =>
        if awake s ∧ (c.run.st = .loading ∨ c.run.st = .restoring ∨ c.run.st = .handover) then
          let (cs, s) := loadSects img.ctx img.ctrl s
          let (es, s) := loadSects img.ctx img.eng s
          onMe s (fun c => { c with run := { c.run with st := if c.run.st = .loading then .entering else c.run.st,
                                                        res := some { residentOf c.run.inst.image img with ctrl := cs, eng := es } } })
        else s)

/-- The supervisor registers of a context, which hold for all its instances (R312, R393; DEDUCED, log 42). -/
def supCsr (x : Ctxt) : Csr := { dlmax := x.dlmax, toesc := x.toesc, maxred := x.maxred, spwin := x.spwin, tvec := x.tvec, dbgp := x.dbgp }

/-- The scratchpad at entry: every tag empty; zeroed where the core last ran another context (R224). -/
def entrySpad (c : Core) : Spad :=
  if c.run.lastCtx = some c.run.inst.ctx then { c.spad with tag := [], waiters := [], base := c.spad.w } else {}

/-- The record of an executor at kernel entry (R379). -/
def entryCore (s : State) (ex : Nat) (c : Core) : Core :=
  let i := c.run.inst
  let x := (ctxAt s i.ctx).getD {}
  let img := (tblGet none s.images i.image.toNat).getD {}
  let ker := listGet [] img.kernels i.kidx
  let csr := supCsr x
  let sp := sext64 (x.spwin ++ 0#21) + 0x200000
  let regs : Vector W64 64 := ((((Vector.replicate 64 0).set 59 i.wid).set 60 i.argb).set 61 img.got).set 63 sp
  let pc := img.base + kEntry ker
  let c' : Core :=
    { run := { c.run with st := .running, live := true }, ctl := { s := regs, pc := pc }, csr := csr
      csr2 := { ptroot := x.ptroot, lgen := (launchAt s i.launch).gen, lnode := BitVec.ofNat 12 i.node }
      fused := c.fused, cseg := pc, spad := entrySpad c, l1 := c.l1, tlb := c.tlb, rats := c.rats, irq := c.irq
      dbg := { tb := if c.run.lastCtx = some i.ctx then c.dbg.tb else [] } }
  segStart ex s.gtc c' .control pc

/-- The executors that enter together: a cluster group's, or one. -/
def entrants (s : State) : List Nat :=
  match (me s).run.group with
  | none => [s.ex.val]
  | some g => (List.range 8).filterMap (fun i =>
      let ex := s.ex.val / 8 * 8 + i
      if (coreAt s ex).run.group = some g ∧ (coreAt s ex).run.st ≠ .idle then some ex else none)

/-- An executor may enter: its image is resident and every request of its previous instance has been served. -/
def entryReady (c : Core) : Bool := c.run.st == .entering && c.reqs.isEmpty && c.wc.isEmpty

/-- An executor enters its kernel, which acquires what happened before its dispatch (R355, R379). -/
def enterEx (s : State) (ex : Nat) : State := asEx (onCore s ex (entryCore s ex)) ex l1Clear

/-- KERNEL_ENTRY: the entry registers are set and the instance runs; a cluster group enters at once (R237, R379). -/
def execKernelEntry (s : State) : Out :=
  .next (
    let l := entrants s
    if awake s && l.all (fun ex => entryReady (coreAt s ex)) then l.foldl enterEx s else s)

/-! ## Halt and completion (R304, R370, R384, R385) -/

/-- A node has completed: its successors lose an edge, and those without one become ready. -/
def nodeDone (s : State) (place node : Nat) : State :=
  let n := listGet {} (launchAt s place).nodes node
  let s := onNode s place node (fun n => { n with done := true })
  let s := n.succ.foldl (fun s j => onNode s place j (fun x => { x with left := x.left - 1 })) s
  readyAll place n.succ s

/-- An instance of a node has halted. -/
def countHalt (s : State) (place node : Nat) : State :=
  let s := onNode s place node (fun n => { n with halted := n.halted + 1, running := n.running - 1 })
  let n := listGet {} (launchAt s place).nodes node
  if n.halted = n.ninst ∧ !n.faulted then nodeDone s place node else s

/-- A cluster group whose instances have all halted leaves its cluster (R237). -/
def closeGroup (s : State) (g : Option (Nat × Nat × Nat)) : State :=
  match g with
  | none => s
  | some _ =>
      if s.cores.any (fun c => c.run.group == g && c.run.st != .idle) || s.stopped.any (fun x => x.core.run.group == g) then s
      else { s with cores := s.cores.map (fun c => if c.run.group == g then { c with run := { c.run with group := none } } else c) }

/-- The instance of the executor ends by HALT. -/
def haltNow (s : State) : State :=
  let i := (me s).run.inst
  let g := (me s).run.group
  closeGroup (countHalt (onMe s freeCore) i.launch i.node) g

/-- Engines that stand are released and the groups closed; once queues, engines and every WAITC class are empty, a DEVICE-scope release and the
halt line (R304). -/
def haltStep (s : State) : State :=
  let s := releaseAll engines (wcFlushSq s .control)
  let s := onMe s (fun c => { c with run := { c.run with st := .halting }, sync := { c.sync with groups := [] } })
  let c := me s
  if engines.all (fun q => (queueOf c q).isEmpty && (engOf c q).st == .idle) && classesZero c then haltNow s else s

/-- HALT (R304); one that waits has read its predicate (R51). -/
def execHalt (g : Guard) (s : State) : Out :=
  .next (if (me s).run.st = .halting then haltStep s else guarded g s haltStep)

/-- No instance of a launch can still run. -/
def launchOver (s : State) (place : Nat) (l : Launch) : Bool :=
  l.nodes.all (fun n => n.running == 0 && (n.done || n.faulted || !n.ready || (match l.gang with | some g => g.state == 3 | none => false))) &&
  !s.stopped.any (fun x => x.inst.launch == place && !(nodeOf s x.inst).faulted) &&
  !s.ades.any (fun e => match e.2 with | some a => a.launch == place | none => false)

/-- The completion record's bytes (R384). -/
def recordBytes (s : State) (l : Launch) : List Byte :=
  let aborted := match l.gang with | some g => g.state == 3 | none => false
  let miss := match l.gang with | some g => g.miss.toNat | none => 0xFFFF
  let (st, cause, fnode) :=
    match l.refused, l.fault with
    | some i, _ => (7, 0, i)
    | none, f => if aborted then (4, (f.getD (0xFFFF, 0)).2, (f.getD (0xFFFF, 0)).1)
        else match f with | some (n, c) => (6, c, n) | none => (0, 0, 0xFFFF)
  leBytes 1 st ++ leBytes 1 cause ++ leBytes 2 fnode ++ leBytes 2 miss ++ zeros 2 ++ leBytes 4 l.gen.toNat ++ zeros 4 ++
    leBytes 8 ((l.nodes.map (fun (n : Node) => if n.typ = 2 then 0 else n.halted)).sum) ++ leBytes 8 s.gtc.toNat

/-- Keep a record that cannot reach COMPL in the context's LFAIL registers (R473). -/
def keepRecord (s : State) (ctx : Nat) (b : List Byte) : State :=
  { s with dev := { s.dev with lfail := tblSet [] s.dev.lfail ctx b, lfailcnt := tblSet 0 s.dev.lfailcnt ctx (min 0xFFFFFFFF (tblGet 0 s.dev.lfailcnt ctx + 1)) } }

/-- A launch ends its part in the fusions: a cluster whose last one it was parts (R236). -/
def partAll (s : State) (place : Nat) : State :=
  let parted := (s.dev.fused.filter (fun (e : Nat × List Nat) => e.2 == [place])).map (fun e => e.1)
  let s := parted.foldl (fun s k => setFused s k false) s
  { s with dev := { s.dev with fused := s.dev.fused.filterMap (fun (e : Nat × List Nat) =>
      if e.2 == [place] then none else some (e.1, e.2.filter (fun p => p != place))) } }

/-- Free a launch place: its barriers go, its held instances of faulted nodes go, its clusters part, waiting nodes enter the pool (R236, R333, R373,
R385). -/
def freeLaunch (s : State) (place : Nat) : State :=
  let s := partAll s place
  refill { s with launches := tblSet none s.launches place none
                  barCfg := s.barCfg.filter (fun e => e.1 / 1024 != place)
                  barObj := s.barObj.filter (fun e => e.1 / 512 / 4 / 1024 != place)
                  stopped := s.stopped.filter (fun x => x.inst.launch != place) }

/-- COMPLETION_RECORD: the Graph Unit writes a launch's record and frees its place (R384, R473). Choice: n, the place. -/
def execCompletionRecord (s : State) : Out :=
  .next (
    let p := s.choice.n
    match tblGet none s.launches p with
    | none => s
    | some l =>
        if !awake s || (l.refused.isNone && !launchOver s p l) then s
        else
          let b := recordBytes s l
          let s' := if l.compl = 0 then none else ctxWrite s l.ctx l.compl b
          freeLaunch (match s' with | some t => t | none => keepRecord s l.ctx b) p)

/-! ## Multi-device gangs (R386, R387) -/

/-- Change the gang of the launch at a place. -/
def onGang (s : State) (p : Nat) (f : Gang → Gang) : State := onLaunch s p (fun l => { l with gang := l.gang.map f })

/-- A gang message of this device: kind 1 ARM, 2 ABORT with the missing device, 3 acknowledgement (DESIGN CHOICE, log 43). -/
def gangFlit (s : State) (dst : Nat) (kind : Nat) (id : W32) (miss : Nat) : Flit :=
  { src := s.dev.sysdev, dst := BitVec.ofNat 16 dst, cls := 1, payload := leBytes 1 kind ++ leBytes 4 id.toNat ++ leBytes 2 miss }

/-- The ports that carry other than time traffic: those that are up between two devices with distinct assigned numbers (R450). -/
def upPorts (s : State) : List Nat :=
  (List.range 18).filter (fun i => if h : i < 18 then (s.dev.ports.get ⟨i, h⟩).up && !(s.dev.ports.get ⟨i, h⟩).timeOnly else false)

/-- The bytes of a flit that its CRC covers: header, payload, sequence number (R449; DESIGN CHOICE, log 43). -/
def flitBytes (f : Flit) : List Byte :=
  leBytes 2 f.src.toNat ++ leBytes 2 f.dst.toNat ++ leBytes 1 f.cls.toNat ++ zeros 11 ++ f.payload ++ leBytes 8 f.seq

/-- Send a flit from a port: it takes the next sequence number of its class there, and its CRC (R449). -/
def sendFlit (s : State) (f : Flit) (n : Nat) : State :=
  if h : n < 18 then
    let p := s.dev.ports.get ⟨n, h⟩
    let f := { f with seq := p.tx.get f.cls.toFin }
    let f := { f with crc := Config.crc64 (flitBytes f) }
    { s with dev := { s.dev with out := s.dev.out ++ [(n, f)], ports := s.dev.ports.set n { p with tx := p.tx.set f.cls.toFin (f.seq + 1) } h } }
  else s

/-- Send a flit from a list of ports. -/
def sendOut (s : State) (ports : List Nat) (f : Flit) : State := ports.foldl (fun s n => sendFlit s f n) s

/-- Send a flit to every other device of a gang, from every port that carries it. -/
def gangSend (s : State) (g : Gang) (kind : Nat) : State :=
  (g.devs.filter (fun d => d != s.dev.sysdev.toNat)).foldl (fun s d => sendOut s (upPorts s) (gangFlit s d kind g.id g.miss.toNat)) s

/-- Devices of a gang that have not acknowledged. -/
def missing (s : State) (g : Gang) : List Nat := g.devs.filter (fun d => d != s.dev.sysdev.toNat && !g.acks.contains d)

/-- Acknowledge a device's ARM of a gang, from every port that carries it. -/
def gangAck (s : State) (id : W32) (dst : Nat) : State := sendOut s (upPorts s) (gangFlit s dst 3 id 0xFFFF)

/-- GANG_ARM: a gang launch arms: STATE 1, ARM to every other device, an acknowledgement of each ARM that has come already, dispatch begins
(R386). Choice: n, the place. -/
def execGangArm (s : State) : Out :=
  .next (
    match (launchAt s s.choice.n).gang with
    | none => s
    | some g =>
        if g.state = 0 then
          let s := gangSend (onGang s s.choice.n (fun g => { g with state := 1, armedAt := s.gtc })) g 1
          let s' := (s.dev.arms.filter (fun (e : W32 × Nat) => e.1 == g.id)).foldl (fun s (e : W32 × Nat) => gangAck s e.1 e.2) s
          { s' with dev := { s'.dev with arms := s'.dev.arms.filter (fun (e : W32 × Nat) => e.1 != g.id) } }
        else s)

/-- GANG_ACK_ARRIVAL: another device's acknowledgement; the last within GANGDL commits (R386). Choice: n, the place; m, the device. -/
def execGangAckArrival (s : State) : Out :=
  .next (
    match (launchAt s s.choice.n).gang with
    | none => s
    | some g =>
        if g.state = 1 ∧ (s.gtc - g.armedAt).toNat ≤ g.dl then
          let g' := { g with acks := g.acks ++ [s.choice.m] }
          onGang s s.choice.n (fun _ => if (missing s g').isEmpty then { g' with state := 2 } else g')
        else s)

/-- GANGST of a launch (R382). -/
def gangst (l : Launch) : W64 :=
  match l.gang with | none => 0xFFFF0000 | some g => BitVec.ofNat 64 (g.miss.toNat * 65536 + g.state)

/-- A gang aborts here: STATE 3, MISSDEV, GANG_ABORT to the supervisor of every running member (R387). -/
def abortGang (s : State) (p miss : Nat) : State :=
  let s := onGang s p (fun g => { g with state := 3, miss := BitVec.ofNat 16 miss })
  let v : Irq := { code := 0x0A, tval := gangst (launchAt s p), stamp := s.gtc, src := unitSrc 0 }
  { s with cores := s.cores.map (fun c => if c.run.st != .idle && c.run.inst.launch == p then raiseIrq c v else c)
           stopped := s.stopped.map (fun x => if x.inst.launch == p then { x with core := raiseIrq x.core v } else x) }

/-- GANG_DEADLINE_EXPIRY: an acknowledgement is missing at GANGDL: the device aborts and tells every device (R387). Choice: n, the place. -/
def execGangDeadlineExpiry (s : State) : Out :=
  .next (
    match (launchAt s s.choice.n).gang with
    | none => s
    | some g =>
        match (missing s g).foldl (fun b d => match b with | none => some d | some x => some (min x d)) none with
        | none => s
        | some d => if awake s ∧ g.state = 1 ∧ g.dl ≤ (s.gtc - g.armedAt).toNat then gangSend (abortGang s s.choice.n d) { g with miss := BitVec.ofNat 16 d } 2 else s)

/-- GANG_ABORT_MESSAGE: an ABORT of a gang arrives and the device aborts too, one that has accepted the launch and has not armed yet included (R387). Choice: n, the place; m, the missing device that the
message names. -/
def execGangAbortMessage (s : State) : Out :=
  .next (
    match (launchAt s s.choice.n).gang with
    | none => s
    | some g => if g.state = 3 then s else abortGang s s.choice.n s.choice.m)

end Sys2Proof.Machine
end

