-- ==== Sys2Proof/Machine/Csrs.lean ====
section
/-! DEFINITION. The CSRs (spec/03_encoding.md R76, spec/14_control.md R310 to R313, spec/06 R129, spec/08 R151, R153, R155, R156,
spec/13 R285, spec/17 R382, spec/18 R393, spec/24 R442, spec/25 R455): access rights, what each reads as, what a write does. -/

namespace Sys2Proof.Machine

/-- Who may make an access (R310). -/
inductive CsrAcc where
  | all | sup | dbg | none
deriving DecidableEq, Repr

/-- Who may read a CSR: the trap registers, PTROOT, the format range registers, DBGCTL and SLBASE in supervisor mode alone, the trace
registers in a context with DBGP = 1 (R151, R155, R393, R442). -/
def csrReadAcc (n : Nat) : CsrAcc :=
  if n = 0x002 ∨ n = 0x003 ∨ (0x010 ≤ n ∧ n ≤ 0x018) ∨ n = 0x200 ∨ (0x210 ≤ n ∧ n ≤ 0x214) ∨ n = 0x400 ∨ n = 0x408 ∨ n = 0x409 then .sup
  else if 0x410 ≤ n ∧ n ≤ 0x414 then .dbg
  else .all

/-- Who may write a CSR: none where no field is writable in any mode (R310). -/
def csrWriteAcc (n : Nat) : CsrAcc :=
  if (0x004 ≤ n ∧ n ≤ 0x007) ∨ n = 0x202 ∨ n = 0x409 ∨ n = 0x501 ∨ n = 0x603 then .sup
  else if n = 0x001 ∨ n = 0x201 ∨ n = 0x220 ∨ n = 0x403 ∨ n = 0x405 ∨ n = 0x40A ∨ n = 0x413 ∨ n = 0x414 ∨ (0x418 ≤ n ∧ n ≤ 0x41F) ∨
      n = 0x500 ∨ n = 0x502 ∨ (0x600 ≤ n ∧ n ≤ 0x602) ∨ n = 0x604 then .none
  else csrReadAcc n

/-- The access is allowed at the current mode. -/
def csrMay (c : Core) (a : CsrAcc) : Bool :=
  match a with
  | .all => true
  | .sup => c.csr.sup
  | .dbg => c.csr.dbgp
  | .none => false

/-- The bits that a mask selects. -/
def fieldMask (hi lo : Nat) : W64 := BitVec.ofNat 64 ((2 ^ (hi + 1 - lo) - 1) * 2 ^ lo)

/-- KQSTAT: CNTn and OVFn of the eight count queues (R285). -/
def kqStat (c : Core) : W64 :=
  (List.range 8).foldl (fun w n => w ||| (BitVec.ofNat 64 (listGet [] c.sync.kq.toList n).length <<< (8 * n)) |||
    (if c.csr2.kqovf.getLsbD n then (1 : W64) <<< (8 * n + 7) else 0)) 0

/-- The format range register that FRRSEL selects. -/
def frrNow (s : State) : Frr := frrAt s.ms (bits (zext64 (me s).csr2.frrsel) 7 4) (bits (zext64 (me s).csr2.frrsel) 3 0)

/-- GANGST of the launch of the running instance (R382). -/
def gangStat (s : State) : W64 :=
  match (launchAt s (me s).run.inst.launch).gang with
  | none => 0xFFFF0000
  | some g => BitVec.ofNat 64 (65536 * g.miss.toNat + g.state)

/-- RAILOP (R455): the matrix, vector, SRAM and fabric points. -/
def railWord (p : Power) : W64 := (List.range 4).foldl (fun w i => w ||| (zext64 (listGet 0 p.rails.toList i) <<< (8 * i))) 0

/-- The two halves of the trace record that TBIDX selects; zero where it names none (R439). -/
def traceHalf (c : Core) (o : Nat) : W64 := field64 (listGet [] c.dbg.tb c.csrd.tbidx.toNat) o 8

/-- What a CSR reads as; reserved bits and write-only fields are zero (R310). -/
def csrRead (s : State) (n : Nat) : W64 :=
  let c := me s
  let b (x : Bool) (i : Nat) : W64 := if x then (1 : W64) <<< i else 0
  match n with
  | 0x000 => (zext64 c.csr.tocnt <<< 16) ||| b c.csr.dbgp 8 ||| b c.csr.lqto 2 ||| b c.csr.sup 0
  | 0x001 => (zext64 c.csr.hovers <<< 32) |||
      BitVec.ofNat 64 (if isRoot s then (s.ex.val - 256) * 65536 + 256 else s.ex.val * 65536) ||| zext64 c.csr.opt
  | 0x002 => c.csr.cause
  | 0x003 => c.csr.epc
  | 0x004 => zext64 c.csr.dlmax
  | 0x005 => zext64 c.csr.toesc
  | 0x006 => zext64 c.csr.maxred
  | 0x007 => zext64 c.csr.spwin <<< 21
  | 0x010 => c.csr.tseg
  | 0x011 => c.csr.tpos
  | 0x012 => c.csr.tval
  | 0x013 => c.csr.tvec
  | 0x014 => zext64 c.csr.tctl
  | 0x015 => c.csr.sscr.get 0
  | 0x016 => c.csr.sscr.get 1
  | 0x017 => c.csr.sscr.get 2
  | 0x018 => c.csr.sscr.get 3
  | 0x100 => zext64 c.csr.mpace
  | 0x101 => zext64 c.csr.vpace
  | 0x102 => zext64 c.csr.xpace
  | 0x103 => c.csr.estat
  | 0x200 => c.csr2.ptroot
  | 0x201 => c.csr2.xfaddr
  | 0x202 => zext64 c.csr2.xfinfo
  | 0x210 => zext64 c.csr2.frrsel
  | 0x211 => c.csr2.frrbase
  | 0x212 => c.csr2.frrlim
  | 0x213 => c.csr2.frrscb
  | 0x214 => b (frrNow s).en 63 ||| b (frrNow s).ref 62 ||| (zext64 (frrNow s).fmt <<< 8) ||| b (frrNow s).blk 0
  | 0x220 => (match tblGet none s.ctxs (ctxOf s) with
      | none => 0
      | some x => (zext64 x.dies <<< 4) ||| BitVec.ofNat 64 x.share)
  | 0x300 => zext64 c.csr2.rrdepth
  | 0x301 => zext64 c.csr2.ratlate
  | 0x302 => c.csr2.rttbase
  | 0x303 => zext64 c.csr2.rttsz
  | 0x304 => kqStat c
  | 0x400 => zext64 c.csrd.dbgctl
  | 0x401 => c.csrd.bcbase
  | 0x402 => zext64 c.csrd.bcctl
  | 0x403 => c.csrd.bccnt
  | 0x404 => zext64 c.csrd.bcsel
  | 0x405 => BitVec.ofNat 64 (cell c c.csrd.bcsel.toNat)
  | 0x408 => c.csrd.slbase
  | 0x409 => c.csrd.slctl
  | 0x40A => c.csrd.slhead
  | 0x410 => zext64 c.csrd.tbctl
  | 0x411 => c.csrd.tbtrig
  | 0x412 => zext64 c.csrd.tbidx
  | 0x413 => traceHalf c 0
  | 0x414 => traceHalf c 8
  | 0x418 => c.csrd.dstops.get 0
  | 0x419 => c.csrd.dstops.get 1
  | 0x41A => c.csrd.dstops.get 2
  | 0x41B => c.csrd.dstops.get 3
  | 0x41C => zext64 (c.csrd.dstopc.get 0)
  | 0x41D => zext64 (c.csrd.dstopc.get 1)
  | 0x41E => zext64 (c.csrd.dstopc.get 2)
  | 0x41F => zext64 (c.csrd.dstopc.get 3)
  | 0x500 => (zext64 c.csr2.lgen <<< 32) ||| zext64 c.csr2.lnode
  | 0x501 => b s.dev.sched.hopol 32 ||| (zext64 s.dev.sched.predl <<< 16) ||| zext64 s.dev.sched.ageq
  | 0x502 => gangStat s
  | 0x600 => railWord s.dev.power
  | 0x601 => (zext64 s.dev.power.xg <<< 32) ||| (zext64 s.dev.power.vg <<< 16) ||| zext64 s.dev.power.mg
  | 0x602 => (zext64 s.dev.therm.temp <<< 16) ||| (zext64 s.dev.therm.diode <<< 8) ||| zext64 s.dev.therm.worst
  | 0x603 => zext64 s.dev.power.cap
  | 0x604 => (zext64 s.dev.sec.lcs <<< 8) ||| b s.dev.sec.tripped 1 ||| b s.dev.sec.replaceReq 0
  | _ => 0

/-- Change the registers that the instances of the running context share: in the context, on every executor that runs it and in its
images (R312, R393; DEDUCED, log 42). -/
def onCtxCsrs (s : State) (f : Ctxt → Ctxt) (g : Core → Core) : State :=
  let k := ctxOf s
  let s := { s with ctxs := s.ctxs.map (fun (e : Nat × Option Ctxt) => if e.1 = k then (e.1, e.2.map f) else e)
                    cores := s.cores.map (fun (c : Core) => if c.run.live && c.run.inst.ctx == k then g c else c)
                    stopped := s.stopped.map (fun (x : Stopped) => if x.inst.ctx = k then { x with core := g x.core } else x) }
  onMe s g

/-- Change CSRs of the executor. -/
def onCsr (s : State) (f : Csr → Csr) : State := onMe s (fun c => { c with csr := f c.csr })
/-- Change the memory and routing CSRs of the executor. -/
def onCsr2 (s : State) (f : Csr2 → Csr2) : State := onMe s (fun c => { c with csr2 := f c.csr2 })
/-- Change the debug CSRs of the executor. -/
def onCsrD (s : State) (f : CsrD → CsrD) : State := onMe s (fun c => { c with csrd := f c.csrd })

/-- BCCTL after a write: NLOG 11 to 15 is written as 10; DROP clears where the bit is 1 (R442). -/
def bcctlWrite (old : W32) (v : W64) : W32 :=
  let x := v.setWidth 32
  let nlog := if 10 < bits v 3 0 then 10 else x &&& 0xF
  (x &&& 0x80FF0000) ||| nlog ||| (old &&& 0x20000000 &&& ~~~x)

/-- What a write does to a CSR that has no row of its own in the opcode table: RW fields take the written bits, W1C fields clear where
the bit is 1 (R310). -/
def csrWrite (s : State) (n : Nat) (v : W64) : State :=
  match n with
  | 0x000 => onCsr s (fun c => { c with lqto := c.lqto && !v.getLsbD 2 })
  | 0x002 => onCsr s (fun c => { c with cause := v &&& (fieldMask 63 63 ||| fieldMask 11 11 ||| fieldMask 9 0) })
  | 0x003 => onCsr s (fun c => { c with epc := v })
  | 0x004 => onCtxCsrs s (fun x => { x with dlmax := v.setWidth 32 }) (fun c => { c with csr := { c.csr with dlmax := v.setWidth 32 } })
  | 0x005 => onCtxCsrs s (fun x => { x with toesc := v.setWidth 16 }) (fun c => { c with csr := { c.csr with toesc := v.setWidth 16 } })
  | 0x006 =>
      let m : BitVec 16 := if bits v 15 0 < 64 then 64 else v.setWidth 16
      onCtxCsrs s (fun x => { x with maxred := m }) (fun c => { c with csr := { c.csr with maxred := m } })
  | 0x007 =>
      let b : BitVec 34 := v.extractLsb' 21 34
      onCtxCsrs s (fun x => { x with spwin := b }) (fun c => { c with csr := { c.csr with spwin := b } })
  | 0x010 => onCsr s (fun c => { c with tseg := v })
  | 0x011 => onCsr s (fun c => { c with tpos := v &&& (fieldMask 63 32 ||| fieldMask 30 16 ||| fieldMask 5 0) })
  | 0x012 => onCsr s (fun c => { c with tval := v })
  | 0x013 =>
      let t := v &&& fieldMask 63 3
      onCtxCsrs s (fun x => { x with tvec := t }) (fun c => { c with csr := { c.csr with tvec := t } })
  | 0x014 => onCsr s (fun c => { c with tctl := v.setWidth 2 })
  | 0x015 => onCsr s (fun c => { c with sscr := c.sscr.set 0 v })
  | 0x016 => onCsr s (fun c => { c with sscr := c.sscr.set 1 v })
  | 0x017 => onCsr s (fun c => { c with sscr := c.sscr.set 2 v })
  | 0x018 => onCsr s (fun c => { c with sscr := c.sscr.set 3 v })
  | 0x100 => onCsr s (fun c => { c with mpace := v.setWidth 12 })
  | 0x101 => onCsr s (fun c => { c with vpace := v.setWidth 12 })
  | 0x102 => onCsr s (fun c => { c with xpace := v.setWidth 12 })
  | 0x103 => onCsr s (fun c => { c with estat := (v &&& fieldMask 39 0) ||| (c.estat &&& fieldMask 45 40 &&& ~~~v) })
  | 0x200 =>
      let r := v &&& fieldMask 50 16
      onCtxCsrs s (fun x => { x with ptroot := r }) (fun c => { c with csr2 := { c.csr2 with ptroot := r } })
  | 0x211 => onCsr2 s (fun c => { c with frrbase := v &&& fieldMask 50 16 })
  | 0x212 => onCsr2 s (fun c => { c with frrlim := v &&& fieldMask 50 16 })
  | 0x213 => onCsr2 s (fun c => { c with frrscb := v &&& fieldMask 50 4 })
  | 0x300 => onCsr2 s (fun c => { c with rrdepth := v.setWidth 3 })
  | 0x301 => onCsr2 s (fun c => { c with ratlate := v.setWidth 32 })
  | 0x302 => onCsr2 s (fun c => { c with rttbase := v &&& fieldMask 63 4 })
  | 0x303 => onCsr2 s (fun c => { c with rttsz := if 4096 < bits v 12 0 then 4096 else v.setWidth 13 })
  | 0x304 => onCsr2 s (fun c => { c with kqovf := c.kqovf &&&
      ~~~((List.range 8).foldl (fun w i => if v.getLsbD (8 * i + 7) then w ||| ((1 : BitVec 8) <<< i) else w) (0 : BitVec 8)) })
  | 0x400 => onCsrD s (fun c => { c with dbgctl := v.setWidth 5 &&& 0x1A })
  | 0x401 => onCsrD s (fun c => { c with bcbase := v &&& fieldMask 54 6 })
  | 0x402 => onCsrD s (fun c => { c with bcctl := bcctlWrite c.bcctl v })
  | 0x404 => onCsrD s (fun c => { c with bcsel := v.setWidth 9 })
  | 0x408 => onCsrD s (fun c => { c with slbase := v &&& fieldMask 54 12 })
  | 0x409 => onCsrD s (fun c => { c with slctl := (c.slctl &&& fieldMask 63 32) ||| (v &&& fieldMask 3 0) })
  | 0x411 => onCsrD s (fun c => { c with tbtrig := if 2 < bits v 2 0 then v &&& fieldMask 63 3 else v })
  | 0x412 => onCsrD s (fun c => { c with tbidx := v.setWidth 12 })
  | 0x501 => { s with dev := { s.dev with sched := { hopol := v.getLsbD 32, predl := v.extractLsb' 16 16, ageq := v.setWidth 16 } } }
  | 0x603 =>
      let w := bits v 15 0
      { s with dev := { s.dev with power := { s.dev.power with cap := BitVec.ofNat 16 (if 4400 < w then 4400 else if w < 1000 then 1000 else w) } } }
  | _ => s

/-- The checks of a WRCSR, then its effect (R310): PROTECT without the right, or where STOPBK is written 1 with DBGP = 0 (R442). -/
def csrWord (g : Guard) (n : Nat) (a : Reg) (s : State) (f : W64 → State → State) : State :=
  guarded g s (fun s =>
    let c := me s
    if !csrMay c (csrWriteAcc n) || (n == 0x400 && bit (rd s a) 1 && !c.csr.dbgp) then trapControl s (.protect 0)
    else retire (f (rd s a) s))

/-- RDCSR (R310). -/
def execRdcsr (g : Guard) (d : Reg) (num : BitVec 16) (s : State) : Out :=
  .next (guarded g s (fun s =>
    if !csrMay (me s) (csrReadAcc num.toNat) then trapControl s (.protect 0) else retire (wr s d (csrRead s num.toNat))))

/-- WRCSR of a CSR without a row of its own (R310). -/
def execWrcsr (g : Guard) (a : Reg) (num : BitVec 16) (s : State) : Out :=
  .next (csrWord g num.toNat a s (fun v s => csrWrite s num.toNat v))

/-! ## Format range registers (R155, R156) -/

/-- The combinations of FMT and BLK of an enabled range (R155). -/
def frrFmtOk (fmt : Nat) (blk : Bool) : Bool := (fmt == 4 && blk) || fmt == 2 || fmt == 3 || fmt == 5

/-- n bytes from a lie in the memory of a controller: its stack's 48 GiB, or the Stalk range. -/
def inController (ctl a n : Nat) : Bool :=
  if ctl < 12 then decide (ctl * 0xC00000000 ≤ a) && decide (a + n ≤ (ctl + 1) * 0xC00000000)
  else decide (0x040000000000 ≤ a) && decide (a + n ≤ 0x080000000000)

/-- A commit is refused; only the combination of its fields is asked of an enabled one alone, and a range whose LIM lies below its BASE holds no page and
overlaps none (R155; DEDUCED, log 61). -/
def frrRefused (m : MemSys) (ctl idx : Nat) (f : Frr) : Bool :=
  let lo := f.base.toNat
  let hi := f.lim.toNat
  let other (g : Frr) : Bool := g.en && decide (g.base.toNat ≤ g.lim.toNat) && decide (lo ≤ g.lim.toNat) && decide (g.base.toNat ≤ hi)
  (f.en && !frrFmtOk f.fmt.toNat f.blk) ||
    (decide (lo ≤ hi) && (List.range 16).any (fun j => j != idx && other (frrAt m ctl j))) ||
    !inController ctl lo 65536 || !inController ctl hi 65536 ||
    (decide (lo ≤ hi) && sideCount f != 0 && !inController ctl f.scb.toNat ((hi + 65536 - lo) / 128 * sideCount f))

/-- Write back and invalidate the formatted-view lines of a register's range at its controller, enabled or not (R156). -/
def flushRange (m : MemSys) (ctl : Nat) (f : Frr) : MemSys :=
  evictAll ((m.l2.filter (fun e => decide (f.base.toNat ≤ pa50 (e.1 * 128)) && decide (pa50 (e.1 * 128) < f.lim.toNat + 65536) &&
    ctlOf (e.1 * 128) == some ctl && !isRaw (e.1 * 128))).map (fun e => e.1)) m

/-- FRRCTL_COMMIT: commit the staged fields at the controller at once, or refuse them (R155, R156). -/
def frrCommit (v : W64) (s : State) : State :=
  let c := me s
  let ctl := bits (zext64 c.csr2.frrsel) 7 4
  let idx := bits (zext64 c.csr2.frrsel) 3 0
  let old := frrAt s.ms ctl idx
  let new : Frr := { en := bit v 63, fmt := v.extractLsb' 8 4, blk := bit v 0, base := c.csr2.frrbase, lim := c.csr2.frrlim, scb := c.csr2.frrscb, ref := false }
  if frrRefused s.ms ctl idx new then { s with ms := { s.ms with frr := tblSet {} s.ms.frr (16 * ctl + idx) { old with ref := true } } }
  else
    let m := flushRange (flushRange s.ms ctl old) ctl new
    { s with ms := { m with frr := tblSet {} m.frr (16 * ctl + idx) new } }

/-- WRCSR FRRCTL (R155, R156). -/
def execFrrctlCommit (g : Guard) (a : Reg) (s : State) : Out := .next (csrWord g 0x214 a s frrCommit)

/-- FRRSEL selects a register and loads the staged fields from it (R155). -/
def frrSelect (v : W64) (s : State) : State :=
  let f := frrAt s.ms (bits v 7 4) (bits v 3 0)
  onCsr2 s (fun c => { c with frrsel := v.setWidth 8, frrbase := f.base, frrlim := f.lim, frrscb := f.scb })

/-- WRCSR FRRSEL (R155). -/
def execFrrselWrite (g : Guard) (a : Reg) (s : State) : Out := .next (csrWord g 0x210 a s frrSelect)

/-! ## Writes with an action of their own -/

/-- WRCSR XFINFO: REPLAY lets every held engine request be translated again at its next turn (R151, R475). -/
def execXfinfoReplay (g : Guard) (a : Reg) (s : State) : Out :=
  .next (csrWord g 0x202 a s (fun v s => if bit v 8 then onMe s (fun c => { c with held := [] }) else s))

/-- A push to count queue k: a full queue discards it and sets OVFk (R285). -/
def kqPushNow (k : BitVec 3) (v : W64) (s : State) : State :=
  onMe s (fun c =>
    let q := c.sync.kq.get k.toFin
    if q.length < 16 then { c with sync := { c.sync with kq := c.sync.kq.set k.toFin (q ++ [some (v.setWidth 32)]) } }
    else { c with csr2 := { c.csr2 with kqovf := c.csr2.kqovf ||| ((1 : BitVec 8) <<< k.toNat) } })

/-- WRCSR KQPUSH.k (R285). -/
def execKqpush (g : Guard) (a : Reg) (k : BitVec 3) (s : State) : Out := .next (csrWord g (0x308 + k.toNat) a s (kqPushNow k))

/-- A write of TBCTL: POST, MASK and EN; EN = 1 clears FROZEN and arms the trigger again (R438, R439, R442). -/
def tbctlWrite (v : W64) (s : State) : State :=
  onMe s (fun c =>
    let x := v.setWidth 32 &&& 0xFFFF00F1
    if bit v 0 then { c with csrd := { c.csrd with tbctl := x }, dbg := { c.dbg with post := none } }
    else { c with csrd := { c.csrd with tbctl := x ||| (c.csrd.tbctl &&& 2) } })

/-- WRCSR TBCTL (R439). -/
def execTbctlEnableWrite (g : Guard) (a : Reg) (s : State) : Out := .next (csrWord g 0x410 a s tbctlWrite)

end Sys2Proof.Machine
end

