-- ==== Sys2Proof/Machine/Tagged.lean ====
section
/-! DEFINITION. The tagged control words (spec/11_vector_data.md R227 to R230). -/

namespace Sys2Proof.Machine

/-- The checks of a tagged word: inside the window, then a multiple of 8 (R230). -/
def tagAddr (s : State) (va : W64) : Except Trap Nat :=
  if !inWindow (me s) va then .error (.protect va)
  else if va.toNat % 8 ≠ 0 then .error (.misalign va)
  else .ok (winByte (me s) va)

/-- An earlier window store of the control sequencer to the word is still on its way (R351). -/
def tagBlocked (s : State) (a : Nat) : Bool :=
  (me s).reqs.any (fun e => e.sq == .control && overlaps e { pa := a, spad := some s.ex.val, kind := .store (zeros 8) })

/-- The control sequencer's entry among the tag waiters. -/
def myTag (c : Core) (sq : Seq) : Option TagWait := c.spad.waiters.find? (fun t => t.sq == sq)

/-- Leave the waiter list. -/
def tagLeave (c : Core) (sq : Seq) : Core :=
  { c with spad := { c.spad with waiters := c.spad.waiters.filter (fun t => t.sq != sq) } }

/-- Join the waiter list at the tail; the bank serves it at once where its condition holds. -/
def tagJoin (c : Core) (t : TagWait) : Core :=
  tagWake { c with spad := { c.spad with waiters := c.spad.waiters ++ [t] } }

/-- The action of the sequencer's waiter has taken place. -/
def tagDone (c : Core) (sq : Seq) : Bool := match myTag c sq with | some t => t.done.isSome | none => false

/-- The bytes that the action read, and the poison of their word. -/
def tagGot (c : Core) (sq : Seq) : List Byte × Bool := match myTag c sq with | some t => t.done.getD ([], false) | none => ([], false)

/-- LDFW, LDFE and STEF: op 0, 1, 2; `dr` receives the word, `st` the status (R230). An aborted gang keeps the word out of the waiter list, and one
whose action has taken place is OK (R317). -/
def tagWord (op : Nat) (a c dr st : Reg) (data : W64) (e : Bool) (off : BitVec 12) (s : State) : State :=
  let va := ea s a off
  match tagAddr s va with
  | .error t => trapControl s t
  | .ok b =>
      if !waits s && tagBlocked s b then s
      else
        let s := if waits s then s else startWait (traceData s (if op = 2 then 4 else 3) va) (dlOf s c) e st (.tagged op va dr)
        let s := if (myTag (me s) .control).isSome || gangAborted s (me s) then s
          else onMe s (fun k => tagJoin k
            { sq := .control, words := [b / 8], op := op, reads := if op = 2 then [] else (List.range 8).map (fun i => b + i),
              writes := if op = 2 then [(b, leBytes 8 data.toNat)] else [] })
        let leave (s : State) : State := onMe s (fun k => tagLeave k .control)
        let ok (s : State) : State :=
          let g := tagGot (me s) .control
          let s := leave s
          if g.2 then trapControl s (.poison va)
          else if op = 2 then done s st 0
          else done (wr s dr (field64 g.1 0 8)) st 0
        if tagDone (me s) .control then ok (endWait s) else awaiting s st false 1 leave ok

/-- LDFW (R230). -/
def execLdfw (g : Guard) (d a b c : Reg) (e : Bool) (off : BitVec 12) (s : State) : Out :=
  .next (guardedW g s (fun s => tagWord 0 a c d b 0 e off s))

/-- LDFE (R230). -/
def execLdfe (g : Guard) (d a b c : Reg) (e : Bool) (off : BitVec 12) (s : State) : Out :=
  .next (guardedW g s (fun s => tagWord 1 a c d b 0 e off s))

/-- STEF: the word is s[B], the status s[D] (R230). -/
def execStef (g : Guard) (d a b c : Reg) (e : Bool) (off : BitVec 12) (s : State) : Out :=
  .next (guardedW g s (fun s => tagWord 2 a c d d (rd s b) e off s))

/-- A tagged word that never waits, on its scratchpad byte (R230). -/
def tagNow (a : Reg) (off : BitVec 12) (s : State) (f : Nat → State → State) : State :=
  match tagAddr s (ea s a off) with
  | .error t => trapControl s t
  | .ok b => if tagBlocked s b then s else retire (f b s)

/-- STFF: write the word, tag ← full, and serve the waiters (R227, R230). -/
def execStff (g : Guard) (a b : Reg) (off : BitVec 12) (s : State) : Out :=
  .next (guarded g s (fun s => tagNow a off s (fun x s =>
    onMe (traceData s 4 (ea s a off)) (fun c => spWriteTag c x (leBytes 8 (rd s b).toNat)))))

/-- PURGE: tag ← empty, and serve the waiters (R227, R230). -/
def execPurge (g : Guard) (a : Reg) (off : BitVec 12) (s : State) : Out :=
  .next (guarded g s (fun s => tagNow a off s (fun x s => onMe s (fun c => tagWake (spSetTag c (x / 8) false)))))

/-- TAGRD: the tag to s[D], OK to s[B] (R230). -/
def execTagrd (g : Guard) (d a b : Reg) (off : BitVec 12) (s : State) : Out :=
  .next (guarded g s (fun s => tagNow a off s (fun x s =>
    status (wr s d (if spTag (me s) (x / 8) then 1 else 0)) b 0)))

end Sys2Proof.Machine
end

