-- ==== Sys2Proof/Machine/Lanes.lean ====
section
/-! DEFINITION. What the vector words compute lane by lane (spec/10_vector_ops.md R206 to R220): integer and floating words,
compares, conversions, E2M1 quantisation, the reduction tree, scan and permutes. -/

namespace Sys2Proof.Machine

/-! ## Rows -/

/-- The row of a function of the lane number. -/
def rowOf (f : Nat → W32) : Row := Vector.ofFn (fun i : Fin 64 => f i.val)

/-- Lane i of a row; 0 past the end. -/
def lane (r : Row) (i : Nat) : W32 := if h : i < 64 then r.get ⟨i, h⟩ else 0

/-- The row with one value in every lane. -/
def splat (v : W32) : Row := Vector.replicate 64 v

/-- The row of zeros. -/
def zeroRow : Row := splat 0

/-- A mask from a condition on lanes. -/
def maskOf (f : Nat → Bool) : W64 := BitVec.ofFnLE (fun i : Fin 64 => f i.val)

/-- The lanes of a mask in ascending order. -/
def lanesIn (m : W64) : List Nat := (List.range 64).filter (fun i => m.getLsbD i)

/-- The row that 256 bytes hold (R197). -/
def rowFrom (bs : List Byte) : Row := rowOf (fun i => BitVec.ofNat 32 (field bs (4 * i) 4))

/-- The bytes of a row (R197). -/
def rowBytes (r : Row) : List Byte := (List.range 64).flatMap (fun i => leBytes 4 (lane r i).toNat)

/-! ## Integer words (R206) -/

/-- Bits [63:32] of the signed product. -/
def mulhI32 (a b : W32) : W32 := BitVec.ofInt 32 ((a.toInt * b.toInt) / 4294967296)

/-- Signed minimum. -/
def minI32 (a b : W32) : W32 := if b.slt a then b else a
/-- Signed maximum. -/
def maxI32 (a b : W32) : W32 := if a.slt b then b else a
/-- Unsigned minimum. -/
def minU32 (a b : W32) : W32 := if b.ult a then b else a
/-- Unsigned maximum. -/
def maxU32 (a b : W32) : W32 := if a.ult b then b else a

/-- Shift left; 0 from 32 on. -/
def shl32 (a b : W32) : W32 := if 32 ≤ b.toNat then 0 else a <<< b.toNat
/-- Shift right, zero-filled; 0 from 32 on. -/
def shr32 (a b : W32) : W32 := if 32 ≤ b.toNat then 0 else a >>> b.toNat
/-- Shift right, sign-filled; 32 copies of the sign from 32 on. -/
def sra32 (a b : W32) : W32 := if 32 ≤ b.toNat then (if a.msb then BitVec.allOnes 32 else 0) else a.sshiftRight b.toNat

/-- An integer clamped to 32 signed bits. -/
def satI32 (x : Int) : W32 := BitVec.ofInt 32 (max (-2147483648) (min 2147483647 x))

/-- Field e of n bits of a lane (R26). -/
def fieldOf (a : W32) (n e : Nat) : BitVec n := a.extractLsb' (n * e) n

/-- Two 16-bit sums. -/
def addI16x2 (a b : W32) : W32 := (fieldOf a 16 1 + fieldOf b 16 1) ++ (fieldOf a 16 0 + fieldOf b 16 0)

/-- Four 8-bit sums. -/
def addI8x4 (a b : W32) : W32 :=
  (fieldOf a 8 3 + fieldOf b 8 3) ++ (fieldOf a 8 2 + fieldOf b 8 2) ++ (fieldOf a 8 1 + fieldOf b 8 1) ++ (fieldOf a 8 0 + fieldOf b 8 0)

/-- d plus the exact sum of four signed products. -/
def dotI8x4 (a b d : W32) : W32 :=
  d + BitVec.ofInt 32 (((List.range 4).map (fun e => (fieldOf a 8 e).toInt * (fieldOf b 8 e).toInt)).sum)

/-! ## Floating words (R207) -/

/-- |a|, or the canonical NaN. -/
def f32Abs (a : W32) : W32 := if (decF32 a).isNan then nanF32 else a &&& 0x7FFFFFFF
/-- −a, or the canonical NaN. -/
def f32Neg (a : W32) : W32 := if (decF32 a).isNan then nanF32 else a ^^^ 0x80000000
/-- The larger magnitude, or the canonical NaN. -/
def f32MaxAbs (a b : W32) : W32 :=
  if (decF32 a).isNan || (decF32 b).isNan then nanF32 else if (a &&& 0x7FFFFFFF).ult (b &&& 0x7FFFFFFF) then b &&& 0x7FFFFFFF else a &&& 0x7FFFFFFF

/-- Two BF16 products and d, rounded once. -/
def fmaBf16x2 (a b d : W32) : W32 :=
  let p (e : Nat) : Fp := Fp.mul (decBf16 (fieldOf a 16 e)) (decBf16 (fieldOf b 16 e))
  encF32 (Fp.add (p 0) (Fp.add (p 1) (decF32 d)))

/-! ## Compares (R209) -/

/-- a = b of FP32. -/
def f32Eq (a b : W32) : Bool := Fp.eq (decF32 a) (decF32 b)
/-- a < b of FP32. -/
def f32Lt (a b : W32) : Bool := Fp.lt (decF32 a) (decF32 b)
/-- a ≤ b of FP32. -/
def f32Le (a b : W32) : Bool := Fp.le (decF32 a) (decF32 b)
/-- Some operand is a NaN. -/
def f32Un (a b : W32) : Bool := (decF32 a).isNan || (decF32 b).isNan

/-! ## Conversions (R213, R214) -/

/-- INT32 to FP32. -/
def cvtF32I32 (a : W32) : W32 := encF32 (fpInt a.toInt)
/-- FP32 to INT32, toward zero. -/
def cvtI32Rz (a : W32) : W32 := BitVec.ofInt 32 (toIntRz (-2147483648) 2147483647 (decF32 a))
/-- FP32 to INT32, to nearest. -/
def cvtI32Rne (a : W32) : W32 := BitVec.ofInt 32 (toIntRne (-2147483648) 2147483647 (decF32 a))
/-- FP32 to BF16. -/
def cvtBf16 (a : W32) : W32 := (encBf16 (decF32 a)).setWidth 32
/-- FP32 to FP16. -/
def cvtF16 (a : W32) : W32 := (encF16 (decF32 a)).setWidth 32
/-- FP32 to E4M3. -/
def cvtE4m3 (a : W32) : W32 := (encE4m3 (decF32 a)).setWidth 32
/-- FP32 to E5M2. -/
def cvtE5m2 (a : W32) : W32 := (encE5m2 (decF32 a)).setWidth 32
/-- BF16 to FP32. -/
def cvtF32Bf16 (a : W32) : W32 := encF32 (decBf16 (fieldOf a 16 0))
/-- FP16 to FP32. -/
def cvtF32F16 (a : W32) : W32 := encF32 (decF16 (fieldOf a 16 0))
/-- E4M3 to FP32. -/
def cvtF32E4m3 (a : W32) : W32 := encF32 (decE4m3 (fieldOf a 8 0))
/-- E5M2 to FP32. -/
def cvtF32E5m2 (a : W32) : W32 := encF32 (decE5m2 (fieldOf a 8 0))
/-- FP32 to INT8. -/
def cvtI8 (a : W32) : W32 := (BitVec.ofInt 8 (toIntRne (-128) 127 (decF32 a))).setWidth 32
/-- INT8 to FP32. -/
def cvtF32I8 (a : W32) : W32 := encF32 (fpInt (fieldOf a 8 0).toInt)

/-! ## E2M1 quantisation (R30, R215 to R217) -/

/-- The magnitude of a finite value in units of 2^−300; 0 for the others. -/
def mag300 : Fp → Nat
  | .fin _ m e => m * pow2 (e + 300)
  | _ => 0

/-- The signed value of a finite value in units of 2^−300. -/
def val300 : Fp → Int
  | .fin n m e => sgn n (m * pow2 (e + 300))
  | _ => 0

/-- The code of 0 to 7 nearest to a magnitude, a tie to the even code; `x` is half the scale in the same units. -/
def nearestMag (mag x : Nat) : Nat :=
  let d (c : Nat) : Nat := if mag ≤ e2m1Twice c * x then e2m1Twice c * x - mag else mag - e2m1Twice c * x
  (List.range 8).foldl (fun b c => if d c < d b ∨ (d c = d b ∧ c % 2 = 0) then c else b) 0

/-- NearestCode of v / 2^e (R30). -/
def nearestCode (v : Fp) (e : Int) : Nat :=
  let c := nearestMag (mag300 v) (pow2 (e + 299))
  if c = 0 then 0 else if v.isNeg then c + 8 else c

/-- The smallest integer e with a ≤ 6 × 2^e for a magnitude in units of 2^−300, clamped; −127 for 0. -/
def quantExp (a : Nat) : Int :=
  if a = 0 then -127
  else
    let b := bitLen a
    let k : Int := if a * 8 ≤ 6 * 2 ^ b then (b : Int) - 3 else (b : Int) - 2
    min (max (k - 300) (-127)) 127

/-- The lowest index whose magnitude is largest. -/
def outlier (mags : List Nat) : Nat :=
  (List.range mags.length).foldl (fun b j => if listGet 0 mags b < listGet 0 mags j then j else b) 0

/-- Quantise a block of 32 values: scale, spare, codes (R216). -/
def quantBlock (xs : List Fp) : Byte × Byte × List Nat :=
  if xs.any (fun x => match x with | .fin _ _ _ => false | _ => true) then (0xFF, 0, List.replicate 32 0)
  else
    let mags := xs.map mag300
    let o := outlier mags
    let a2 := ((List.range 32).map (fun j => if j = o then 0 else listGet 0 mags j)).foldl max 0
    let e := quantExp a2
    let scale : Byte := BitVec.ofInt 8 (e + 127)
    let codes := xs.map (fun x => nearestCode x e)
    let x := listGet .nan xs o
    let sp := encE4m3 (match x with | .fin n m q => .fin n m (q - e) | v => v)
    let err (c : Nat) : Nat := (val300 (decE2m1 scale sp c) - val300 x).natAbs
    if err 8 < err (listGet 0 codes o) then (scale, sp, listSet codes o 8) else (scale, 0, codes)

/-- VQNT.E2M1: the code register and the side register (R215, R216). -/
def quantRow (a : Row) : Row × Row :=
  let b (k : Nat) := quantBlock ((List.range 32).map (fun j => decF32 (lane a (32 * k + j))))
  let b0 := b 0
  let b1 := b 1
  let codes := packCodes 4 (b0.2.2 ++ b1.2.2)
  let side := [b0.1, b0.2.1, b1.1, b1.2.1]
  (rowOf (fun i => BitVec.ofNat 32 (field codes (4 * i) 4)), rowOf (fun i => if i = 0 then BitVec.ofNat 32 (leNat side) else 0))

/-- VDQNT.E2M1 (R217). -/
def dequantRow (a b : Row) : Row :=
  let codes := (List.range 8).flatMap (fun i => leBytes 4 (lane a i).toNat)
  let side := leBytes 4 (lane b 0).toNat
  rowOf (fun i => encF32 (decE2m1 (listGet 0 side (2 * (i / 32))) (listGet 0 side (2 * (i / 32) + 1)) (elemCode 4 codes i)))

/-! ## Reductions and scan (R35, R218, R219) -/

/-- One level of the tree. -/
def treeLevel (op : W32 → W32 → W32) : List W32 → List W32
  | x :: y :: r => op x y :: treeLevel op r
  | l => l

/-- n levels of the tree over a list of 2^n values. -/
def tree (op : W32 → W32 → W32) : Nat → List W32 → W32
  | 0, l => l.headD 0
  | n + 1, l => tree op n (treeLevel op l)

/-- The six-level tree over a row, inactive lanes at the identity. -/
def reduce (op : W32 → W32 → W32) (identity : W32) (act : W64) (a : Row) : W32 :=
  tree op 6 ((List.range 64).map (fun i => if act.getLsbD i then lane a i else identity))

/-- The prefix sums of the active lanes, from lane i on. -/
def scanFrom (act : W64) (a : Row) : Nat → Nat → W32 → List W32
  | 0, _, _ => []
  | n + 1, i, acc =>
      let acc := if act.getLsbD i then acc + lane a i else acc
      acc :: scanFrom act a n (i + 1) acc

/-- VSCAN.I32; the inactive lanes' values are not written. -/
def scanRow (act : W64) (a : Row) : Row := rowOf (fun i => listGet 0 (scanFrom act a 64 0 0) i)

/-! ## Permutes and constants (R220) -/

/-- VPERM. -/
def permRow (a b : Row) : Row := rowOf (fun i => lane a (lane b i).toNat)
/-- VROT. -/
def rotRow (a : Row) (n : Nat) : Row := rowOf (fun i => lane a ((i + n) % 64))
/-- VIOTA. -/
def iotaRow (imm : BitVec 20) : Row := rowOf (fun i => imm.signExtend 32 + BitVec.ofNat 32 i)
/-- VMOVI's constant. -/
def moviVal (imm : BitVec 20) : W32 :=
  if imm.msb then ((imm.setWidth 19).setWidth 32) <<< 13 else (imm.setWidth 19).signExtend 32

end Sys2Proof.Machine
end

