-- ==== Sys2Proof/Machine/Vector.lean ====
section
/-! DEFINITION. The vector words that compute (spec/10_vector_ops.md R197 to R220, spec/03_encoding.md R57 to R65, R71): the issue of one
repeat, its stalls on pending registers and stream rows (R203, R204, R234), its results in flight. -/

namespace Sys2Proof.Machine

/-! ## Operands -/

/-- The active mask as it stands (R210). -/
def actMask (c : Core) : W64 := mreg c.vec c.vec.act.toNat

/-- The lanes that a repeat writes (R64). -/
def lanesOf (c : Core) (m : Bool) : W64 := if m then actMask c else allLanes

/-- A word with M = 1 whose active mask is all zeros is nullified (R64). -/
def nullified (c : Core) (m : Bool) : Bool := m && actMask c == 0

/-- What a register field names on repeat n: a v register below 768, or 768 plus the number of a q register (R60, R61). -/
def srcAt (r : BitVec 10) (step : BitVec 4) (n : Nat) : Nat := if r.toNat < 768 then vidx r step n else r.toNat

/-- The repeat index of the vector sequencer. -/
def repOf (s : State) : Nat := (me s).ve.rep

/-- A v register is the destination of a gather that is not visible (R234). -/
def pendingReg (v : Vec) (n : Nat) : Bool := v.gathers.any (fun g => g.load && g.dst == n)

/-- Gathers and scatters outstanding (R234). -/
def outstanding (c : Core) : Nat := (c.vec.gathers.filter (fun g => if g.load then !g.done else !scatDone c g)).length

/-! ## Stalls -/

/-- What a stall leaves: the repeat goes on, or it stays or has trapped. -/
inductive Gate where
  | go (s : State)
  | stop (s : State)

/-- Go on with f where the repeat goes on. -/
def Gate.andThen (g : Gate) (f : State → State) : State :=
  match g with
  | .go s => f s
  | .stop s => s

/-- Set an ESTAT bit of the executor. -/
def setEst (s : State) (n : Nat) : State := onMe s (fun c => setEstat c n)

/-- The outcomes of an engine stall: `late` acts on an expiry or an abort, the trap only sets the ESTAT bit (R319). -/
def stall (o : EOut) (est : Nat) (late : State → Nat → State) : Gate :=
  match o with
  | .go s => .go s
  | .stay s => .stop s
  | .trap s => .stop (trapEngine (setEst s est) .vector .deadline)
  | .expired s => .go (late (setEst s est) est)
  | .aborted s => let (r, s) := freeNat s 64; .go (late s r)

/-- A gather stall has expired: every pending register is written with the lanes that have arrived and zero in the others, and the segment is abandoned after this word (R234). -/
def gatherExpire (s : State) (reason : Nat) : State :=
  let s := onMe (landVec s) (dropLaneHold true)
  let s := onVec s (fun v => (v.gathers.filter (fun g => g.load)).foldl landGather { v with gathers := v.gathers.filter (fun g => !g.load) })
  onEng (abandonAfter s .vector reason) .vector (fun e => { e with gdead := true })

/-- The gathers of registers that a repeat names become visible once every lane has arrived: no slot passes while it stalls (R199, R234; DEDUCED, log 21). -/
def showGathers (regs : List Nat) (v : Vec) : Vec :=
  let (gs, left) := v.gathers.partition (fun g => g.load && g.done && regs.contains g.dst)
  gs.foldl landGather { v with gathers := left }

/-- The wait of a repeat on the pending registers that it names: those of gathers with lanes still to arrive. Nothing lands here, as no slot passes. -/
def pendGate (s : State) (regs : List Nat) : Gate :=
  stall (waitFor s .vector (.gather regs false) false (!regs.any (pendingReg (showGathers regs (me s).vec)))) 42 gatherExpire

/-- The registers as a repeat that names some of them reads them in its slot: what is due has landed, and the gathers of those it names have. -/
def landed (s : State) (regs : List Nat) : State := onVec (landVec s) (showGathers regs)

/-- The wait of a gather or scatter for a free place. -/
def ninthGate (s : State) : Gate :=
  stall (waitFor s .vector (.gather [] true) false (decide (outstanding (me s) < 8))) 42 gatherExpire

/-- A stream read at place i of the current repeat supplies zero (R204). -/
def qDead (e : Eng) (i : Nat) : Bool :=
  match e.qdead with
  | none => false
  | some (r, j) => decide (r < e.rep) || (e.rep == r && decide (j ≤ i))

/-- The rows of the sources in order, q registers popped; or the first place whose row is missing and whether its stream is exhausted
or unbound (R63, R188, R203). -/
def takeRows (e : Eng) : List Nat → Nat → Core → Except (Nat × Bool) (List (Row × Option W64) × Core)
  | [], _, c => .ok ([], c)
  | x :: r, i, c =>
      if x < 768 then
        match takeRows e r (i + 1) c with
        | .error y => .error y
        | .ok (rs, c') => .ok ((vreg c.vec x, if tblGet false c.vec.vpoison x then some 0 else none) :: rs, c')
      else if qDead e i then
        match takeRows e r (i + 1) c with
        | .error y => .error y
        | .ok (rs, c') => .ok ((zeroRow, none) :: rs, c')
      else
        match strmAt c (x - 768) with
        | none => .error (i, true)
        | some st =>
            match st.rows with
            | [] => .error (i, decide (strmTotal st.slot ≤ st.pos))
            | row :: rest =>
                match takeRows e r (i + 1) (setStrm c (x - 768) (some { st with rows := rest, pos := st.pos + 1 })) with
                | .error y => .error y
                | .ok (rs, c') => .ok (row :: rs, c')

/-- The stream read at place i has expired: it and the later ones of the word supply zero; the segment is abandoned after the word. -/
def streamExpire (i : Nat) (s : State) (reason : Nat) : State :=
  onEng (abandonAfter s .vector reason) .vector (fun e => { e with qdead := some (e.rep, i) })

/-- The wait of a repeat for the rows that it reads (R203, R204). -/
def streamGate (s : State) (srcs : List Nat) : Gate :=
  match takeRows (me s).ve srcs 0 (me s) with
  | .ok _ => stall (waitFor s .vector (.stream srcs) false true) 40 (streamExpire 0)
  | .error (i, true) => stall (expireNow s .vector) 40 (streamExpire i)
  | .error (i, false) => stall (waitFor s .vector (.stream srcs) false false) 40 (streamExpire i)

/-! ## One repeat -/

/-- A result of the repeat in flight: destination, latency, lanes, row, mask. -/
def result (s : State) (dest : IrbDest) (lat : Nat) (lanes : W64) (x : Row) (mk : W64) : State :=
  onVec s (fun v => { v with irb := v.irb ++ [{ dest := dest, due := v.slot + lat, order := v.order, lanes := lanes, value := x, mask := mk }]
                             order := v.order + 1 })

/-- A repeat reads poison: the active mask where it is gated, a row or register it names, or a mask it reads; TVAL is the address of a
stream's row and zero for a register (R405, R406). -/
def readsPoison (c : Core) (m : Bool) (rows : List (Row × Option W64)) (masks : List Nat) : Option W64 :=
  if m && tblGet false c.vec.vpoison (1000 + c.vec.act.toNat) then some 0
  else
    match rows.findSome? (fun x : Row × Option W64 => x.2) with
    | some a => some a
    | none => if masks.any (fun k => tblGet false c.vec.vpoison (1000 + k)) then some 0 else none

/-- Issue one repeat: stall on the pending registers it names; what is due lands in its slot; a nullified repeat takes its slot; else its stream rows,
the poison of what it reads, its effect. A repeat that stalls or traps takes no slot, so nothing lands for it (R199, R400). `eff` answers a trap at
the schedule cycle or the state after the effect. -/
def issue (s : State) (m : Bool) (rpt : Nat) (srcs names masks : List Nat) (eff : State → List Row → Except Trap State) : State :=
  let regs := (srcs ++ names).filter (fun n => decide (n < 768))
  (pendGate s regs).andThen (fun s =>
    if nullified (me (landed s regs)) m then retireEng (landed s regs) .vector rpt
    else
      (streamGate s srcs).andThen (fun s =>
        let u := landed s regs
        match takeRows (me u).ve srcs 0 (me u) with
        | .error _ => s
        | .ok (rows, c) =>
            match readsPoison (me u) m rows masks with
            | some a => engTrap s .vector (.poison a)
            | none =>
                (match eff (setMe u c) (rows.map (fun x : Row × Option W64 => x.1)) with
                 | .error t => engTrap s .vector t
                 | .ok u => retireEng u .vector rpt)))

/-- Row number i of a list. -/
def row (l : List Row) (i : Nat) : Row := listGet zeroRow l i

/-- The register that a destination field names on this repeat. -/
def dstAt (s : State) (r : BitVec 10) (h : VH) : Nat := vidx r h.step (repOf s)

/-- A word that writes one register from source rows. -/
def vword (h : VH) (vd : BitVec 10) (srcs : List (BitVec 10)) (lat : Nat) (f : Core → List Row → Row) (s : State) : State :=
  let n := repOf s
  let d := dstAt s vd h
  issue s h.m h.rpt.toNat (srcs.map (fun r => srcAt r h.step n)) [d] [] (fun s rows =>
    .ok (result s (.reg d) lat (lanesOf (me s) h.m) (f (me s) rows) 0))

/-- Lane by lane from one source. -/
def v1 (h : VH) (vd va : BitVec 10) (lat : Nat) (f : W32 → W32) (s : State) : State :=
  vword h vd [va] lat (fun _ l => rowOf (fun i => f (lane (row l 0) i))) s

/-- Lane by lane from two sources. -/
def v2 (h : VH) (vd va vb : BitVec 10) (lat : Nat) (f : W32 → W32 → W32) (s : State) : State :=
  vword h vd [va, vb] lat (fun _ l => rowOf (fun i => f (lane (row l 0) i) (lane (row l 1) i))) s

/-- Lane by lane from two sources and VD. -/
def v3 (h : VH) (vd va vb : BitVec 10) (lat : Nat) (f : W32 → W32 → W32 → W32) (s : State) : State :=
  vword h vd [va, vb, vd] lat (fun _ l => rowOf (fun i => f (lane (row l 0) i) (lane (row l 1) i) (lane (row l 2) i))) s

/-- A compare into a mask (R209). -/
def vcmp (h : VH) (md : BitVec 4) (va vb : BitVec 10) (f : W32 → W32 → Bool) (s : State) : State :=
  let n := repOf s
  issue s h.m h.rpt.toNat [srcAt va h.step n, srcAt vb h.step n] [] [] (fun s l =>
    .ok (result s (.mask md.toNat) 2 (lanesOf (me s) h.m) zeroRow (maskOf (fun i => f (lane (row l 0) i) (lane (row l 1) i)))))

/-- A reduction, its result in every lane that the repeat writes (R218). -/
def vred (h : VH) (vd va : BitVec 10) (op : W32 → W32 → W32) (identity : W32) (s : State) : State :=
  vword h vd [va] 8 (fun c l => splat (reduce op identity (lanesOf c h.m) (row l 0))) s

/-! ## The words -/

/-- VNOP: a slot (R71). -/
def execVnop (rpt : BitVec 6) (s : State) : Out := .next (retireEng (landVec s) .vector rpt.toNat)

/-- VADD.I32. -/
def execVaddI32 (h : VH) (vd va vb : BitVec 10) (s : State) : Out := .next (v2 h vd va vb 2 (fun a b => a + b) s)
/-- VSUB.I32. -/
def execVsubI32 (h : VH) (vd va vb : BitVec 10) (s : State) : Out := .next (v2 h vd va vb 2 (fun a b => a - b) s)
/-- VMUL.I32. -/
def execVmulI32 (h : VH) (vd va vb : BitVec 10) (s : State) : Out := .next (v2 h vd va vb 4 (fun a b => a * b) s)
/-- VMULH.I32. -/
def execVmulhI32 (h : VH) (vd va vb : BitVec 10) (s : State) : Out := .next (v2 h vd va vb 4 mulhI32 s)
/-- VMIN.I32. -/
def execVminI32 (h : VH) (vd va vb : BitVec 10) (s : State) : Out := .next (v2 h vd va vb 2 minI32 s)
/-- VMAX.I32. -/
def execVmaxI32 (h : VH) (vd va vb : BitVec 10) (s : State) : Out := .next (v2 h vd va vb 2 maxI32 s)
/-- VMINU.I32. -/
def execVminuI32 (h : VH) (vd va vb : BitVec 10) (s : State) : Out := .next (v2 h vd va vb 2 minU32 s)
/-- VMAXU.I32. -/
def execVmaxuI32 (h : VH) (vd va vb : BitVec 10) (s : State) : Out := .next (v2 h vd va vb 2 maxU32 s)
/-- VAND. -/
def execVand (h : VH) (vd va vb : BitVec 10) (s : State) : Out := .next (v2 h vd va vb 2 (fun a b => a &&& b) s)
/-- VOR. -/
def execVor (h : VH) (vd va vb : BitVec 10) (s : State) : Out := .next (v2 h vd va vb 2 (fun a b => a ||| b) s)
/-- VXOR. -/
def execVxor (h : VH) (vd va vb : BitVec 10) (s : State) : Out := .next (v2 h vd va vb 2 (fun a b => a ^^^ b) s)
/-- VSHL. -/
def execVshl (h : VH) (vd va vb : BitVec 10) (s : State) : Out := .next (v2 h vd va vb 2 shl32 s)
/-- VSHR. -/
def execVshr (h : VH) (vd va vb : BitVec 10) (s : State) : Out := .next (v2 h vd va vb 2 shr32 s)
/-- VSRA. -/
def execVsra (h : VH) (vd va vb : BitVec 10) (s : State) : Out := .next (v2 h vd va vb 2 sra32 s)
/-- VADDS.I32. -/
def execVaddsI32 (h : VH) (vd va vb : BitVec 10) (s : State) : Out := .next (v2 h vd va vb 2 (fun a b => satI32 (a.toInt + b.toInt)) s)
/-- VSUBS.I32. -/
def execVsubsI32 (h : VH) (vd va vb : BitVec 10) (s : State) : Out := .next (v2 h vd va vb 2 (fun a b => satI32 (a.toInt - b.toInt)) s)
/-- VADD.I16X2. -/
def execVaddI16x2 (h : VH) (vd va vb : BitVec 10) (s : State) : Out := .next (v2 h vd va vb 2 addI16x2 s)
/-- VADD.I8X4. -/
def execVaddI8x4 (h : VH) (vd va vb : BitVec 10) (s : State) : Out := .next (v2 h vd va vb 2 addI8x4 s)
/-- VDOT.I8X4. -/
def execVdotI8x4 (h : VH) (vd va vb : BitVec 10) (s : State) : Out := .next (v3 h vd va vb 4 dotI8x4 s)

/-- VADD.F32. -/
def execVaddF32 (h : VH) (vd va vb : BitVec 10) (s : State) : Out := .next (v2 h vd va vb 4 f32Add s)
/-- VSUB.F32. -/
def execVsubF32 (h : VH) (vd va vb : BitVec 10) (s : State) : Out := .next (v2 h vd va vb 4 f32Sub s)
/-- VMUL.F32. -/
def execVmulF32 (h : VH) (vd va vb : BitVec 10) (s : State) : Out := .next (v2 h vd va vb 4 f32Mul s)
/-- VFMA.F32: VD is read at issue. -/
def execVfmaF32 (h : VH) (vd va vb : BitVec 10) (s : State) : Out := .next (v3 h vd va vb 4 f32Fma s)
/-- VMIN.F32. -/
def execVminF32 (h : VH) (vd va vb : BitVec 10) (s : State) : Out := .next (v2 h vd va vb 2 f32Min s)
/-- VMAX.F32. -/
def execVmaxF32 (h : VH) (vd va vb : BitVec 10) (s : State) : Out := .next (v2 h vd va vb 2 f32Max s)
/-- VRCP.F32. -/
def execVrcpF32 (h : VH) (vd va : BitVec 10) (s : State) : Out := .next (v1 h vd va 12 f32Rcp s)
/-- VRSQ.F32. -/
def execVrsqF32 (h : VH) (vd va : BitVec 10) (s : State) : Out := .next (v1 h vd va 12 f32Rsqrt s)
/-- VEXP2.F32. -/
def execVexp2F32 (h : VH) (vd va : BitVec 10) (s : State) : Out := .next (v1 h vd va 12 f32Exp2 s)
/-- VLOG2.F32. -/
def execVlog2F32 (h : VH) (vd va : BitVec 10) (s : State) : Out := .next (v1 h vd va 12 f32Log2 s)
/-- VABS.F32. -/
def execVabsF32 (h : VH) (vd va : BitVec 10) (s : State) : Out := .next (v1 h vd va 2 f32Abs s)
/-- VNEG.F32. -/
def execVnegF32 (h : VH) (vd va : BitVec 10) (s : State) : Out := .next (v1 h vd va 2 f32Neg s)
/-- VFMA.BF16X2. -/
def execVfmaBf16x2 (h : VH) (vd va vb : BitVec 10) (s : State) : Out := .next (v3 h vd va vb 4 fmaBf16x2 s)
/-- VMAXABS.F32. -/
def execVmaxabsF32 (h : VH) (vd va vb : BitVec 10) (s : State) : Out := .next (v2 h vd va vb 2 f32MaxAbs s)

/-- VCMPEQ.I32. -/
def execVcmpeqI32 (h : VH) (md : BitVec 4) (va vb : BitVec 10) (s : State) : Out := .next (vcmp h md va vb (fun a b => a == b) s)
/-- VCMPLT.I32. -/
def execVcmpltI32 (h : VH) (md : BitVec 4) (va vb : BitVec 10) (s : State) : Out := .next (vcmp h md va vb (fun a b => a.slt b) s)
/-- VCMPLTU.I32. -/
def execVcmpltuI32 (h : VH) (md : BitVec 4) (va vb : BitVec 10) (s : State) : Out := .next (vcmp h md va vb (fun a b => a.ult b) s)
/-- VCMPEQ.F32. -/
def execVcmpeqF32 (h : VH) (md : BitVec 4) (va vb : BitVec 10) (s : State) : Out := .next (vcmp h md va vb f32Eq s)
/-- VCMPLT.F32. -/
def execVcmpltF32 (h : VH) (md : BitVec 4) (va vb : BitVec 10) (s : State) : Out := .next (vcmp h md va vb f32Lt s)
/-- VCMPLE.F32. -/
def execVcmpleF32 (h : VH) (md : BitVec 4) (va vb : BitVec 10) (s : State) : Out := .next (vcmp h md va vb f32Le s)
/-- VCMPUN.F32. -/
def execVcmpunF32 (h : VH) (md : BitVec 4) (va vb : BitVec 10) (s : State) : Out := .next (vcmp h md va vb f32Un s)

/-- VMACT: the active mask from the next slot (R210). -/
def execVmact (md : BitVec 4) (s : State) : Out := .next (retireEng (onVec (landVec s) (fun v => { v with act := md })) .vector 0)

/-- VMLOG: bit i from the truth table (R211). -/
def execVmlog (h : VH) (md tt ma mb : BitVec 4) (s : State) : Out :=
  .next (issue s h.m h.rpt.toNat [] [] [ma.toNat, mb.toNat] (fun s _ =>
    let a := mreg (me s).vec ma.toNat
    let b := mreg (me s).vec mb.toNat
    .ok (result s (.mask md.toNat) 1 (lanesOf (me s) h.m) zeroRow
      (maskOf (fun i => tt.getLsbD ((if a.getLsbD i then 2 else 0) + (if b.getLsbD i then 1 else 0)))))))

/-- VSEL: every lane, by its bit of the active mask (R212). -/
def execVsel (h : VH) (vd va vb : BitVec 10) (s : State) : Out :=
  .next (
    let n := repOf s
    let d := dstAt s vd h
    issue s false h.rpt.toNat [srcAt va h.step n, srcAt vb h.step n] [d] [(me s).vec.act.toNat] (fun s l =>
      .ok (result s (.reg d) 2 allLanes (mergeRow (actMask (me s)) (row l 1) (row l 0)) 0)))

/-- VCVT.F32.I32. -/
def execVcvtF32I32 (h : VH) (vd va : BitVec 10) (s : State) : Out := .next (v1 h vd va 3 cvtF32I32 s)
/-- VCVT.I32.F32.RZ. -/
def execVcvtI32F32Rz (h : VH) (vd va : BitVec 10) (s : State) : Out := .next (v1 h vd va 3 cvtI32Rz s)
/-- VCVT.I32.F32.RNE. -/
def execVcvtI32F32Rne (h : VH) (vd va : BitVec 10) (s : State) : Out := .next (v1 h vd va 3 cvtI32Rne s)
/-- VCVT.BF16.F32. -/
def execVcvtBf16F32 (h : VH) (vd va : BitVec 10) (s : State) : Out := .next (v1 h vd va 3 cvtBf16 s)
/-- VCVT.F16.F32. -/
def execVcvtF16F32 (h : VH) (vd va : BitVec 10) (s : State) : Out := .next (v1 h vd va 3 cvtF16 s)
/-- VCVT.E4M3.F32. -/
def execVcvtE4m3F32 (h : VH) (vd va : BitVec 10) (s : State) : Out := .next (v1 h vd va 3 cvtE4m3 s)
/-- VCVT.E5M2.F32. -/
def execVcvtE5m2F32 (h : VH) (vd va : BitVec 10) (s : State) : Out := .next (v1 h vd va 3 cvtE5m2 s)
/-- VCVT.F32.BF16. -/
def execVcvtF32Bf16 (h : VH) (vd va : BitVec 10) (s : State) : Out := .next (v1 h vd va 3 cvtF32Bf16 s)
/-- VCVT.F32.F16. -/
def execVcvtF32F16 (h : VH) (vd va : BitVec 10) (s : State) : Out := .next (v1 h vd va 3 cvtF32F16 s)
/-- VCVT.F32.E4M3. -/
def execVcvtF32E4m3 (h : VH) (vd va : BitVec 10) (s : State) : Out := .next (v1 h vd va 3 cvtF32E4m3 s)
/-- VCVT.F32.E5M2. -/
def execVcvtF32E5m2 (h : VH) (vd va : BitVec 10) (s : State) : Out := .next (v1 h vd va 3 cvtF32E5m2 s)
/-- VCVT.I8.F32. -/
def execVcvtI8F32 (h : VH) (vd va : BitVec 10) (s : State) : Out := .next (v1 h vd va 3 cvtI8 s)
/-- VCVT.F32.I8. -/
def execVcvtF32I8 (h : VH) (vd va : BitVec 10) (s : State) : Out := .next (v1 h vd va 3 cvtF32I8 s)

/-- VQNT.E2M1: the codes to VD and the side bytes to VB (R216). -/
def execVqntE2m1 (h : VH) (vd va vb : BitVec 10) (s : State) : Out :=
  .next (
    let n := repOf s
    let d := dstAt s vd h
    let b := dstAt s vb h
    issue s false h.rpt.toNat [srcAt va h.step n] [d, b] [] (fun s l =>
      let q := quantRow (row l 0)
      .ok (result (result s (.reg d) 8 allLanes q.1 0) (.reg b) 8 allLanes q.2 0)))

/-- VDQNT.E2M1 (R217). -/
def execVdqntE2m1 (h : VH) (vd va vb : BitVec 10) (s : State) : Out :=
  .next (vword { h with m := false } vd [va, vb] 4 (fun _ l => dequantRow (row l 0) (row l 1)) s)

/-- VREDADD.F32. -/
def execVredaddF32 (h : VH) (vd va : BitVec 10) (s : State) : Out := .next (vred h vd va f32Add 0x80000000 s)
/-- VREDMAX.F32. -/
def execVredmaxF32 (h : VH) (vd va : BitVec 10) (s : State) : Out := .next (vred h vd va f32Max 0xFF800000 s)
/-- VREDADD.I32. -/
def execVredaddI32 (h : VH) (vd va : BitVec 10) (s : State) : Out := .next (vred h vd va (fun a b => a + b) 0 s)
/-- VSCAN.I32. -/
def execVscanI32 (h : VH) (vd va : BitVec 10) (s : State) : Out :=
  .next (vword h vd [va] 8 (fun c l => scanRow (lanesOf c h.m) (row l 0)) s)

/-- VPERM. -/
def execVperm (h : VH) (vd va vb : BitVec 10) (s : State) : Out := .next (vword h vd [va, vb] 4 (fun _ l => permRow (row l 0) (row l 1)) s)
/-- VROT. -/
def execVrot (h : VH) (vd va : BitVec 10) (n : BitVec 6) (s : State) : Out := .next (vword h vd [va] 3 (fun _ l => rotRow (row l 0) n.toNat) s)
/-- VBCAST. -/
def execVbcast (h : VH) (vd va : BitVec 10) (n : BitVec 6) (s : State) : Out :=
  .next (vword h vd [va] 3 (fun _ l => splat (lane (row l 0) n.toNat)) s)
/-- VIOTA. -/
def execViota (h : VH) (vd : BitVec 10) (imm : BitVec 20) (s : State) : Out := .next (vword h vd [] 2 (fun _ _ => iotaRow imm) s)
/-- VMOVI. -/
def execVmovi (h : VH) (vd : BitVec 10) (imm : BitVec 20) (s : State) : Out := .next (vword h vd [] 2 (fun _ _ => splat (moviVal imm)) s)
/-- VMOV. -/
def execVmov (h : VH) (vd va : BitVec 10) (s : State) : Out := .next (v1 h vd va 2 (fun a => a) s)

end Sys2Proof.Machine
end

