-- ==== Sys2Proof/Machine/VecMem.lean ====
section
/-! DEFINITION. The vector words that reach memory (spec/11_vector_data.md R227 to R238, spec/14 R307): scratchpad and tagged words, gathers
and scatters, the deferral queue, VSETA, and the events of their stalls. -/

namespace Sys2Proof.Machine

/-! ## Requests held at a translation fault (R151) -/

/-- An engine request is held: the fault waits for the interrupt. -/
def holdFault (s : State) (at_ : HeldAt) (sq : Seq) (t : Trap) : State :=
  let info := match t.xf with | some (_, i) => i | none => 0
  let x : Irq := { code := t.code, sq := seqNo sq, tval := t.tval, info := t.xf.map (fun x => x.2), stamp := s.gtc, src := srcNo s.ex.val (seqNo sq) }
  onMe s (fun c => raiseIrq { c with held := c.held ++ [(at_, t.tval, info)] } x)

/-- A queue stands at a held request. -/
def isHeld (c : Core) (at_ : HeldAt) : Bool := c.held.any (fun h => h.1 == at_)

/-! ## Scratchpad words (R231) -/

/-- The scratchpad byte address of a vector memory word on this repeat (R62). -/
def vmAt (s : State) (h : VH) (ab : BitVec 3) (off : BitVec 17) : Nat := vmAddr ((me s).vec.a.get ab.toFin) off h.step (repOf s)

/-- The register of a vector memory word on this repeat (R62). -/
def vmReg (s : State) (vd : BitVec 10) : Nat := vd.toNat + repOf s

/-- The window address of a scratchpad byte, the TVAL of a trap. -/
def vmVa (c : Core) (b : Nat) : W64 := spwinBase c + BitVec.ofNat 64 b

/-- The word offsets 0 to 31 of a 256-byte access that hold a lane of a mask. -/
def vmWords (lanes : W64) : List Nat := (List.range 32).filter (fun k => lanes.getLsbD (2 * k) || lanes.getLsbD (2 * k + 1))

/-- The bytes of the lanes of a mask, word by word, with their scratchpad addresses. -/
def vmBytes (b : Nat) (lanes : W64) (r : Row) : List (Nat × List Byte) :=
  (vmWords lanes).map (fun k =>
    let a := (b + 8 * k) % 2097152
    let lo := leBytes 4 (lane r (2 * k)).toNat
    let hi := leBytes 4 (lane r (2 * k + 1)).toNat
    if !lanes.getLsbD (2 * k + 1) then (a, lo) else if !lanes.getLsbD (2 * k) then (a + 4, hi) else (a, lo ++ hi))

/-- The indices of the scratchpad words that a 256-byte access touches. -/
def vmIdx (b : Nat) (lanes : W64) : List Nat := (vmWords lanes).map (fun k => (b / 8 + k) % 262144)

/-- Some word of a 256-byte access is poisoned. -/
def vmPoison (c : Core) (b : Nat) (lanes : W64) : Bool := wordsPoison c (vmIdx b lanes)

/-- The checks of a vector memory word: a multiple of 16, before any effect. -/
def vmChecked (s : State) (b : Nat) (f : Except Trap State) : Except Trap State :=
  if b % 16 ≠ 0 then .error (.misalign (vmVa (me s) b)) else f

/-- Record an access of the lanes of a mask in the trace buffer, and test the trigger on each lane's address (R438, R439). -/
def traceLanes (s : State) (kind : Nat) (va : W64) (lanes : List W64) : State :=
  onMe s (fun c => lanes.foldl (fun c a => trigger c 2 a) (trc s.ex.val s.gtc c .vector kind va))

/-- The record of a vector memory word at scratchpad byte b, with the addresses of its lanes. -/
def traceRow (s : State) (kind b : Nat) (lanes : W64) : State :=
  traceLanes s kind (vmVa (me s) b) ((lanesIn lanes).map (fun i => vmVa (me s) ((b + 4 * i) % 2097152)))

/-- VLD (R231). -/
def execVld (h : VH) (vd : BitVec 10) (ab : BitVec 3) (off : BitVec 17) (s : State) : Out :=
  .next (issue s h.m h.rpt.toNat [] [vmReg s vd] [] (fun s _ =>
    let b := vmAt s h ab off
    let lanes := lanesOf (me s) h.m
    if tblGet false (me s).vec.vpoison (1100 + ab.toNat) then .error (.poison 0)
    else vmChecked s b (
      if vmPoison (me s) b lanes then .error (.poison (vmVa (me s) b))
      else .ok (result (traceRow s 3 b lanes) (.reg (vmReg s vd)) 6 lanes (rowFrom (spRead (me s) b 256)) 0))))

/-- VST: stored in the cycle after issue, with nothing of the sequencer between (R225, R231). -/
def execVst (h : VH) (vd : BitVec 10) (ab : BitVec 3) (off : BitVec 17) (s : State) : Out :=
  .next (issue s h.m h.rpt.toNat [vmReg s vd] [] [] (fun s l =>
    let b := vmAt s h ab off
    if tblGet false (me s).vec.vpoison (1100 + ab.toNat) then .error (.poison 0)
    else vmChecked s b (.ok (onMe (traceRow s 4 b (lanesOf (me s) h.m)) (fun c => spWriteAll c (vmBytes b (lanesOf c h.m) (row l 0)))))))

/-- A tag wait has expired: the repeat and the later ones of its word perform no access, and the segment is abandoned after it (R232). -/
def tagExpire (s : State) (reason : Nat) : State :=
  onEng (abandonAfter (onMe s (fun c => tagLeave c .vector)) .vector reason) .vector (fun e => { e with tdead := true })

/-- The wait of a VLDFW or VSTEF repeat on its words: it joins their waiters, but in an aborted gang, and its action takes place at the instant its
condition holds, after which the repeat goes on (R227, R232, R317). -/
def tagGate (s : State) (t : TagWait) : Gate :=
  if (me s).ve.tdead then .go s
  else if tagDone (me s) .vector then .go (onMe (onEng s .vector (fun e => { e with wait := none })) (fun c => setTocnt c 0))
  else
    let s := if (myTag (me s) .vector).isSome || gangAborted s (me s) then s else onMe s (fun c => tagJoin c t)
    match waitFor s .vector .tag true (tagDone (me s) .vector) with
    | .trap s => stall (.trap (onMe s (fun c => tagLeave c .vector))) 41 tagExpire
    | o => stall o 41 tagExpire

/-- A VLDFW or VSTEF repeat: pending registers, then its checks, its wait, its effect (R231, R232). -/
def tagRepeat (h : VH) (vd : BitVec 10) (ab : BitVec 3) (off : BitVec 17) (store : Bool) (s : State) : State :=
  let r := vmReg s vd
  (pendGate s [r]).andThen (fun s =>
    let c := me (landed s [r])
    if nullified c h.m then retireEng (landed s [r]) .vector h.rpt.toNat
    else
      let b := vmAt s h ab off
      let lanes := lanesOf c h.m
      let acted := tagDone c .vector
      if !acted && ((readsPoison c h.m [] []).isSome || (store && tblGet false c.vec.vpoison r) ||
          tblGet false c.vec.vpoison (1100 + ab.toNat)) then engTrap s .vector (.poison 0)
      else if b % 16 ≠ 0 then engTrap s .vector (.misalign (vmVa c b))
      else
        let words := if h.m then vmIdx b lanes else vmIdx b allLanes
        let t : TagWait :=
          { sq := .vector, words := words, op := if store then 4 else 3
            writes := if store then vmBytes b lanes (vreg c.vec r) else []
            reads := if store then [] else (List.range 256).map (fun i => (b + i) % 2097152) }
        (tagGate s t).andThen (fun s =>
          let g := tagGot (me s) .vector
          let dead := (me s).ve.tdead
          let s := onMe s (fun c => tagLeave c .vector)
          if !store && !dead && g.2 then engTrap s .vector (.poison (vmVa c b))
          else
            let s := landed s [r]
            let s := if dead then s else traceRow s (if store then 4 else 3) b lanes
            retireEng (if store then s else result s (.reg r) 6 lanes (if dead then zeroRow else rowFrom g.1) 0) .vector h.rpt.toNat))

/-- VLDFW (R231, R232). -/
def execVldfw (h : VH) (vd : BitVec 10) (ab : BitVec 3) (off : BitVec 17) (s : State) : Out := .next (tagRepeat h vd ab off false s)
/-- VSTEF (R231, R232). -/
def execVstef (h : VH) (vd : BitVec 10) (ab : BitVec 3) (off : BitVec 17) (s : State) : Out := .next (tagRepeat h vd ab off true s)

/-! ## Gathers and scatters (R233, R234) -/

/-- A gather whose loads have not all been served stands before a scatter. -/
def loadsLeft (l : List Gather) : Bool := l.any (fun g => g.load && !g.done)

/-- Send one translated lane of a scatter; a plain UO store enters the write-combining buffer (R233, R353). -/
def scatterLane (s : State) (g : Nat) (x : Xl) (data : List Byte) : Nat × State :=
  let id := s.nextId
  if x.ord = 2 then
    (id, onMe { s with nextId := id + 1 } (fun c => { c with wc := c.wc ++ [{ id := id, pa := x.pa, data := data, t0 := s.gtc, sq := .vector, op := some g }] }))
  else (id, addReq s { pa := x.pa, kind := .scatter data, sq := .vector, op := some g, so := x.ord == 0, host := isHost x.pa })

/-- Translate and send the lanes of one gather in ascending order, until one faults. -/
def sendLanes : Nat → State → Gather → Gather × State
  | 0, s, g => (g, s)
  | n + 1, s, g =>
      match g.lanes with
      | [] => (g, s)
      | (i, va) :: r =>
          match translate s va (if g.load then .read else .write) .vector with
          | (.error t, s) => (g, holdFault s .gather .vector t)
          | (.ok x, s) =>
              if g.load then sendLanes n s { g with lanes := r, sent := g.sent ++ [(i, x.pa, x.ord == 0)] }
              else
                let y := scatterLane s g.id x (leBytes 4 (lane g.got i).toNat)
                sendLanes n y.2 { g with lanes := r, ids := g.ids ++ [y.1] }

/-- Send what may be sent of the gathers in order; a scatter waits for every earlier gather's loads (R351), and everything behind a held
lane waits (R151). -/
def sendAll : List Gather → List Gather → State → State
  | done, [], s => onVec s (fun v => { v with gathers := done })
  | done, g :: r, s =>
      if isHeld (me s) .gather || (!g.load && loadsLeft done) then onVec s (fun v => { v with gathers := done ++ g :: r })
      else
        let x := sendLanes 64 s g
        sendAll (done ++ [x.1]) r x.2

/-- Send what may be sent. -/
def sendGathers (s : State) : State := sendAll [] (me s).vec.gathers s

/-- Lanes of a scatter of executor n that have not been sent and lie in a physical page. -/
def lanesTo (s : State) (n page : Nat) (g : Gather) : Bool :=
  if h : n < 288 then
    !g.load && g.lanes.any (fun l => match translate { s with ex := ⟨n, h⟩ } l.2 .write .vector with
      | (.ok x, _) => pa50 x.pa / 65536 == page
      | _ => false)
  else false

/-- A scatter of executor n numbered below an operation still has such lanes (R159, R192). -/
def laneWrites (s : State) (n page below : Nat) : Bool := (coreAt s n).vec.gathers.any (fun g => decide (g.id < below) && lanesTo s n page g)

/-- The address of lane i of a pair of rows (R233). -/
def pairAddr (lo hi : Row) (i : Nat) : W64 := lane hi i ++ lane lo i

/-- VGATH and VSCAT: the checks of every active lane, a free place, then the accesses. With gathers off (R234), a gather writes zero and a
scatter stores nothing. -/
def gatherWord (h : VH) (vd va : BitVec 10) (load : Bool) (s : State) : State :=
  let n := repOf s
  let a := srcAt va h.step n
  let d := srcAt vd h.step n
  let go (s : State) : State :=
    issue s h.m h.rpt.toNat (if load then [a, a + 1] else [a, a + 1, d]) (if load then [d] else []) [] (fun s l =>
      let c := me s
      let act := lanesOf c h.m
      let lanes := (lanesIn act).map (fun i => (i, pairAddr (row l 0) (row l 1) i))
      match lanes.find? (fun x => x.2.toNat % 4 != 0), lanes.find? (fun x => inWindow c x.2) with
      | some x, _ => .error (.misalign x.2)
      | none, some x => .error (.protect x.2)
      | none, none =>
          if c.ve.gdead then .ok (if load then result s (.reg d) 4 act zeroRow 0 else s)
          else
            let (id, s) := fresh (lanes.foldl (fun s x => traceLanes s (if load then 3 else 4) x.2 [x.2]) s)
            .ok (sendGathers (onVec s (fun v => { v with
              order := v.order + 1
              gathers := v.gathers ++ [{ id := id, load := load, dst := d, due := v.slot + 4, order := v.order, lanes := lanes, active := act,
                                         got := if load then zeroRow else row l 2, done := load && lanes.isEmpty }] }))))
  if (me s).ve.gdead then go s
  else
    (pendGate s [a, a + 1, d]).andThen (fun s => if nullified (me (landed s [a, a + 1, d])) h.m then go s else (ninthGate s).andThen go)

/-- VGATH (R233, R234). -/
def execVgath (h : VH) (vd va : BitVec 10) (s : State) : Out := .next (gatherWord h vd va true s)
/-- VSCAT (R233, R234). -/
def execVscat (h : VH) (vd va : BitVec 10) (s : State) : Out := .next (gatherWord h vd va false s)

/-- A lane of a gather is served after the lanes of its word that the agent issued before it: those of earlier gathers, and the lower ones of its own
(R233, R351). -/
def laneTurn (c : Core) (g : Gather) (i pa : Nat) : Bool :=
  let word (x : Nat × Nat × Bool) : Bool := pa50 x.2.1 / 4 == pa50 pa / 4
  !(c.vec.gathers.takeWhile (fun e => e.id != g.id)).any (fun e => e.load && e.sent.any word) && !g.sent.any (fun x => word x && decide (x.1 < i))

/-- A lane of a gather may be served outside an L1 line: after the vector sequencer's earlier writes to its bytes, and after every store of
the core to the line it fills; on an SO page after the lower SO lanes, those of earlier gathers and the sequencer's SO requests (R350, R351, R353). -/
def laneReady (c : Core) (g : Gather) (i pa : Nat) (so : Bool) : Bool :=
  !storePending c { pa := pa / 128 * 128, kind := .store (zeros 128) } &&
  (!so || (!c.reqs.any (fun e => e.so && e.sq == .vector) && !g.sent.any (fun x => x.2.2 && decide (x.1 < i)) &&
    !(c.vec.gathers.takeWhile (fun e => e.id != g.id)).any (fun e => e.load && e.sent.any (fun x => x.2.2))))

/-- A lane has been read before a slot: its value, or its poison. -/
def gotLane (slot : Nat) (g : Gather) (i : Nat) (v : W32) (p : Bool) : Gather :=
  let sent := g.sent.filter (fun x => x.1 != i)
  { g with sent := sent, got := if p then g.got else mergeRow (1 <<< i) g.got (splat v), poison := if p then g.poison ||| (1 <<< i) else g.poison
           doneAt := slot, done := g.lanes.isEmpty && sent.isEmpty }

/-- Replace a gather. -/
def setGather (s : State) (g : Gather) : State :=
  onVec s (fun v => { v with gathers := v.gathers.map (fun x => if x.id = g.id then g else x) })

/-- Serve lane i of a gather at its slice or L1 line. -/
def serveLane (s : State) (g : Gather) (i pa : Nat) (so : Bool) : State :=
  if !laneTurn (me s) g i pa then s
  else match l1Hit s .vector pa 4 false so with
  | some l => setGather s (gotLane (me s).vec.slot g i (BitVec.ofNat 32 (field l.data (pa % 128) 4)) (marked l.poison (pa % 128) 4))
  | none =>
      if !laneReady (me s) g i pa so then s
      else
        let s := { s with ms := sliceTouch s.ms pa 4 }
        let p := slicePoison s.ms pa 4
        let v : W32 := BitVec.ofNat 32 (leNat (sliceRead s.ms pa 4))
        setGather (if so && (l1Get s pa).isNone then s else l1Set s pa (some (l1Fill s pa))) (gotLane (me s).vec.slot g i v p)

/-- GATHER_LANE_ARRIVAL: a lane of a gather arrives; after the last, the destination stops being pending once it is due (R233, R234). Choice:
n, the gather; m, the lane. -/
def execGatherLaneArrival (s : State) : Out :=
  .next (
    let s := sendGathers s
    match (me s).vec.gathers.find? (fun g => g.id == s.choice.n) with
    | none => s
    | some g =>
        match g.sent.find? (fun x => x.1 == s.choice.m) with
        | none => s
        | some (i, pa, so) => if g.load then serveLane s g i pa so else s)

/-! ## The deferral queue (R238) -/

/-- The registers F to F + c. -/
def regsFrom (f : Nat) (c : BitVec 2) : List Nat := (List.range (c.toNat + 1)).map (fun i => f + i)

/-- VDEFER: append the active lanes in ascending order. -/
def execVdefer (h : VH) (va : BitVec 10) (c : BitVec 2) (s : State) : Out :=
  .next (
    let f := srcAt va h.step (repOf s)
    issue s h.m h.rpt.toNat (regsFrom f c) [] [] (fun s l =>
      let ls := lanesIn (lanesOf (me s) h.m)
      if 512 - (me s).vec.dq.length < ls.length then .error (.illegal (curEng s .vector))
      else .ok (onVec s (fun v => { v with
        dq := v.dq ++ ls.map (fun i => (List.range 4).map (fun k => if k ≤ c.toNat then lane (row l k) i else 0)) }))))

/-- VDRAIN: pop up to 64 entries into the registers and m15, four slots later. -/
def execVdrain (h : VH) (vd : BitVec 10) (c : BitVec 2) (s : State) : Out :=
  .next (
    let f := srcAt vd h.step (repOf s)
    issue s false h.rpt.toNat [] (regsFrom f c) [] (fun s _ =>
      let q := (me s).vec.dq
      let es := q.take 64
      if es.any (fun e => e.isEmpty) then .error (.poison 0)
      else
        let s := onVec s (fun v => { v with dq := q.drop 64 })
        let s := (List.range (c.toNat + 1)).foldl (fun s k =>
          result s (.reg (f + k)) 4 allLanes (rowOf (fun j => listGet 0 (listGet [] es j) k)) 0) s
        .ok (result s (.mask 15) 4 allLanes zeroRow (maskOf (fun j => decide (j < es.length))))))

/-! ## VSETA (R307) -/

/-- The read of a VSETA is given up, held or not. -/
def dropVload (s : State) : State :=
  onMe s (fun c => { c with vec := { c.vec with vload := none }, held := c.held.filter (fun h => h.1 != .vparam) })

/-- A VSETA whose read has not arrived in time leaves a[n] as it is and the segment is abandoned (R204, R307). -/
def vsetaExpire (s : State) (reason : Nat) : State := abandonNow (slotOn (dropVload (landVec s)) .vector) .vector reason

/-- The wait of a VSETA. -/
def vsetaStep (s : State) : State :=
  match waitFor s .vector .param true false with
  | .go s => s
  | .stay s => s
  | .trap s => trapEngine (setEst (dropVload s) 45) .vector .deadline
  | .expired s => vsetaExpire (setEst s 45) 45
  | .aborted s => let (r, s) := freeNat s 64; vsetaExpire s r

/-- The parameter word has been read: a[n] ← word[20:0]; a poisoned word traps POISON (R307). -/
def paramRead (s : State) (n : BitVec 3) (va : W64) : State :=
  match plainPiece s .vector va 8 with
  | (.trap t, s) => if t.code = 7 then engTrap (onVec s (fun v => { v with vload := none })) .vector t else holdFault s .vparam .vector t
  | (.blocked, s) => s
  | (.ok bs, s) =>
      let a : BitVec 21 := BitVec.ofNat 21 (leNat bs)
      let s := onVec s (fun v => { v with a := v.a.set n.toFin a, vpoison := tblSet false v.vpoison (1100 + n.toNat) false, vload := none })
      retireEng (onMe (onEng (landVec s) .vector (fun e => { e with wait := none })) (fun c => setTocnt c 0)) .vector 0

/-- VSETA: the parameter word is asked for, and the sequencer stalls in its slot until it arrives. -/
def execVseta (n : BitVec 3) (off : BitVec 24) (s : State) : Out :=
  .next (
    match (me s).vec.vload with
    | some _ => vsetaStep s
    | none => vsetaStep (onVec s (fun v => { v with vload := some (n, (me s).ve.param + zext64 off) })))

/-- PARAMETER_WORD_ARRIVAL: the word that VSETA reads arrives (R307). -/
def execParameterWordArrival (s : State) : Out :=
  .next (
    match (me s).vec.vload with
    | none => s
    | some (n, va) => if engWaits s .vector && !isHeld (me s) .vparam && !gangAborted s (me s) then paramRead s n va else s)

/-! ## Expiries -/

/-- The vector sequencer is in a wait that has expired or whose gang has aborted. -/
def vecLate (s : State) : Bool :=
  let c := me s
  engWaits s .vector &&
    (match c.ve.wait with
     | none => false
     | some w => gangAborted s c || decide (w.2 ≤ (c.ctc - w.1).toNat))

/-- STREAM_TIMEOUT: the wait of a stream read expires (R204, R319). -/
def execStreamTimeout (s : State) : Out :=
  .next (asTickEnds s (fun s =>
    match (me s).ve.wfor with
    | .stream srcs => if vecLate s then (streamGate s srcs).andThen id else s
    | _ => s))

/-- TAG_WAIT_EXPIRY: the wait of a VLDFW or VSTEF expires (R232, R319). -/
def execTagWaitExpiry (s : State) : Out :=
  .next (asTickEnds s (fun s => if (me s).ve.wfor = .tag ∧ vecLate s ∧ (myTag (me s) .vector).isSome ∧ !tagDone (me s) .vector then (tagGate s {}).andThen id else s))

/-- GATHER_WAIT_EXPIRY: the stall of a repeat on gathers expires (R234, R319). -/
def execGatherWaitExpiry (s : State) : Out :=
  .next (asTickEnds s (fun s =>
    match (me s).ve.wfor with
    | .gather regs ninth => if vecLate s then (if ninth then ninthGate s else pendGate s regs).andThen id else s
    | _ => s))

/-- VSETA_EXPIRY: the wait of a VSETA expires (R307, R319). -/
def execVsetaExpiry (s : State) : Out :=
  .next (asTickEnds s (fun s => if (me s).ve.wfor = .param ∧ (me s).vec.vload.isSome ∧ vecLate s then vsetaStep s else s))

end Sys2Proof.Machine
end

