-- ==== Sys2Proof/Machine/Matrix.lean ====
section
/-! DEFINITION. The matrix engine (spec/12_matrix.md): the configuration words, MGO and the nest, tile fetch, the three modes, retirement,
MDRAIN and MZERO. -/

namespace Sys2Proof.Machine

/-! ## Tables (R240 to R244) -/

/-- Change the matrix engine's record. -/
def onMat (s : State) (f : Mat → Mat) : State := onMe s (fun c => { c with mx := f c.mx })

/-- A configuration word writes the shadow table in its slot (R244). -/
def cfgWord (s : State) (f : MTab → MTab) : State := retireEng (onMat s (fun m => { m with shadow := f m.shadow })) .matrix 0

/-- Change level lv of a table; levels are 0 to 5. -/
def onLevel (t : MTab) (lv : BitVec 3) (f : MLev → MLev) : MTab :=
  if h : lv.toNat < 6 then { t with lev := t.lev.set lv.toNat (f (t.lev.get ⟨lv.toNat, h⟩)) h } else t

/-- Set component d of a stride. -/
def setDim (v : Vector (BitVec 12) 5) (d : BitVec 3) (x : BitVec 12) : Vector (BitVec 12) 5 :=
  if h : d.toNat < 5 then v.set d.toNat x h else v

/-- MNOP: a slot (R258). -/
def execMnop (rpt : BitVec 6) (s : State) : Out := .next (retireEng s .matrix rpt.toNat)

/-- MLVL (R244). -/
def execMlvl (lv role : BitVec 3) (trip : BitVec 24) (s : State) : Out :=
  .next (cfgWord s (fun t => onLevel t lv (fun l => { l with role := role, trip := trip })))
/-- MSTRA (R244). -/
def execMstra (lv dim : BitVec 3) (inc : BitVec 12) (s : State) : Out :=
  .next (cfgWord s (fun t => onLevel t lv (fun l => { l with stra := setDim l.stra dim inc })))
/-- MSTRB (R244). -/
def execMstrb (lv dim : BitVec 3) (inc : BitVec 12) (s : State) : Out :=
  .next (cfgWord s (fun t => onLevel t lv (fun l => { l with strb := setDim l.strb dim inc })))
/-- MSTRC (R244). -/
def execMstrc (lv dim : BitVec 3) (inc : BitVec 12) (s : State) : Out :=
  .next (cfgWord s (fun t => onLevel t lv (fun l => { l with strc := setDim l.strc dim inc })))
/-- MBIND (R244). -/
def execMbind (opnd : BitVec 2) (t : BitVec 6) (unb : Bool) (s : State) : Out :=
  .next (cfgWord s (fun x => { x with bind := x.bind.set opnd.toFin (if unb then none else some t) }))
/-- MFMT (R244). -/
def execMfmt (fa fb : BitVec 4) (mode spn : BitVec 2) (blk acci bank : Bool) (s : State) : Out :=
  .next (cfgWord s (fun t => { t with fa := fa, fb := fb, mode := mode, spn := spn, blk := blk, acci := acci, bank := bank }))
/-- MHLD (R244). -/
def execMhld (hsz : BitVec 2) (diag : BitVec 16) (s : State) : Out := .next (cfgWord s (fun t => { t with hsz := hsz, diag := diag }))

/-! ## Legal nests (R245 to R248) -/

/-- Level i of a table. -/
def level (t : MTab) (i : Nat) : MLev := if h : i < 6 then t.lev.get ⟨i, h⟩ else {}

/-- The number of used levels from level 0 upward. -/
def usedLevels (t : MTab) : Nat := ((List.range 6).takeWhile (fun i => (level t i).role != 0)).length

/-- The slot bound to operand x (0 A, 1 B, 2 C, 3 META). -/
def boundSlot (c : Core) (t : MTab) (x : Fin 4) : Option (List Byte) := (t.bind.get x).map (fun n => slotOf c n.toNat)

/-- Kept elements of a group: 128 when dense. -/
def keptN (t : MTab) : Nat := if t.spn = 0 then 128 else 32 * t.spn.toNat

/-- The product count p of a format (R246). -/
def perStep (fa : BitVec 4) : Nat := if fa = 2 ∨ fa = 3 ∨ fa = 5 then 2 else if fa = 4 then 4 else 1

/-- The matrix cycles of a tile step (R241). -/
def tileCycles (t : MTab) : Nat := if t.mode = 1 then 128 else keptN t / perStep t.fa

/-- The mode, formats, BLK and SPN form a row of R246. -/
def fmtRow (t : MTab) : Bool :=
  let eight (f : BitVec 4) : Bool := f == 2 || f == 3
  if t.mode = 1 then (t.fa == 0 || t.fa == 1 || t.fa == 5) && t.fb == t.fa && !t.blk && t.spn == 0
  else
    (t.fa == 0 && t.fb == 0 && !t.blk) || (t.fa == 1 && t.fb == 1 && !t.blk) || (eight t.fa && eight t.fb) ||
    (t.fa == 4 && t.fb == 4 && t.blk) || (t.mode == 0 && t.fa == 5 && t.fb == 5 && !t.blk)

/-- The conditions of R245, R246 and R248 on a table alone. -/
def tableOk (c : Core) (t : MTab) : Bool :=
  let u := usedLevels t
  let roles := (List.range 6).map (fun i => (level t i).role)
  decide (1 ≤ u) && (List.range 6).all (fun i => decide (i < u) || (level t i).role == 0) &&
  (level t 0).role == 4 && decide (roles.count 4 = 1) && decide (roles.count 2 ≤ 1) && decide (roles.count 3 ≤ 1) &&
  (t.bind.get 0).isSome && (t.bind.get 1).isSome && ((t.bind.get 3).isSome == (t.spn != 0)) && fmtRow t &&
  decide ((level t 0).trip.toNat * tileCycles t + (if t.mode = 2 then 64 else 0) ≤ c.csr.maxred.toNat)

/-- A box of d0 by d1 elements, one in the other dimensions. -/
def boxIs (b : List Byte) (d0 d1 : Nat) : Bool :=
  tBox b 0 == d0 && tBox b 1 == d1 && tBox b 2 == 1 && tBox b 3 == 1 && tBox b 4 == 1

/-- The slots of A, B and META have the formats and shapes of R246 and R247. -/
def slotsOk (t : MTab) (a b : List Byte) (m : Option (List Byte)) : Bool :=
  tFmt a == t.fa.toNat && tFmt b == t.fb.toNat && boxIs a (keptN t) 128 && boxIs b 128 128 &&
  (!t.blk || (decide (tSpace a ≤ 1) && decide (tSpace b ≤ 1))) &&
  (match m with | none => true | some x => tFmt x == 5 && boxIs x (keptN t) 128)

/-- The check of the A, B and META slots at MGO and at each reduction: RVALID first, then the shapes, then a sibling's group (R168, R169,
R249, R250). -/
def checkNest (s : State) (t : MTab) (w : W64) : Except Trap (List Byte × List Byte × List Byte) :=
  let c := me s
  match boundSlot c t 0, boundSlot c t 1 with
  | some a, some b =>
      let m := boundSlot c t 3
      let all := [a, b] ++ m.toList
      if let .error e := slotsClean s ([0, 1, 3].filterMap (fun (x : Fin 4) => t.bind.get x)) then .error e
      else if !all.all tValid then .error (.protect 0)
      else if !slotsOk t a b m then .error (.illegal w)
      else if all.any (fun x => tSpace x == 3 && (siblingOf s (tSib x)).isNone) then .error (.protect 0)
      else .ok (a, b, m.getD [])
  | _, _ => .error (.illegal w)

/-! ## Waits (R259) -/

/-- An expired matrix wait: the nest stops, and the segment is abandoned (R204, R259). The expiry has been settled. -/
def matLate (s : State) (reason : Nat) : State := onMe (abandonNow s .matrix reason) nestEnds

/-- Go on by the outcome of a matrix wait; `drop` undoes what the word holds. -/
def matWait (o : EOut) (drop go : State → State) : State :=
  match o with
  | .go s => go s
  | .stay s => s
  | .trap s => trapEngine (drop (onMe s (fun c => estatMatrix c 1))) .matrix .deadline
  | .expired s => matLate (drop (onMe s (fun c => estatMatrix c 1))) 32
  | .aborted s => let (r, s) := freeNat s 64; matLate (drop s) r

/-! ## MGO (R249) -/

/-- The nest starts from the shadow table. -/
def startNest (m : Mat) : Mat :=
  { m with active := m.shadow, idx := [0, 0, 0, 0, 0, 0], next := m.shadow.bank, live := true, red := none, started := 0,
           mgo := m.mgoNext, mgoNext := none, wait := none, left := none, paused := false }

/-- The wait of an MGO that has been checked. -/
def mgoStep (s : State) : State :=
  matWait (engWait s .matrix true (!(me s).mx.live)) (fun s => onMat s (fun m => { m with mgoNext := none }))
    (fun s => retireEng (onMat s startNest) .matrix 0)

/-- MGO: its checks, then the wait until the nest is idle (R249); it counts as a tile operation from here. -/
def execMgo (s : State) : Out :=
  .next (
    if (me s).mx.mgoNext.isSome then mgoStep s
    else if !tableOk (me s) (me s).mx.shadow then engTrap s .matrix (.illegal (curEng s .matrix))
    else
      match checkNest s (me s).mx.shadow (curEng s .matrix) with
      | .error t => engTrap s .matrix t
      | .ok _ =>
          let (n, s) := fresh s
          mgoStep (onMat s (fun m => { m with mgoNext := some n })))

/-! ## Reductions (R250) -/

/-- A bank. -/
def bankOf (m : Mat) (b : Bool) : Bank := if b then m.bank1 else m.bank0

/-- Replace a bank. -/
def setBank (m : Mat) (b : Bool) (x : Bank) : Mat := if b then { m with bank1 := x } else { m with bank0 := x }

/-- The reduction ordinal (R392). -/
def ordinal (m : Mat) : W64 := BitVec.ofNat 64 m.started

/-- What the nest waits for has come: the held fetch goes on, or its bank is free. -/
def nestWaitOver (c : Core) : Bool := !tileHeld c && (c.mx.red.isSome || (bankOf c.mx c.mx.next).st == .free)

/-- The wait of the nest since t0 of length dl has passed, or its gang has aborted; the settlement (R259, R319). An event of the deadline's own tick counts
first, so a wait that is no poll expires as its tick ends (R317). -/
def nestLate (s : State) : State :=
  let c := me s
  match c.mx.wait with
  | none => s
  | some (t0, dl) =>
      if gangAborted s c then
        (let (r, s) := freeNat s 64; matLate (onMe s (fun c => setTocnt { c with mx := { c.mx with wait := none } } 0)) r)
      else if nestWaitOver c || (dl != 0 && (decide ((c.ctc - t0).toNat < dl) || !s.closing)) then s
      else
        let clear (s : State) : State := onMat s (fun m => { m with wait := none })
        if dl = 0 then matLate (clear (onMe s (fun c => estatMatrix c 1))) 32
        else
          let r := settle c false
          if r.1 then engTrap (clear (onMe (setMe s r.2) (fun c => estatMatrix c 1))) .matrix .deadline
          else matLate (clear (onMe (setMe s r.2) (fun c => estatMatrix c 1))) 32

/-- Begin the nest's wait where none is under way, with what a stop left of it (R318). -/
def nestWaits (s : State) : State :=
  if (me s).mx.wait.isSome then s
  else
    let now := (me s).ctc
    let (passed, dl) := (me s).mx.left.getD (0, engDl (me s) .matrix)
    onMat s (fun m => { m with wait := some (now - passed, dl), left := none })

/-- The nest may start a reduction: its engine issues, it is live and does not pause, its sequencer does not stand at MRDV (R259). -/
def nestRuns (c : Core) : Bool :=
  engineRuns c && c.mx.live && !c.mx.paused && c.mx.red.isNone && c.me.trap.isNone && c.me.st != .stopped && c.me.st != .ending

/-- REDUCTION_START: once its bank is free, the nest captures and checks its slots and starts the next reduction, which reads the accumulators of a poisoned
bank only where it does not add to them (R250, R406). -/
def execReductionStart (s : State) : Out :=
  .next (
    let c := me s
    let m := c.mx
    if !nestRuns c then s
    else if (bankOf m m.next).st != .free then nestLate (nestWaits s)
    else
      match checkNest s m.active (curEng s .matrix) with
      | .error t => engTrap s .matrix t
      | .ok (a, b, x) =>
          if m.active.acci && (bankOf m m.next).poison then engTrap s .matrix (.poison 0)
          else
              let start := if m.active.acci then (bankOf m m.next).acc else []
              let s := onMat s (fun m =>
                { setBank m m.next { st := .active, acc := start } with
                  red := some { bank := m.next, a := a, b := b, m := x, start := start }, started := m.started + 1, wait := none })
              onMe s (fun c => setTocnt c 0))

/-! ## Tile fetch (R251 to R253) -/

/-- Component d of a level's stride for operand x. -/
def strideOf (l : MLev) (x d : Nat) : Int :=
  let v := if x = 1 then l.strb else if x = 2 then l.strc else l.stra
  if h : d < 5 then (v.get ⟨d, h⟩).toInt else 0

/-- The box origin of operand x at an index vector (R251). -/
def originOf (t : MTab) (b : List Byte) (x : Nat) (idx : List Nat) : List Int :=
  (List.range 5).map (fun d => (tOrg b d : Int) + ((List.range 6).map (fun l => ((listGet (0 : Nat) idx l : Nat) : Int) * strideOf (level t l) x d)).sum)

/-- The slot that a reduction captured for operand x. -/
def redSlot (r : Red) (x : Nat) : List Byte := if x = 0 then r.a else if x = 1 then r.b else r.m

/-- The index vector at tile step k of the current reduction. -/
def idxAt (m : Mat) (k : Nat) : List Nat := listSet m.idx 0 k

/-- The requests of operand x at tile step k. -/
def tileRuns (m : Mat) (r : Red) (x k : Nat) : List Run1 :=
  if x = 3 && m.active.spn == 0 then [] else boxRuns (redSlot r x) (originOf m.active (redSlot r x) x (idxAt m k))

/-- The operands of a nest. -/
def operands (t : MTab) : List Nat := if t.spn = 0 then [0, 1] else [0, 1, 3]

/-- A request has been served. -/
def fetched (r : Red) (x k u : Nat) : Bool := r.lines.any (fun l => l.opnd == x && l.step == k && l.unit == u && l.whole)

/-- The first request of tile step k that has not been served: operand and unit. -/
def missingUnit (m : Mat) (r : Red) (k : Nat) : Option (Nat × Nat) :=
  (operands m.active).findSome? (fun x => ((List.range (tileRuns m r x k).length).find? (fun u => !fetched r x k u)).map (fun u => (x, u)))

/-- The tag of a fetched line, META's too, disagrees with the nest (R253). -/
def tagBad (t : MTab) (b : List Byte) (y : SRead) : Bool :=
  if t.blk then !(y.tag.toNat == tFmt b && !y.side.isEmpty)
  else !(y.tag == 0xF || (y.tag.toNat == tFmt b && y.side.isEmpty))

/-- A request of n bytes, of which those from slot address a on are still to be read, is cut after the turn's k bytes where these end an atomic unit: a
scratchpad word, a 32-byte sector of memory (R226, R349). Choice: v. -/
def unitCut (s : State) (spad : Bool) (a n : Nat) : Nat :=
  let k := s.choice.v.toNat
  if 0 < k ∧ k < n ∧ (a + k) % (if spad then 8 else 32) = 0 then k else n

/-- What has been served of a request. -/
def partOf (r : Red) (x k u : Nat) : TLine := (r.lines.find? (fun l => l.opnd == x && l.step == k && l.unit == u)).getD { opnd := x, step := k, unit := u }

/-- Read one request of operand x at its location, or the next units of it. -/
def fetchUnit (s : State) (m : Mat) (r : Red) (x k u : Nat) : State :=
  match (tileRuns m r x k)[u]? with
  | none => s
  | some run =>
      let b := redSlot r x
      let g := originOf m.active b x (idxAt m k)
      let p := partOf r x k u
      let a := elemN b g run.row (coordAt b g 0 run.e) / 2 + p.data.length
      match locate s b a .read .matrix with
      | (.error t, s) => nestWaits (holdFault s .tile .matrix t)
      | (.ok l, s) =>
          let left := run.n * esize2 (tFmt b) / 2 - p.data.length
          let n := unitCut s (decide (2 ≤ tSpace b)) a left
          let (y, s) := readLoc s l n
          let (off, page) := (match l with | .pa pa => (pa % 128, some (pa50 pa / 65536)) | _ => (0, none) : Nat × Option Nat)
          let gone := match l with | .gone => true | _ => false
          let isPa := match l with | .pa _ => true | _ => false
          let line : TLine := { p with off := if p.data.isEmpty then off else p.off, page := page, data := p.data ++ y.data, side := p.side ++ y.side
                                       poison := p.poison || y.poison, bad := p.bad || (isPa && tagBad m.active b y), gone := p.gone || gone, whole := n == left }
          let rest := r.lines.filter (fun l => !(l.opnd == x && l.step == k && l.unit == u))
          onMat s (fun m => { m with red := some { r with lines := rest ++ [line], closed := r.closed || gone } })

/-! ## Elements (R254) -/

/-- An element of a fetched box: its code, and where its line carries side bytes its scale and spare. -/
structure TElem where
  code : Nat := 0
  scale : Option (Byte × Byte) := none
deriving DecidableEq, Repr

/-- The scale and spare of element j of a run. -/
def scaleOf (fmt : Nat) (l : TLine) (j : Nat) : Option (Byte × Byte) :=
  if l.side.isEmpty then none
  else if fmt = 4 then some (listGet 0 l.side (2 * (j / 32)), listGet 0 l.side (2 * (j / 32) + 1))
  else some (listGet 0 l.side ((l.off % 32 + j) / 32), 0)

/-- Element (j0, j1) of operand x at tile step k; none where clipped. -/
def tileElem (m : Mat) (r : Red) (x k j0 j1 : Nat) : Option TElem :=
  let runs := tileRuns m r x k
  match runs.findIdx? (fun q => listGet 0 q.row 0 == j1 && decide (q.e ≤ j0) && decide (j0 < q.e + q.n)) with
  | none => none
  | some u =>
      match runs[u]?, r.lines.find? (fun l => l.opnd == x && l.step == k && l.unit == u) with
      | some q, some l =>
          let f := tFmt (redSlot r x)
          some { code := elemCode f l.data (j0 - q.e), scale := scaleOf f l (j0 - q.e) }
      | _, _ => none

/-- The value of an element of a format; zero where clipped. -/
def elemFp (fmt : Nat) (e : Option TElem) : Fp :=
  match e with
  | none => .fin false 0 0
  | some x =>
      match fmt with
      | 0 => decBf16 (BitVec.ofNat 16 x.code)
      | 1 => decF16 (BitVec.ofNat 16 x.code)
      | 2 => scaled x (decE4m3 (BitVec.ofNat 8 x.code))
      | 3 => scaled x (decE5m2 (BitVec.ofNat 8 x.code))
      | 4 => (match x.scale with | some (sc, sp) => decE2m1 sc sp x.code | none => decE2m1 127 0 x.code)
      | _ => fpInt (BitVec.ofNat 8 x.code).toInt
where
  /-- The block scale of an element, where it has one. -/
  scaled (x : TElem) (v : Fp) : Fp := match x.scale with | some (sc, _) => scaleE8m0 sc v | none => v

/-- The INT8 value of an element. -/
def elemInt (e : Option TElem) : Int := match e with | none => 0 | some x => (BitVec.ofNat 8 x.code).toInt

/-! ## The modes (R254 to R256) -/

/-- An accumulator element: absent rows are zero. -/
def accAt (acc : List (List W32)) (i j : Nat) : W32 := listGet 0 (listGet [] acc i) j

/-- A tile from a function of row and column. -/
def tileOf (f : Nat → Nat → W32) : List (List W32) := (List.range 128).map (fun i => (List.range 128).map (fun j => f i j))

/-- The K positions of B that row i of A meets in a tile step, with A's box position: all of them, or the kept ones (R254). -/
def kList (m : Mat) (r : Red) (k i : Nat) : List (Nat × Nat) :=
  (List.range (keptN m.active)).map (fun e =>
    if m.active.spn = 0 then (e, e) else (e, match tileElem m r 3 k e i with | none => 0 | some x => x.code % 128))

/-- Steps of p products from an accumulator, each rounded once (R31). -/
def macSteps (p : Nat) : Nat → W32 → List Fp → W32
  | 0, acc, _ => acc
  | n + 1, acc, l => if l.isEmpty then acc else macSteps p n (encF32 (Fp.add (decF32 acc) (Fp.sum (l.take p)))) (l.drop p)

/-- Cell (i, j) after a MAC tile step: R31 on a Crown core, R32 on a Root executor, INT8 modulo 2^32 (R33). -/
def macCell (root : Bool) (m : Mat) (r : Red) (k i j : Nat) (acc : W32) : W32 :=
  let ks := kList m r k i
  if m.active.fa = 5 then
    acc + BitVec.ofInt 32 ((ks.map (fun x => elemInt (tileElem m r 0 k x.1 i) * elemInt (tileElem m r 1 k j x.2))).sum)
  else
    let ps := ks.map (fun x => Fp.mul (elemFp m.active.fa.toNat (tileElem m r 0 k x.1 i)) (elemFp m.active.fb.toNat (tileElem m r 1 k j x.2)))
    macSteps (if root then 1 else perStep m.active.fa) 128 acc ps

/-- a above c in the order of RANK: NaN lowest, all NaNs equal (R255). -/
def rankAbove (a c : Fp) : Bool := if a.isNan then false else if c.isNan then true else Fp.lt c a
/-- a equal to c in that order. -/
def rankEq (a c : Fp) : Bool := if a.isNan || c.isNan then a.isNan && c.isNan else Fp.eq a c

/-- The candidate's value: −∞ where clipped. -/
def candFp (fmt : Nat) (e : Option Nat) : Fp := match e with | none => .inf true | some c => elemFp fmt (some { code := c })

/-- Cell (i, j) after a RANK tile step: the unclipped elements above the candidate, ties to the lower index (R255). -/
def rankCell (m : Mat) (r : Red) (k i j : Nat) (acc : W32) : W32 :=
  let g := originOf m.active r.a 0 (idxAt m k)
  let f := m.active.fa.toNat
  let c := candFp f (listGet none (listGet [] r.cand i) j)
  acc + BitVec.ofNat 32 ((List.range 128).filter (fun q =>
    match tileElem m r 0 k q i with
    | none => false
    | some x =>
        let a := elemFp f (some { code := x.code })
        rankAbove a c || (rankEq a c && decide (listGet 0 g 0 * 128 + (q : Int) < r.jg0 + (j : Int))))).length

/-- (−1)^popcount(r AND t) × δ(t) is −1. -/
def hadNeg (diag : BitVec 16) (r t : Nat) : Bool :=
  (((List.range 7).filter (fun b => (Nat.land r t).testBit b)).length % 2 == 1).xor (diag.getLsbD (t % 16))

/-- The HAD pass (R256). -/
def hadPass (t : MTab) (acc : List (List W32)) : List (List W32) :=
  let h := 16 * 2 ^ t.hsz.toNat
  tileOf (fun i j => encF32 (Fp.sum ((List.range h).map (fun q =>
    let v := decF32 (accAt acc i (h * (j / h) + q))
    if hadNeg t.diag (j % h) q then v.neg else v))))

/-- A META row of a tile step breaks R253; the zeros of a tensor that is gone do not (R469). -/
def metaBad (m : Mat) (r : Red) (k i : Nat) : Bool :=
  !r.lines.any (fun l => l.opnd == 3 && l.step == k && l.gone) &&
  (let l := (List.range (keptN m.active)).filterMap (fun e => (tileElem m r 3 k e i).map (fun x => x.code))
   l.any (fun c => decide (128 ≤ c)) || (l.zip (l.drop 1)).any (fun x => decide (x.2 % 128 ≤ x.1 % 128)))

/-- The candidates of the reduction's first tile step (R255). -/
def latch (m : Mat) (r : Red) : Red :=
  if m.active.mode = 1 ∧ r.step = 0 then
    { r with cand := (List.range 128).map (fun i => (List.range 128).map (fun j => (tileElem m r 1 0 j i).map (fun x => x.code)))
             jg0 := listGet 0 (originOf m.active r.b 1 (idxAt m 0)) 0 * 128 }
  else r

/-- Consume the next tile step: every cell, and what its lines show; the pages of its lines stay pinned until the retirement (R104, R253, R260, R414;
DEDUCED, log 105). -/
def consume (root : Bool) (m : Mat) (r : Red) : Mat :=
  let k := r.step
  let r := latch m r
  let mine := r.lines.filter (fun l => l.step == k)
  let bk := bankOf m r.bank
  let acc := tileOf (fun i j => if m.active.mode = 1 then rankCell m r k i j (accAt bk.acc i j) else macCell root m r k i j (accAt bk.acc i j))
  let meta_ := m.active.spn != 0 && (List.range 128).any (metaBad m r k)
  { setBank m r.bank { bk with acc := acc } with
    red := some { r with step := k + 1, lines := r.lines.filter (fun l => l.step != k)
                         pins := (r.pins ++ mine.filterMap (fun l => l.page)).eraseDups
                         poison := r.poison || mine.any (fun l => l.poison), bad := r.bad || meta_ || mine.any (fun l => l.bad) } }

/-- Consume the next tile step once it is whole. -/
def tryConsume (s : State) : State :=
  let m := (me s).mx
  match m.red with
  | none => s
  | some r => if r.step < (level m.active 0).trip.toNat ∧ (missingUnit m r r.step).isNone then onMat s (fun m => consume (isRoot s) m r) else s

/-- TILE_FETCH_RETURN: a request of a tile step at most two ahead returns, whole or its next units; a whole step is consumed (R252, R349); none while a
precise stop holds (R435). Choice: n, the operand (0 A, 1 B, 3 META); m, the request; k, the steps ahead; v, the bytes where it is cut. -/
def execTileFetchReturn (s : State) : Out :=
  .next (
    let m := (me s).mx
    match m.red with
    | none => s
    | some r =>
        if !(me s).run.live || (me s).run.dstop then s
        else if tileHeld (me s) then nestLate s
        else
          let k := r.step + s.choice.k
          let go (s : State) : State :=
            if (me s).mx.wait.isSome then tryConsume (onMe s (fun c => setTocnt { c with mx := { c.mx with wait := none } } 0)) else tryConsume s
          if (operands m.active).contains s.choice.n && decide (s.choice.k ≤ 2) && decide (k < (level m.active 0).trip.toNat) &&
              !fetched r s.choice.n k s.choice.m then
            (let s := fetchUnit s m r s.choice.n k s.choice.m
             if tileHeld (me s) then s else go s)
          else tryConsume s)

/-! ## Retirement (R250, R260) -/

/-- The next index vector in odometer order, level 1 fastest; none after the last. -/
def nextIdx (t : MTab) (u : Nat) : Nat → List Nat → Option (List Nat)
  | 0, _ => none
  | n + 1, idx =>
      let l := u - n - 1
      if l = 0 then nextIdx t u n idx
      else if listGet 0 idx l + 1 < (level t l).trip.toNat then some (listSet idx l (listGet 0 idx l + 1))
      else nextIdx t u n (listSet idx l 0)

/-- The reduction retires: its bank is HELD with its record, and the nest goes to the next index vector or is idle. -/
def retireRed (m : Mat) (r : Red) : Mat :=
  let bk := bankOf m r.bank
  let acc := if m.active.mode = 2 then hadPass m.active bk.acc else bk.acc
  let m := { setBank m r.bank { st := .held, acc := acc, idx := m.idx, ord := m.retired } with red := none, retired := m.retired + 1, next := !r.bank, left := none }
  match nextIdx m.active (usedLevels m.active) (usedLevels m.active) m.idx with
  | some i => { m with idx := i }
  | none => { m with live := false, mgo := none, paused := false }

/-- ACCUMULATOR_RETIREMENT: the last tile step has been consumed: the bank is HELD, or the reduction rolls back and the matrix sequencer traps
POISON or FMT_MISMATCH; none while a precise stop holds (R250, R260, R406, R435). -/
def execAccumulatorRetirement (s : State) : Out :=
  .next (
    let m := (me s).mx
    match m.red with
    | none => s
    | some r =>
        if r.step < (level m.active 0).trip.toNat ∨ !(me s).run.live ∨ (me s).run.dstop then s
        else if r.poison ∨ r.bad ∨ (bankOf m r.bank).poison then
          let o := if r.poison ∨ r.bad then BitVec.ofNat 64 (m.started - 1) else 0
          let s := onMat s rollback
          if (me s).me.st == .ending then onMe s nestEnds
          else engTrap s .matrix { code := if r.poison ∨ !r.bad then 0x07 else 0x08, tval := o }
        else
          let s := onMat s (fun m => retireRed m r)
          if r.closed then onMe s (fun c => estatMatrix c 7) else s)

/-! ## MDRAIN and MZERO (R257, R258) -/

/-- The bank of the oldest retirement that no drain command has taken. -/
def oldestHeld (m : Mat) : Option Bool :=
  let h (b : Bool) : Bool := (bankOf m b).st == .held && !(bankOf m b).taken
  if h false && (!h true || decide ((bankOf m false).ord ≤ (bankOf m true).ord)) then some false else if h true then some true else none

/-- The accumulators are INT32 (R246). -/
def accInt (t : MTab) : Bool := t.fa == 5 || t.mode == 1

/-- The formats of C (R246). -/
def cFmtOk (t : MTab) (add : Bool) (f : Nat) : Bool :=
  if accInt t then f == 7 || (!add && f == 5) else f == 6 || (!add && decide (f ≤ 3))

/-- The capture of C (R257). -/
def captureC (s : State) (add : Bool) : Except Trap (List Byte) :=
  let c := me s
  let w := curEng s .matrix
  match boundSlot c c.mx.active 2 with
  | none => .error (.illegal w)
  | some b =>
      if let .error e := slotsClean s (c.mx.active.bind.get 2).toList then .error e
      else if !tValid b then .error (.protect 0)
      else if !(cFmtOk c.mx.active add (tFmt b) && boxIs b 128 128 && (!add || decide (tSpace b ≤ 1))) then .error (.illegal w)
      else if tSpace b = 3 ∧ (siblingOf s (tSib b)).isNone then .error (.protect 0)
      else .ok b

/-- A drain has been made: the next repeat, or with ALL the next tile. -/
def drainNext (s : State) (rpt : BitVec 6) (all : Bool) : State :=
  if all then onMat s (fun m => { m with drained := true }) else retireEng s .matrix rpt.toNat

/-- Scatters of a core with lanes still to be served. -/
def scatIds (c : Core) : List Nat := (c.vec.gathers.filter (fun g => !g.load && !scatDone c g)).map (fun g => g.id)

/-- The commands of a core that a release on a channel covers: the earlier writes of its sequencers, scatters whose lanes are not all served among
them, and the channel's earlier commands (R176). -/
def releaseSet (c : Core) (ch : BitVec 2) : List Nat :=
  (c.reqs.filter (fun r => r.isWrite)).map (fun r => r.id) ++ c.wc.map (fun w => w.id) ++ scatIds c ++ (chanOf c ch).map (fun x => x.id)

/-- MDRAIN: one drain; with ALL, until the nest is idle and no bank is held (R257). -/
def drainStep (s : State) (rpt : BitVec 6) (ch : BitVec 2) (o : Order) (dmode : BitVec 2) (all : Bool) : State :=
  let clear (s : State) : State := onMat s (fun m => { m with drained := false })
  matWait (engWait s .matrix true ((oldestHeld (me s).mx).isSome || !(me s).mx.live)) clear (fun s =>
    let m := (me s).mx
    match oldestHeld m with
    | none =>
        let s := if all && m.drained then s else onMe s (fun c => estatMatrix c 8)
        retireEng (clear s) .matrix rpt.toNat
    | some b =>
        let bk := bankOf m b
        if dmode = 2 then drainNext (onMat s (fun m => setBank m b { bk with st := .free })) rpt all
        else if bk.poison then engTrap s .matrix (.poison 0)
        else
          match captureC s (dmode == 1) with
          | .error t => engTrap s .matrix t
          | .ok cs =>
              if 8 ≤ (chanOf (me s) ch).length then s
              else
                let (id, s) := fresh s
                let s := if o.rel then wcFlushAll s else s
                let cmd : CCmd :=
                  { id := id, kind := .drain (dmode == 1) (if b then 1 else 0) (accInt m.active) (originOf m.active cs 2 bk.idx) none, td := cs
                    acq := o.acq, rel := o.rel, scope := o.scope, dl := (me s).xe.dl, before := if o.rel then releaseSet (me s) ch else [] }
                let s := onMe s (fun c => setChan c ch (chanOf c ch ++ [cmd]))
                drainNext (onMat s (fun m => setBank m b { bk with taken := true })) rpt all)

/-- MDRAIN (R257). -/
def execMdrain (rpt : BitVec 6) (ch : BitVec 2) (o : Order) (dmode : BitVec 2) (all : Bool) (s : State) : Out :=
  .next (drainStep s rpt ch o dmode all)

/-- Give a drain command that has not read its tile the tile of its bank; one that has become poisoned ends it POISON (R406). -/
def readTile (m : Mat) (b : Nat) (x : CCmd) : CCmd :=
  match x.kind with
  | .drain add k int g none =>
      if k = b then { x with kind := .drain add k int g (some (bankOf m (k == 1)).acc), st := if (bankOf m (k == 1)).poison then 5 else x.st } else x
  | _ => x

/-- Every drain command that waits to read bank b has read it. -/
def readBank (c : Core) (b : Nat) : Core :=
  let ch := c.cp.ch.map (fun l => l.map (readTile c.mx b))
  let bk := bankOf c.mx (b == 1)
  { c with cp := { c.cp with ch := ch }, mx := setBank c.mx (b == 1) { bk with taken := false, st := if bk.taken then .free else bk.st } }

/-- DRAIN_TILE_READ_DONE: a drain command at the head of its channel has read the whole tile, and its bank is free (R257). Choice: n, the channel. -/
def execDrainTileReadDone (s : State) : Out :=
  .next (
    match chanOf (me s) (BitVec.ofNat 2 s.choice.n) with
    | [] => s
    | x :: _ => (match x.kind with | .drain _ b _ _ none => onMe s (fun c => readBank c b) | _ => s))

/-- Zero the banks that MZERO names: a tile that a drain command holds has been read; a retirement is discarded (R258). -/
def zeroBanks (z0 z1 : Bool) (c : Core) : Core :=
  let one (b : Bool) (c : Core) : Core :=
    let c := readBank c (if b then 1 else 0)
    { c with mx := setBank c.mx b { ord := (bankOf c.mx b).ord } }
  let c := if z0 then one false c else c
  if z1 then one true c else c

/-- MZERO (R258). -/
def execMzero (z0 z1 : Bool) (s : State) : Out :=
  .next (
    let act (b : Bool) : Bool := (bankOf (me s).mx b).st == .active
    matWait (engWait s .matrix true (!(z0 && act false) && !(z1 && act true))) id
      (fun s => retireEng (onMe s (zeroBanks z0 z1)) .matrix 0))

/-- MATRIX_WAIT_EXPIRY: the wait of the nest, or of MGO, MDRAIN or MZERO, has passed its deadline (R259, R319). -/
def execMatrixWaitExpiry (s : State) : Out :=
  .next (asTickEnds s (fun s =>
    if !engineRuns (me s) then s
    else if (me s).mx.wait.isSome then nestLate s
    else if engWaits s .matrix then
      (match curInstr s .matrix with
       | some .mgo => if (me s).mx.mgoNext.isSome then mgoStep s else s
       | some (.mdrain rpt ch o dmode all) => drainStep s rpt ch o dmode all
       | some (.mzero z0 z1) =>
           let act (b : Bool) : Bool := (bankOf (me s).mx b).st == .active
           matWait (engWait s .matrix true (!(z0 && act false) && !(z1 && act true))) id
             (fun s => retireEng (onMe s (zeroBanks z0 z1)) .matrix 0)
       | _ => s)
    else s))

end Sys2Proof.Machine
end

