-- ==== Sys2Proof/Machine/Copy.lean ====
section
/-! DEFINITION. The copy engine (spec/09_copy.md R170 to R184, R192, spec/05_tiers.md R103, R469): the transfer words, XDCF, XMOVE's
issue, and the steps of their commands on the channels. -/

namespace Sys2Proof.Machine

/-! ## Channels (R171 to R176) -/

/-- The precedence of the statuses in which a command may end (R174, R469). -/
def stRank (n : Nat) : Nat := match n with | 4 => 4 | 5 => 3 | 1 => 2 | 7 => 1 | _ => 0

/-- The status of a command that has met both. -/
def worse (a b : Nat) : Nat := if stRank a < stRank b then b else a

/-- The channel of a number. -/
def chNo (n : Nat) : BitVec 2 := BitVec.ofNat 2 n

/-- Replace command i of a channel. -/
def setCmd (s : State) (ch : BitVec 2) (i : Nat) (x : CCmd) : State := onMe s (fun c => setChan c ch (listSet (chanOf c ch) i x))

/-- The channel has room for a command (R171). -/
def chanRoom (s : State) (ch : BitVec 2) : Bool := decide ((chanOf (me s) ch).length < 8)

/-- Send the write-combining entries of every sequencer (R176). -/
def drainWc (s : State) : State := wcFlushAll s

/-- Enqueue a command on a channel: numbered, with XDL as it stands and the operations that its release covers (R171, R173, R176). -/
def enqueue (s : State) (ch : BitVec 2) (x : CCmd) : State :=
  let (id, s) := fresh s
  let s := if x.rel then drainWc s else s
  let c := me s
  let before := if x.rel then releaseSet c ch else []
  onMe s (fun c => setChan c ch (chanOf c ch ++ [{ x with id := id, dl := c.xe.dl, before := before }]))

/-- The outcome of a check made only where none of these slots is poisoned (R406). -/
def cleanThen {α : Type} (s : State) (slots : List (BitVec 6)) (r : Except Trap α) : Except Trap α :=
  match slotsClean s slots with
  | .error t => .error t
  | .ok _ => r

/-- A copy word's repeat that enqueues one command: it waits for room in its channel, checks and captures, or traps with nothing
enqueued (R171, R179); POISON where a slot that it names is poisoned (R406). `slot` is what a trace record of the issue names (R438). -/
def copyWord (s : State) (ch : BitVec 2) (rpt slot : Nat) (slots : List (BitVec 6)) (mk : State → Except Trap CCmd) : State :=
  if !chanRoom s ch then s
  else
    match cleanThen s slots (mk s) with
    | .error t => engTrap s .copy t
    | .ok x => retireEng (onMe (enqueue s ch x) (fun c => trc s.ex.val s.gtc c .copy 4 (BitVec.ofNat 64 slot))) .copy rpt

/-- n × STEP of the current repeat. -/
def stepK (s : State) (h : XH) : Int := ((me s).xe.rep : Int) * h.step.toInt

/-- The check of every slot of a list under R168. -/
def checkAll (s : State) (w : W64) : List (List Byte) → Except Trap Unit
  | [] => .ok ()
  | b :: r => (match checkTsr s w b with | .error t => .error t | .ok _ => checkAll s w r)

/-- The slots that a repeat names: RVALID of each before any other check (R169), then R168. -/
def useSlots (s : State) (bs : List (List Byte)) : Except Trap Unit :=
  if bs.any (fun b => !tValid b) then .error (.protect 0) else checkAll s (curEng s .copy) bs

/-- Two slots have equal boxes. -/
def sameBox (a b : List Byte) : Bool := (List.range 5).all (fun i => tBox a i == tBox b i)

/-- The address of parameter word PW + n of the segment (R170). -/
def paramAt (c : Core) (n : Nat) : W64 := c.xe.param + BitVec.ofNat 64 (8 * n)

/-! ## Transfer words (R179 to R184) -/

/-- ILLEGAL of the current copy word. -/
def illegalCopy (s : State) : Trap := .illegal (curEng s .copy)

/-- XNOP (R71). -/
def execXnop (rpt : BitVec 6) (s : State) : Out := .next (retireEng s .copy rpt.toNat)

/-- The checks of XCOPY (R180, R181). -/
def checkCopy (s : State) (td ts : List Byte) (tag : Bool) : Except Trap Unit :=
  match useSlots s [td, ts] with
  | .error t => .error t
  | .ok _ =>
      if (tag && decide (tSpace td < 2)) || !sameBox td ts || !convOk (tFmt ts) (tFmt td) then .error (illegalCopy s) else .ok ()

/-- XCOPY (R181). -/
def execXcopy (h : XH) (td ts : BitVec 6) (ch : BitVec 2) (o : Order) (tag : Bool) (s : State) : Out :=
  .next (copyWord s ch h.rpt.toNat td.toNat [td, ts] (fun s =>
    let d := slotOf (me s) td.toNat
    let b := slotOf (me s) ts.toNat
    match checkCopy s d b tag with
    | .error t => .error t
    | .ok _ => .ok { kind := .copy, td := d, ts := b, k := stepK s h, tag := tag, acq := o.acq, rel := o.rel, scope := o.scope }))

/-- The pairs of formats that XADD takes (R182). -/
def addOk (src dst : Nat) : Bool := (dst == 6 && (src == 6 || decide (src ≤ 3))) || (dst == 7 && (src == 7 || src == 5))

/-- The checks of XADD (R182). -/
def checkAdd (s : State) (td ts : List Byte) : Except Trap Unit :=
  match useSlots s [td, ts] with
  | .error t => .error t
  | .ok _ => if !sameBox td ts || !addOk (tFmt ts) (tFmt td) || decide (1 < tSpace td) then .error (illegalCopy s) else .ok ()

/-- XADD (R182). -/
def execXadd (h : XH) (td ts : BitVec 6) (ch : BitVec 2) (o : Order) (s : State) : Out :=
  .next (copyWord s ch h.rpt.toNat td.toNat [td, ts] (fun s =>
    let d := slotOf (me s) td.toNat
    let b := slotOf (me s) ts.toNat
    match checkAdd s d b with
    | .error t => .error t
    | .ok _ => .ok { kind := .add, td := d, ts := b, k := stepK s h, acq := o.acq, rel := o.rel, scope := o.scope }))

/-- The combination of slots that XGATH and XSCAT take: data slot, row slot, index slot (R183). -/
def indexOk (data row ti td ts : List Byte) : Bool :=
  tRank ti == 1 && tFmt ti == 7 && decide (2 ≤ tRank data) && tBox td 0 == tBox ts 0 && convOk (tFmt ts) (tFmt td) &&
  tBox row 1 == tBox ti 0 && tBox row 2 == 1 && tBox row 3 == 1 && tBox row 4 == 1

/-- The checks of XGATH and XSCAT (R180, R183). -/
def checkIndexed (s : State) (td ts ti : List Byte) (gath tag : Bool) : Except Trap Unit :=
  match useSlots s [td, ts, ti] with
  | .error t => .error t
  | .ok _ =>
      if (tag && decide (tSpace td < 2)) || !(if gath then indexOk ts td ti td ts else indexOk td ts ti td ts) then .error (illegalCopy s)
      else .ok ()

/-- XGATH (R183). -/
def execXgath (h : XH) (td ts ti : BitVec 6) (ch : BitVec 2) (o : Order) (tag : Bool) (s : State) : Out :=
  .next (copyWord s ch h.rpt.toNat td.toNat [td, ts, ti] (fun s =>
    let d := slotOf (me s) td.toNat
    let b := slotOf (me s) ts.toNat
    let i := slotOf (me s) ti.toNat
    match checkIndexed s d b i true tag with
    | .error t => .error t
    | .ok _ => .ok { kind := .gath, td := d, ts := b, ti := i, k := stepK s h, tag := tag, acq := o.acq, rel := o.rel, scope := o.scope }))

/-- XSCAT (R183). -/
def execXscat (h : XH) (td ts ti : BitVec 6) (ch : BitVec 2) (o : Order) (s : State) : Out :=
  .next (copyWord s ch h.rpt.toNat td.toNat [td, ts, ti] (fun s =>
    let d := slotOf (me s) td.toNat
    let b := slotOf (me s) ts.toNat
    let i := slotOf (me s) ti.toNat
    match checkIndexed s d b i false false with
    | .error t => .error t
    | .ok _ => .ok { kind := .scat, td := d, ts := b, ti := i, k := stepK s h, acq := o.acq, rel := o.rel, scope := o.scope }))

/-- The checks of XFILL (R180, R184). -/
def checkFill (s : State) (td : List Byte) (tag : Bool) : Except Trap Unit :=
  match useSlots s [td] with
  | .error t => .error t
  | .ok _ => if (tag && decide (tSpace td < 2)) || tFmt td == 4 then .error (illegalCopy s) else .ok ()

/-- XFILL: its parameter word is read when the repeat issues; a read that does not translate is held at the head of its channel's queue
(R170, R184). -/
def execXfill (h : XH) (td : BitVec 6) (ch : BitVec 2) (o : Order) (tag : Bool) (pw : BitVec 10) (s : State) : Out :=
  .next (
    let va := paramAt (me s) pw.toNat
    let d := slotOf (me s) td.toNat
    let go (v : Option W64) (s : State) : State := copyWord s ch h.rpt.toNat td.toNat [td] (fun s =>
      .ok { kind := .fill v va, td := d, k := stepK s h, tag := tag, acq := o.acq, rel := o.rel, scope := o.scope })
    if !chanRoom s ch then s
    else
      match cleanThen s [td] (checkFill s d tag) with
      | .error t => engTrap s .copy t
      | .ok _ =>
          match plainRead .copy 1 s va with
          | (.blocked, s) => s
          | (.trap t, s) => if t.xf.isSome then go none s else engTrap s .copy t
          | (.ok bs, s) => go (some (field64 bs 0 8)) s)

/-- XDCF (R192). -/
def execXdcf (h : XH) (t : BitVec 6) (ch : BitVec 2) (s : State) : Out :=
  .next (copyWord s ch h.rpt.toNat t.toNat [t] (fun s =>
    let d := slotOf (me s) t.toNat
    match useSlots s [d] with
    | .error t => .error t
    | .ok _ => .ok { kind := .xdcf, td := d, k := stepK s h, rel := true, scope := 3 }))

/-- XMOVE: a slot that is not valid, a null handle or one that the context does not own traps PROTECT (R115, R116). -/
def execXmove (h : XH) (t : BitVec 6) (npg : BitVec 16) (ch : BitVec 2) (s : State) : Out :=
  .next (copyWord s ch h.rpt.toNat t.toNat [t] (fun s =>
    let d := slotOf (me s) t.toNat
    if !tValid d || (ownTht s (ctxOf s) (tHandle d)).isNone then .error (.protect 0)
    else .ok { kind := .move (tHandle d) npg.toNat 0 false, td := d }))

/-! ## What one request of a command reads and writes -/

/-- The pages of a box in ascending request order (R192): page numbers of slot addresses. -/
def boxPages (b : List Byte) (g : List Int) : List Nat :=
  ((boxRuns b g).foldl (fun (acc : List Nat) r =>
    let p := elemN b g r.row (coordAt b g 0 r.e) / 2 / 65536
    if acc.contains p then acc else acc ++ [p]) [])

/-- The destination box of a command: its slot's, with G stepped where the slot steps (R167, R183); a drain's is its record's (R257). -/
def dstG (x : CCmd) : List Int :=
  match x.kind with
  | .drain _ _ _ g _ => g
  | .scat => gOf x.td 0
  | _ => gOf x.td x.k

/-- Consecutive runs whose values of f agree form one group. -/
def groupRuns (f : Run1 → Nat) : List Run1 → List (List Run1)
  | [] => []
  | r :: l =>
      match groupRuns f l with
      | [] => [[r]]
      | u :: us => match u with
        | [] => [r] :: us
        | q :: _ => if f r = f q then (r :: u) :: us else [r] :: u :: us

/-- The slot address of box position e of a row. -/
def rowAddr (b : List Byte) (g : List Int) (r : List Nat) (e : Nat) : Nat := elemN b g r (coordAt b g 0 e) / 2

/-- The requests of a command in order: the consecutive runs of its destination within one line, single runs where it adds, the runs of the source rows
of an XSCAT, whose destinations its indices choose (R172, R177; DEDUCED, log 8). -/
def unitList (x : CCmd) : List (List Run1) :=
  let runs := boxRuns x.td (dstG x)
  match x.kind with
  | .scat => (boxRuns x.ts (gOf x.ts x.k)).map (fun r => [r])
  | .add => runs.map (fun r => [r])
  | .drain true _ _ _ _ => runs.map (fun r => [r])
  | _ => groupRuns (fun r => rowAddr x.td (dstG x) r.row r.e / 128) runs

/-- The number of a command's requests, before any expiry cut it short; those of an XDCF are pages. -/
def fullUnits (x : CCmd) : Nat :=
  match x.kind with
  | .xdcf => if 1 < tSpace x.td then 0 else (boxPages x.td (dstG x)).length
  | _ => (unitList x).length

/-- The requests that the command still has to make. -/
def unitsOf (x : CCmd) : Nat := x.cut.getD (fullUnits x)

/-- The read met poison. -/
def CRead.poison (x : CRead) : Bool := !x.marks.isEmpty

/-- The part of the marks that lies in n bytes from offset k, counted from k. -/
def markPart (l : Marks) (k n : Nat) : Marks :=
  (l.filter (fun e => decide (e.1 < k + n) && decide (k < e.1 + e.2))).map (fun e => (max e.1 k - k, min (e.1 + e.2) (k + n) - max e.1 k))

/-- Marks counted from pos bytes earlier. -/
def markAt (l : Marks) (pos : Nat) : Marks := l.map (fun e => (pos + e.1, e.2))

/-- The poisoned bytes among n bytes of one line at a location: by sectors at a slice, by words in a scratchpad (R405). -/
def locMarks (s : State) (l : Loc) (n : Nat) : Marks :=
  match l with
  | .gone => []
  | .spad ex a =>
      markPart (((List.range (n / 8 + 2)).filter (fun i => spPoison (coreAt s ex) ((a / 8 + i) * 8) 1)).map (fun i => (8 * i, 8))) (a % 8) n
  | .pa pa =>
      markPart (((List.range 4).filter (fun i => slicePoison1 s.ms (pa / 128 * 128 + 32 * i) 32)).map (fun i => (32 * i, 32))) (pa % 128) n

/-- The marks of bytes of elements carried to the bytes of the elements they become, of widths es and ed in half bytes (R174, R181). -/
def markConv (es ed : Nat) (l : Marks) : Marks :=
  if es = ed then l
  else l.map (fun e =>
    let lo := 2 * e.1 / es * ed / 2
    (lo, ((2 * (e.1 + e.2) + es - 1) / es * ed + 1) / 2 - lo))

/-- The side bytes of the blocks that lie whole in n bytes read from offset o of a line, with their places from pos. -/
def sideBlocks (pos o n : Nat) (x : SRead) : List (Nat × BitVec 4 × List Byte) :=
  let k := blockBytes x.tag
  (List.range (x.side.length / sidePer x.tag)).filterMap (fun i =>
    if o % k ≤ k * i ∧ k * i + k ≤ n + o % k then some (pos + (k * i - o % k), x.tag, (x.side.drop (sidePer x.tag * i)).take (sidePer x.tag)) else none)

/-- Read n bytes of one line from slot address a, which stand at place pos of what is read. -/
def readPiece (s : State) (b : List Byte) (a n pos : Nat) : Except Trap CRead × State :=
  match locate s b a .read .copy with
  | (.error t, s) => (.error t, s)
  | (.ok l, s) =>
      let (x, s) := readLoc s l n
      (.ok { data := x.data, marks := markAt (locMarks s l n) pos, closed := x.closed, side := sideBlocks pos (a % 128) n x }, s)

/-- Two reads, one after the other. -/
def CRead.join (x y : CRead) : CRead :=
  { data := x.data ++ y.data, marks := x.marks ++ y.marks, closed := x.closed || y.closed, side := x.side ++ y.side }

/-- Read n bytes from slot address a, line by line; fuel bounds the lines. -/
def readCopyN (b : List Byte) : Nat → State → Nat → Nat → Nat → Except Trap CRead × State
  | 0, s, _, _, _ => (.ok {}, s)
  | f + 1, s, a, n, pos =>
      if n = 0 then (.ok {}, s)
      else
        let k := min n (128 - a % 128)
        match readPiece s b a k pos with
        | (.error t, s) => (.error t, s)
        | (.ok x, s) =>
            match readCopyN b f s (a + k) (n - k) (pos + k) with
            | (.error t, s) => (.error t, s)
            | (.ok y, s) => (.ok (x.join y), s)

/-- Read n bytes from slot address a as a copy command does. -/
def readCopy (s : State) (b : List Byte) (a n : Nat) : Except Trap CRead × State := readCopyN b (n / 128 + 2) s a n 0

/-- The bytes that an access from address a makes now, of n: all, or where the turn's choice cuts it whole atomic units from its start (R226, R349). -/
def cutAt (s : State) (b : List Byte) (a n : Nat) : Nat :=
  if s.choice.cut = 0 then n
  else
    let u := if 2 ≤ tSpace b then 8 else 32
    min n (max (u - a % u) ((a + s.choice.cut) / u * u - a))

/-- A read in progress has ended or stands where it stands. -/
def setPart (c : Core) (p : Part) (on : Bool) : Core := { c with parts := c.parts.filter (fun q => q.at_ != p.at_) ++ (if on then [p] else []) }

/-- The next units of a read of n bytes from slot address a, which the queue `at_` makes for the owner with a number; none where more are to come
(R142, R172, R349). -/
def readWide (s : State) (at_ : HeldAt) (own : Nat) (b : List Byte) (a n : Nat) : Except Trap (Option CRead) × State :=
  let p : Part := ((me s).parts.find? (fun q => q.at_ == at_ && q.own == own && q.va == a && q.n == n)).getD { at_ := at_, own := own, va := a, n := n }
  let o := p.got.data.length
  let k := cutAt s b (a + o) (n - o)
  match readCopyN b (k / 128 + 2) s (a + o) k o with
  | (.error t, s) => (.error t, s)
  | (.ok y, s) =>
      let p := { p with got := p.got.join y }
      if o + k < n then (.ok none, onMe s (fun c => setPart c p true)) else (.ok (some p.got), onMe s (fun c => setPart c p false))

/-- Bytes of n elements of a format. -/
def elemBytes (fmt n : Nat) : Nat := n * esize2 fmt / 2

/-- Unclipped elements of a row from box position e, at most n. -/
def liveFrom (b : List Byte) (g : List Int) (r : List Nat) (e n : Nat) : Nat := min n (rowLen b g r - e)

/-- m elements converted from one format to another, then zero to n elements (R181). -/
def convBytes (src dst : Nat) (bs : List Byte) (m n : Nat) : List Byte :=
  if src = dst then bs ++ zeros (elemBytes dst n - bs.length)
  else packCodes dst ((List.range n).map (fun i => if i < m then conv src dst (elemCode src bs i) else 0))

/-- m elements widened to FP32 or INT32 (R182). -/
def widenWords (src dst : Nat) (bs : List Byte) (m : Nat) : List Byte :=
  (List.range m).flatMap (fun i =>
    let x := elemCode src bs i
    leBytes 4 (if dst = 6 then (widenF32 src x).toNat else if src = 5 then (sextI8 x).toNat else x))

/-- An item of the data queue and what its reads met: poison (5) or a tensor that is gone (7). -/
def itemOf (a : Nat) (data : List Byte) (side : List (Nat × BitVec 4 × List Byte)) (r : CRead) : CItem × Nat :=
  ({ at_ := a, data := data, marks := r.marks, side := side }, if r.poison then 5 else if r.closed then 7 else 0)

/-- Index element j: −1 where clipped (R183). -/
def indexAt (s : State) (x : CCmd) (j : Nat) : Except Trap (Int × CRead) × State :=
  let g := gOf x.ti x.k
  if rowLen x.ti g [0, 0, 0, 0] ≤ j then (.ok (-1, {}), s)
  else
    match readCopy s x.ti (rowAddr x.ti g [0, 0, 0, 0] j) 4 with
    | (.error t, s) => (.error t, s)
    | (.ok y, s) => (.ok ((BitVec.ofNat 32 (leNat y.data)).toInt, y), s)

/-- Coordinates 2 to 4 of the data slot, and whether the row idx of it is clipped (R183). -/
def dataClipped (b : List Byte) (g : List Int) (idx : Int) : Bool :=
  decide (idx < 0) || decide ((tSize b 1 : Int) ≤ idx) ||
  [2, 3, 4].any (fun i => decide (tSize b i ≤ (listGet 0 g i).toNat * tBox b i))

/-- The slot address of element e of row idx of the data slot. -/
def dataAddr (b : List Byte) (g : List Int) (idx : Int) (e : Nat) : Nat :=
  (2 * tOffset b + ((listGet 0 g 0).toNat * tBox b 0 + e) * esize2 (tFmt b) + 2 * (tStride b 1 * idx.toNat) +
    ([2, 3, 4].map (fun i => 2 * (tStride b i * ((listGet 0 g i).toNat * tBox b i)))).sum) / 2

/-- Unclipped elements of dimension 0 of the data slot from position e, at most n. -/
def dataLive (b : List Byte) (g : List Int) (e n : Nat) : Nat := min n (tSize b 0 - ((listGet 0 g 0).toNat * tBox b 0 + e))

/-- The address and number of bytes that a run of a command reads of its source, its index known: the elements of the same box positions; of an XGATH the
row that its index names; of an XSCAT the run itself; nothing where the index is poisoned, clipped or names no row (R181 to R183, R405). -/
def srcOf (x : CCmd) (r : Run1) (idx : Int × Nat) : Nat × Nat :=
  let n := elemBytes (tFmt x.ts)
  match x.kind with
  | .gath =>
      let g := gOf x.ts 0
      (dataAddr x.ts g idx.1 r.e, n (if idx.2 = 5 ∨ dataClipped x.ts g idx.1 then 0 else dataLive x.ts g r.e r.n))
  | .scat =>
      let g := gOf x.td 0
      (rowAddr x.ts (gOf x.ts x.k) r.row r.e, n (if idx.2 = 5 ∨ dataClipped x.td g idx.1 then 0 else dataLive x.td g r.e r.n))
  | _ =>
      let g := gOf x.ts x.k
      (rowAddr x.ts g r.row r.e, n (liveFrom x.ts g r.row r.e r.n))

/-- The side bytes that a copy carries: those of its source's blocks where both slots have one format; an E2M1 copy carries those of lines of tag 4
alone, and of another line the code bytes only (R157, R181). -/
def sideOf (x : CCmd) (y : CRead) : List (Nat × BitVec 4 × List Byte) :=
  if tFmt x.ts = tFmt x.td then (if tFmt x.ts = 4 then y.side.filter (fun e => e.2.1 == 4) else y.side) else []

/-- What a run writes, its source read, and the status that it met (R174, R181 to R183): a gathered run wholly poisoned where its index is (R405). -/
def runItem (x : CCmd) (r : Run1) (idx : Int × Nat) (y : CRead) : CItem × Nat :=
  let fs := tFmt x.ts
  let fd := tFmt x.td
  let m := 2 * y.data.length / esize2 fs
  let w : CRead := { y with marks := markConv (esize2 fs) (esize2 fd) y.marks }
  match x.kind with
  | .add => itemOf (rowAddr x.td (dstG x) r.row r.e) (widenWords fs fd y.data m) [] w
  | .gath =>
      let it := itemOf (rowAddr x.td (dstG x) r.row r.e) (convBytes fs fd y.data m r.n) (sideOf x y)
        (if idx.2 = 5 then { w with marks := [(0, elemBytes fd r.n)] } else w)
      (it.1, worse idx.2 it.2)
  | .scat =>
      let it := itemOf (dataAddr x.td (gOf x.td 0) idx.1 r.e) (convBytes fs fd y.data m m) (sideOf x y) w
      (it.1, worse idx.2 it.2)
  | _ => itemOf (rowAddr x.td (dstG x) r.row r.e) (convBytes fs fd y.data m r.n) (sideOf x y) w

/-- One run of an XFILL (R184). -/
def fillItem (x : CCmd) (v : W64) (r : Run1) : CItem :=
  { at_ := rowAddr x.td (dstG x) r.row r.e, data := (List.replicate r.n (leBytes (esize2 (tFmt x.td) / 2) v.toNat)).flatten }

/-- One run of a drain: the tile's elements in C's format, or the addends (R257). -/
def drainItem (x : CCmd) (add int : Bool) (tile : List (List W32)) (r : Run1) : CItem :=
  let vs := ((listGet [] tile (listGet 0 r.row 0)).drop r.e).take r.n
  let vs := vs ++ List.replicate (r.n - vs.length) 0
  let f := tFmt x.td
  { at_ := rowAddr x.td (dstG x) r.row r.e
    data := if add then vs.flatMap (fun v => leBytes 4 v.toNat)
            else packCodes f (vs.map (fun v => if int then (if f = 5 then clampI8 v else v.toNat) else narrowF32 f v)) }

/-- The byte that the last of a list of items writes at an address, if any does. -/
def itemByte (l : List CItem) (a : Nat) : Option Byte :=
  l.reverse.findSome? (fun it => if it.at_ ≤ a then it.data[a - it.at_]? else none)

/-- The items of one request in one: the bytes from the first to the last that they write, later ones prevailing, with the bytes between them left
out. -/
def joinItems (l : List CItem) : CItem :=
  match l.filter (fun it => !it.data.isEmpty) with
  | [] => {}
  | [it] => it
  | it :: r =>
      let lo := r.foldl (fun a y => min a y.at_) it.at_
      let hi := r.foldl (fun a y => max a (y.at_ + y.data.length)) (it.at_ + it.data.length)
      let l := it :: r
      { at_ := lo
        data := (List.range (hi - lo)).map (fun i => (itemByte l (lo + i)).getD 0)
        holes := (List.range (hi - lo)).filterMap (fun i => if (itemByte l (lo + i)).isNone then some (i, 1) else none)
        marks := l.flatMap (fun y => y.marks.map (fun e => (y.at_ - lo + e.1, e.2)))
        side := l.flatMap (fun y => y.side.map (fun e => (y.at_ - lo + e.1, e.2))) }

/-- The command once a request's item stands in the data queue: its next request begins. -/
def queueItem (x : CCmd) (it : CItem) : CCmd := { x with rd := x.rd + 1, buf := x.buf ++ [it], run := 0, got := [] }

/-- A run of request u has been read; after the last, the request's item joins the data queue. The index is kept for a next run of the same row. -/
def endRun (x : CCmd) (u : List Run1) (r : Run1) : CCmd :=
  let (it, st) := runItem x r (x.idx.getD (0, 0)) x.acc
  let next := match u[x.run + 1]? with | some q => some q | none => (listGet [] (unitList x) (x.rd + 1)).head?
  let same := match next with | some q => q.row == r.row | none => false
  let x := { x with got := x.got ++ [it], run := x.run + 1, acc := {}, idx := if same then x.idx else none, st := worse x.st st }
  if x.run < u.length then x else queueItem x (joinItems x.got)

/-- The command's source rows are named by indices (R183). -/
def indexed (x : CCmd) : Bool := match x.kind with | .gath => true | .scat => true | _ => false

/-- The bytes from slot address a to the end of what one read serves: its line, or where cap says so its atomic unit, a sector of memory or a word of a
scratchpad (R172, R226, R349). -/
def readSpan (b : List Byte) (a : Nat) (cap : Bool) : Nat :=
  let u := if !cap then 128 else if 2 ≤ tSpace b then 8 else 32
  u - a % u

/-- One read request of a command: an index element, or the next bytes of a run's source within one line, or within one atomic unit where cap says so
(R172, R349). What an XFILL or a drain writes needs no read. -/
def readReq (s : State) (x : CCmd) (cap : Bool) : Except Trap CCmd × State :=
  let u := listGet [] (unitList x) x.rd
  match x.kind with
  | .fill (some v) _ => (.ok (queueItem x (joinItems (u.map (fun r => fillItem x v r)))), s)
  | .drain add _ int _ (some tile) => (.ok (queueItem x (joinItems (u.map (fun r => drainItem x add int tile r)))), s)
  | _ =>
      match u[x.run]? with
      | none => (.ok (queueItem x {}), s)
      | some r =>
          if indexed x && x.idx.isNone then
            (match indexAt s x (listGet 0 r.row 0) with
             | (.error t, s) => (.error t, s)
             | (.ok (i, y), s) => (.ok { x with idx := some (i, if y.poison then 5 else if y.closed then 7 else 0) }, s))
          else
            let (a, n) := srcOf x r (x.idx.getD (0, 0))
            let o := x.acc.data.length
            if n ≤ o then (.ok (endRun x u r), s)
            else
              let k := min (n - o) (readSpan x.ts (a + o) cap)
              match readPiece s x.ts (a + o) k o with
              | (.error t, s) => (.error t, s)
              | (.ok y, s) =>
                  let x := { x with acc := x.acc.join y }
                  (.ok (if n ≤ o + k then endRun x u r else x), s)

/-! ## The steps of a channel -/

/-- The command has no requests of this kind: it runs alone on its channel. -/
def alone (x : CCmd) : Bool :=
  match x.kind with
  | .move _ _ _ _ => true
  | .coll _ _ _ => true
  | .route _ _ _ _ => true
  | .rret _ _ => true
  | .ratArm _ _ => true
  | .ringCfg _ _ => true
  | .ringClose _ => true
  | .ringRelease _ => true
  | _ => false

/-- Every read request of a command has entered the queue. -/
def readsDone (x : CCmd) : Bool := if alone x then x.fin else decide (unitsOf x ≤ x.rd)

/-- Every write request of a command has left. -/
def sent (x : CCmd) : Bool := if alone x then x.fin else readsDone x && x.buf.isEmpty

/-- The next request of the command begins a new 4 KiB chunk, or the command has not begun (R175). -/
def atChunk (x : CCmd) : Bool := (x.wr == 0 && x.part == 0) || decide (x.bytes / 4096 ≠ x.last / 4096)

/-- A collective step has begun and not ended (R195). -/
def collRuns (x : CCmd) : Bool := match x.kind with | .coll _ _ (some _) => !x.fin | _ => false

/-- The channel stands at its stop point for a pre-emption: a held head request with what came before it written, its own command's and the earlier
ones', or every command at a chunk boundary; a suspend waits for the boundary of a collective's step (R175, R401, R456). -/
def chanStops (c : Core) (ch : BitVec 2) : Bool :=
  ((chanOf c ch).zipIdx).any (fun e =>
    e.1.wait.isSome && !(collRuns e.1 && c.run.quiesce) && (e.1.held || alone e.1 || e.1.buf.isEmpty) && ((chanOf c ch).take e.2).all sent) ||
  (chanOf c ch).all (fun x => (alone x && !(collRuns x && c.run.quiesce)) || sent x || (!alone x && atChunk x))

/-- Channels serve while the context is resident and no precise stop holds; a frozen core does not stop them, and an instance that is killed keeps
them to their chunk boundary (R394, R409, R435). -/
def chansRun (c : Core) : Bool := !c.run.dstop && (contextOn c || (c.run.live && (c.run.st == .handover || c.run.st == .killing)))

/-- A channel has to stop: at a pre-emption, which waits for a hand-over that has begun, or where its instance is killed (R124, R175, R409). -/
def stopAsked (c : Core) : Bool := (c.run.preq && c.run.st != .handover) || c.run.st == .killing

/-- A stream that the channel carries stands at a held request. -/
def strmHeld (c : Core) (ch : BitVec 2) : Bool :=
  c.cp.strms.any (fun e => match e.2 with | some x => x.ch == ch && c.held.any (fun h => h.1 == .strm e.1) | none => false)

/-- Command i may make a request of a channel whose command j holds one, y: the held request itself once its fault is settled, or again what a stop took
back of it; the requests of earlier commands, and the writes whose reads have returned, which stand before a held read (R103, R151, R172, R318). -/
def passesHeld (c : Core) (ch : BitVec 2) (i j : Nat) (y : CCmd) (write : Bool) : Bool :=
  (j == i && !c.held.any (fun h => h.1 == .chan ch.toNat) && (alone y || write == y.held || y.buf.isEmpty)) ||
  (!y.held && (decide (i < j) || (write && i == j)))

/-- Command i of a channel may make a request now: no earlier request of the channel is held ahead of it (R172, R175). -/
def mayStep (c : Core) (ch : BitVec 2) (i : Nat) (write : Bool) : Bool :=
  chansRun c && !(stopAsked c && chanStops c ch) && (write || !strmHeld c ch) &&
  ((chanOf c ch).zipIdx).all (fun e => e.1.wait.isNone || passesHeld c ch i e.2 e.1 write)

/-- A command whose head request waits from now on, for XDL as it captured it and DLMAX as it stands, or for what a stop left of that (R173, R317,
R318). -/
def waitFrom (c : Core) (x : CCmd) : CCmd :=
  if x.wait.isSome then x else { x with wait := some c.ctc, wdl := x.left.getD (min x.dl.toNat c.csr.dlmax.toNat), left := none }

/-- A held write is taken back: it is made again after its reads, and waits then for what remains of its deadline (R175, R318). -/
def takeBack (c : Core) (x : CCmd) : CCmd :=
  match x.wait with
  | some t0 => if x.held then { x with wait := none, held := false, left := some (x.wdl - (c.ctc - t0).toNat) } else x
  | none => x

/-- A request does not translate: it is held at the head of the channel's queue (R151, R172). -/
def holdChan (s : State) (ch : BitVec 2) (i : Nat) (x : CCmd) (write : Bool) (t : Trap) : State :=
  holdFault (setCmd s ch i { waitFrom (me s) x with held := write }) (.chan ch.toNat) .copy t

/-- The items in a channel's data queue. -/
def queued (c : Core) (ch : BitVec 2) : Nat := ((chanOf c ch).map (fun x => x.buf.length)).sum

/-- The command has made no read request. -/
def fresh0 (x : CCmd) : Bool := x.rd == 0 && x.run == 0 && x.idx.isNone && x.acc.data.isEmpty

/-- An acquire of a command's first read drops the lines of the core's L1 (R176, R353). -/
def acqNow (s : State) (x : CCmd) : State := if x.acq && fresh0 x && x.scope != 0 then l1Clear s else s

/-- The command after that read: it has acquired what was written by then (R352). -/
def acqFrom (s : State) (x : CCmd) : CCmd := if x.acq && fresh0 x then { x with acqAt := s.nextId } else x

/-- The parameter word of an XFILL that was held (R170). -/
def fillParam (s : State) (ch : BitVec 2) (i : Nat) (x : CCmd) (va : W64) : State :=
  match plainRead .copy 1 s va with
  | (.blocked, s) => s
  | (.trap t, s) =>
      if t.xf.isSome then holdChan s ch i x false t
      else setCmd s ch i { x with st := worse x.st 5, cut := some x.wr, wait := none }
  | (.ok bs, s) => setCmd s ch i { x with kind := .fill (some (field64 bs 0 8)) va, wait := none }

/-- One page of an XDCF: the join once the context's earlier writes to the page have reached their slices (R192). -/
def xdcfPage (s : State) (ch : BitVec 2) (i : Nat) (x : CCmd) : State :=
  let p := listGet 0 (boxPages x.td (dstG x)) x.rd
  match locate s x.td (p * 65536) .read .copy with
  | (.error t, s) => holdChan s ch i x false t
  | (.ok l, s) =>
      match l with
      | .pa pa =>
          let page := pa50 pa / 65536
          let late := (List.range 288).any (fun n =>
            let c := coreAt s n
            c.run.inst.ctx == ctxOf s && (laneWrites s n page x.id || c.reqs.any (fun r => r.spad.isNone && r.isWrite && pa50 r.pa / 65536 == page && decide (r.id < x.id)) ||
              c.wc.any (fun w => pa50 w.pa / 65536 == page && decide (w.id < x.id))))
          if late then s
          else
            let s := l1DropPage { s with ms := joinPage s.ms (page * 65536) } page (fun _ => true)
            setCmd s ch i { x with rd := x.rd + 1, wait := none }
      | _ => setCmd s ch i { x with rd := x.rd + 1, wait := none, st := worse x.st 7 }

/-- Every read request that a command still has to make leaves its queue without a fault, within the queue's 64; fuel bounds them. -/
def readsLeave : Nat → State → CCmd → Bool
  | 0, _, _ => false
  | f + 1, s, y =>
      if unitsOf y ≤ y.rd then true
      else
        match readReq s y false with
        | (.ok y, s) => readsLeave f s y
        | _ => false

/-- The reads of an earlier command of the channel have returned, or all have left the queue and may return after a later command's, which has no
acquire (R176, R364). -/
def readsPass (s : State) (x y : CCmd) : Bool :=
  !alone y && (readsDone y || (!x.acq && y.wait.isNone && (match y.kind with
    | .xdcf => false
    | .fill none _ => false
    | .drain _ _ _ _ none => false
    | _ => readsLeave 64 s y)))

/-- The next read request of command i of a channel. -/
def readStep (s : State) (ch : BitVec 2) (i : Nat) (x : CCmd) : State :=
  let c := me s
  let ready := mayStep c ch i false && decide (x.rd < unitsOf x) && decide (queued c ch < 64) &&
    ((chanOf c ch).take i).all (readsPass s x) && (!(x.acq && fresh0 x) || i == 0)
  if !ready then s
  else
    match x.kind with
    | .xdcf => if i = 0 then xdcfPage s ch i x else s
    | .fill none va => fillParam s ch i x va
    | .drain _ _ _ _ none => s
    | _ =>
        let x := takeBack c x
        match readReq (acqNow s x) (acqFrom s x) (s.choice.k != 0) with
        | (.error t, s) => holdChan s ch i x false t
        | (.ok y, s) => setCmd s ch i { y with wait := none }

/-- The rest of an item from offset k, within one 128-byte line. -/
def itemPart (it : CItem) (k : Nat) : List Byte := (it.data.drop k).take (128 - (it.at_ + k) % 128)

/-- The destination bytes among n bytes of the head item: what lies between its rows is none of the command's (R175, R177). -/
def destBytes (x : CCmd) (n : Nat) : Nat :=
  n - (match x.buf with | [] => 0 | it :: _ => ((markPart it.holes x.part n).map (fun e => e.2)).sum)

/-- The command after a write request of n bytes of its head item has left. -/
def wroteN (x : CCmd) (n : Nat) : CCmd :=
  let done := match x.buf with | [] => true | it :: _ => decide (it.data.length ≤ x.part + n)
  { x with wait := if x.held then none else x.wait, held := false, left := none, bytes := x.bytes + destBytes x n, last := x.bytes
           part := if done then 0 else x.part + n
           wr := if done then x.wr + 1 else x.wr
           buf := if done then x.buf.drop 1 else x.buf }

/-- The request of n bytes that a write makes at a location: a store or an add (R172, R182). -/
def writeReq (x : CCmd) (ch : BitVec 2) (it : CItem) (bs : List Byte) (l : Loc) : Option Req :=
  let sq : Seq := if isDrain x then .matrix else .copy
  let add := match x.kind with | .add => true | .drain a _ _ _ _ => a | _ => false
  let side := (it.side.filter (fun e => decide (x.part ≤ e.1) && decide (e.1 < x.part + bs.length))).map (fun e => (e.1 - x.part, e.2))
  let holes := markPart it.holes x.part bs.length
  let marks := markPart it.marks x.part bs.length
  match l with
  | .gone => none
  | .spad ex a => some { pa := a, spad := some ex, kind := .store bs, sq := sq, ch := ch.toNat, op := some x.id, tag := x.tag, marks := marks, holes := holes }
  | .pa a =>
      if add then
        let words := (List.range (bs.length / 4)).map (fun k => BitVec.ofNat 32 (field bs (4 * k) 4))
        some { pa := a, kind := .add (tFmt x.td == 7) words, sq := sq, ch := ch.toNat, op := some x.id, marks := marks }
      else some { pa := a, kind := .store bs, sq := sq, ch := ch.toNat, op := some x.id, host := isHost a, marks := marks, side := side, holes := holes }

/-- The destination lies in a page in flight: the write is held (R103). -/
def heldPage (s : State) (x : CCmd) (a : Nat) : Option (W32 × Nat) :=
  if tSpace x.td = 0 then
    (match ownTht s (ctxOf s) (tHandle x.td) with
     | some t => if inFlight t a then some (tHandle x.td, a / 65536) else none
     | none => none)
  else none

/-- A write request leaves, held no more: the request joins the core's, or is dropped where the tensor is gone (R469). -/
def sendWrite (s : State) (ch : BitVec 2) (i : Nat) (x : CCmd) (it : CItem) (l : Loc) : State :=
  let bs := itemPart it x.part
  let s := { s with holds := s.holds.filter (fun k => !(k.ex == s.ex.val && k.ch == ch.toNat)) }
  match writeReq x ch it bs l with
  | none => setCmd s ch i (wroteN { x with st := worse x.st 7 } bs.length)
  | some r =>
      let (id, s) := fresh s
      let s := onMe s (fun c => { c with reqs := c.reqs ++ [{ r with id := id }] })
      setCmd s ch i (wroteN { x with ids := x.ids ++ [id] } bs.length)

/-- The next write request of command i of a channel: sent, held at a page in flight (R103), or held at a fault (R151). -/
def writeStep (s : State) (ch : BitVec 2) (i : Nat) (x : CCmd) : State :=
  let c := me s
  let ready := mayStep c ch i true && ((chanOf c ch).take i).all sent
  match x.buf with
  | [] => s
  | it :: _ =>
      if !ready then s
      else if it.data.isEmpty then setCmd s ch i (wroteN x 0)
      else
        let a := it.at_ + x.part
        match heldPage s x a with
        | some (h, p) =>
            if s.holds.any (fun k => k.ex == s.ex.val && k.ch == ch.toNat) then s
            else
              setCmd { s with holds := s.holds ++ [{ h := h, page := p, ex := s.ex.val, ch := ch.toNat }] } ch i
                { waitFrom c x with held := true }
        | none =>
            match locate s x.td a .write .copy with
            | (.error t, s) => holdChan s ch i x true t
            | (.ok l, s) => sendWrite s ch i x it l

/-- The host has acknowledged every write that a SYSTEM-scope release of a command covers, what the command itself acquired among them (R352, R353). -/
def acksOf (s : State) (x : CCmd) : Bool := acksDone s s.ex.val x.id && !(x.acq && s.acks.any (fun a => decide (a.id < x.acqAt)))

/-- A command's own requests have been served, and its release, where it has one, performed (R174, R176). -/
def servedAll (s : State) (x : CCmd) : Bool :=
  let c := me s
  let out (n : Nat) : Bool := c.reqs.any (fun r => r.id == n || r.op == some n) || c.wc.any (fun w => w.id == n) || (scatIds c).contains n ||
    s.msgs.any (fun m => m.id == n)
  !(x.id :: x.ids).any out && (!x.rel || (!x.before.any out && (x.scope != 4 || acksOf s x)))

/-- The wait of the head request of a channel has expired, or the gang has aborted: the command ends at that request, those before it
keep their effect (R173). -/
def cutCmd (s : State) (ch : BitVec 2) (i : Nat) (x : CCmd) (code : Nat) : State :=
  let n := if x.held then x.wr else x.rd
  let x := { x with cut := some n, rd := n, wait := none, held := false, st := worse x.st code, run := 0, idx := none, acc := {}, got := []
                    buf := if x.held then [] else x.buf, part := if x.held then 0 else x.part }
  setCmd (onMe { s with holds := s.holds.filter (fun k => !(k.ex == s.ex.val && k.ch == ch.toNat)) }
    (fun c => { c with held := c.held.filter (fun h => h.1 != .chan ch.toNat) })) ch i x

/-- The command of a channel whose head request waits, with its place. -/
def waitingCmd (c : Core) (ch : BitVec 2) : Option (Nat × CCmd) :=
  (((chanOf c ch).zipIdx).find? (fun e => e.1.wait.isSome)).map (fun e => (e.2, e.1))

/-- The outcome of a channel's wait at this moment: 4 ABORTED, 1 expired, none while it lasts (R173, R317). -/
def chanLate (s : State) (x : CCmd) : Option Nat :=
  match x.wait with
  | none => none
  | some t0 =>
      if gangAborted s (me s) then some 4
      else if x.wdl ≤ ((me s).ctc - t0).toNat then some 1
      else none

end Sys2Proof.Machine
end

