-- ==== Sys2Proof/Machine/Stream.lean ====
section
/-! DEFINITION. Loading and patching tensor shape slots (spec/09_copy.md R185, R186) and the streams (R187 to R191): XTSRLD, XPATCH,
XSTRM, SBIND, SFREE, the arrival of their reads and the expiries of their waits. -/

namespace Sys2Proof.Machine

/-! ## Streams -/

/-- Unbind q: its arrived rows are discarded and its prefetch is cancelled (R191). -/
def unbindStrm (c : Core) (q : Nat) : Core :=
  setStrm { c with held := c.held.filter (fun h => h.1 != .strm q) } q none

/-- Unbind every stream that is bound to slot t (R186). -/
def unbindSlot (c : Core) (t : Nat) : Core :=
  c.cp.strms.foldl (fun (c : Core) (e : Nat × Option Strm) => match e.2 with | some x => if x.t = t then unbindStrm c e.1 else c | none => c) c

/-- The check of a binding (R187, R169): PROTECT where RVALID is clear, else ILLEGAL; `w` is the word. -/
def checkBind (s : State) (w : W64) (t : Nat) : Except Trap Unit :=
  let b := slotOf (me s) t
  if !tValid b then .error (.protect 0)
  else
    match checkTsr s w b with
    | .error _ => .error (.illegal w)
    | .ok _ => if tFmt b = 4 ∨ tBox b 0 * esize2 (tFmt b) ≠ 512 then .error (.illegal w) else .ok ()

/-- Bind q to slot t on a channel: the slot is captured, POS ← 0 (R187, R190). -/
def bindStrm (s : State) (q t : Nat) (ch : BitVec 2) : State :=
  let (id, s) := fresh s
  onMe s (fun c => setStrm c q (some { bind := id, slot := slotOf c t, t := t, ch := ch }))

/-- The wait of SBIND for fewer than four streams on its channel (R190). -/
def sbindStep (s : State) (d : Reg) (q : BitVec 4) (t : BitVec 6) (ch : BitVec 2) : State :=
  awaiting s d (decide (strmCount (me s) ch < 4)) 1 id (fun s => done (bindStrm s q.toNat t.toNat ch) d 0)

/-- SBIND (R190). -/
def execSbind (g : Guard) (d c : Reg) (e : Bool) (q : BitVec 4) (t : BitVec 6) (ch : BitVec 2) (s : State) : Out :=
  .next (guardedW g s (fun s =>
    if waits s then sbindStep s d q t ch
    else
      match cleanThen s [t] (checkBind s (curWord s) t.toNat) with
      | .error tr => trapControl s tr
      | .ok _ => sbindStep (startWait (onMe s (fun k => unbindStrm k q.toNat)) (dlOf s c) e d (.sbind q t ch)) d q t ch))

/-- SFREE (R191). -/
def execSfree (g : Guard) (d : Reg) (q : BitVec 4) (s : State) : Out :=
  .next (guarded g s (fun s =>
    match strmAt (me s) q.toNat with
    | none => done s d 8
    | some _ => done (onMe s (fun c => unbindStrm c q.toNat)) d 0))

/-- The wait of XSTRM; its expiry, decided as its tick ends, and its abort record a status on the channel, and neither traps (R190, R317). -/
def xstrmWait (q : BitVec 4) (t : BitVec 6) (ch : BitVec 2) (s : State) : State :=
  let c := me s
  let w := c.xe.wait.getD (c.ctc, engDl c .copy)
  let fin (s : State) (code : Nat) : State :=
    retireEng (onEng (onMe s (fun c => estatCh c ch.toNat code)) .copy (fun e => { e with wait := none })) .copy 0
  if gangAborted s c then fin s 4
  else if strmCount c ch < 4 then fin (bindStrm s q.toNat t.toNat ch) 0
  else if (c.ctc - w.1).toNat < w.2 ∨ (w.2 ≠ 0 ∧ !s.closing) then onEng s .copy (fun e => { e with wait := some w })
  else fin s 1

/-- XSTRM (R190). -/
def execXstrm (q : BitVec 4) (t : BitVec 6) (ch : BitVec 2) (s : State) : Out :=
  .next (
    if (me s).xe.wait.isSome then xstrmWait q t ch s
    else
      match cleanThen s [t] (checkBind s (curEng s .copy) t.toNat) with
      | .error tr => engTrap s .copy tr
      | .ok _ => xstrmWait q t ch (onMe s (fun k => unbindStrm k q.toNat)))

/-- STREAM_BIND_EXPIRY: the deadline of a waiting XSTRM has passed (R190). -/
def execStreamBindExpiry (s : State) : Out :=
  .next (asTickEnds s (fun s =>
    if engWaits s .copy then
      (match curInstr s .copy with | some (.xstrm q t ch) => xstrmWait q t ch s | _ => s)
    else s))

/-- Row n of a stream's sequence: the box along WALK and the row in it, dimension 1 fastest (R187). -/
def strmRow (b : List Byte) (n : Nat) : List Int × List Nat :=
  let per := strmBoxRows b
  let r := n % per
  (gOf b ((n / per : Nat) : Int),
   [r % tBox b 1, r / tBox b 1 % tBox b 2, r / (tBox b 1 * tBox b 2) % tBox b 3, r / (tBox b 1 * tBox b 2 * tBox b 3)])

/-- A row arrives at stream q, with its address where it met poison. -/
def arriveRow (s : State) (q : Nat) (x : Strm) (r : Row) (bad : Option W64) : State :=
  onMe s (fun c => setStrm c q (some { x with rows := x.rows ++ [(r, bad)] }))

/-- Nothing ahead of a prefetch of the channel is held (R172). -/
def strmMay (c : Core) (ch : BitVec 2) : Bool :=
  chansRun c && !stopAsked c && !strmHeld c ch && !(chanOf c ch).any (fun x => x.wait.isSome && !alone x) && !c.held.any (fun h => h.1 == .chan ch.toNat)

/-- STREAM_ROW_ARRIVAL: the next prefetched row of a stream arrives, once its last request has returned; a clipped row is zero (R172, R187, R188, R469).
Choice: n, the stream; cut, the bytes that are read now where not the whole row (R349). -/
def execStreamRowArrival (s : State) : Out :=
  .next (
    let q := s.choice.n
    match strmAt (me s) q with
    | none => s
    | some x =>
        if !strmMay (me s) x.ch || decide (strmInFlight x = 0) then s
        else
          let (g, r) := strmRow x.slot (strmArrived x)
          let m := if gOut g then 0 else rowLen x.slot g r
          match readWide s (.strm q) x.bind x.slot (rowAddr x.slot g r 0) (elemBytes (tFmt x.slot) m) with
          | (.error t, s) => holdFault s (.strm q) .copy t
          | (.ok none, s) => s
          | (.ok (some y), s) => arriveRow s q x (rowFrom (y.data ++ zeros (256 - y.data.length)))
              (if y.poison then some (BitVec.ofNat 64 (rowAddr x.slot g r 0)) else none))

/-! ## XTSRLD and XPATCH -/

/-- The place of a field that FLD names: its byte offset and width in bytes (R185). -/
def fldAt (f : Nat) : Nat × Nat :=
  if f = 0 then (0, 4)
  else if f = 1 then (8, 8)
  else if f ≤ 6 then (32 + 3 * (f - 2), 3)
  else if f ≤ 11 then (48 + 2 * (f - 7), 2)
  else if f ≤ 15 then (16 + 4 * (f - 12), 4)
  else (58 + (f - 16), 1)

/-- A record with a field set, or advanced modulo 2^w (R185). -/
def patched (b : List Byte) (f : Nat) (add : Bool) (v : W64) : List Byte :=
  let (o, n) := fldAt f
  splice b o (leBytes n (if add then field b o n + v.toNat else v.toNat))

/-- The record that XTSRLD or XPATCH is to write, from its parameter word: a trap, a read that is held or blocked, or the record; a patch of a poisoned
slot reads it (R406). -/
def loadRecord (s : State) (x : XLoad) (v : W64) : PRead × State :=
  match x.patch with
  | some (f, add) =>
      (match slotsClean s [BitVec.ofNat 6 x.t] with
       | .error t => (.trap t, s)
       | .ok _ => (.ok (patched (slotOf (me s) x.t) f add v), s))
  | none =>
      if v.toNat % 64 ≠ 0 then (.trap (.misalign v), s)
      else plainRead .copy 8 s (v + BitVec.ofNat 64 (64 * x.n))

/-- The resolved record of a load, or of a patch of HANDLE or OFFSET; another patch keeps the placement (R169, R185). -/
def placed (s : State) (x : XLoad) (b : List Byte) : List Byte :=
  match x.patch with
  | none => resolve s (ctxOf s) b
  | some (f, _) => if f ≤ 1 ∨ !tValid b then resolve s (ctxOf s) b else b

/-- RPT of the current copy word. -/
def curRpt (s : State) : Nat :=
  match curInstr s .copy with
  | some (.xtsrld rpt _ _ _) => rpt.toNat
  | some (.xpatch h _ _ _ _ _) => h.rpt.toNat
  | _ => 0

/-- The repeat is over: the wait ends and the sequencer goes on (R186). -/
def slotDone (s : State) : State :=
  let rpt := curRpt s
  retireEng (onMe s (fun c => { c with cp := { c.cp with xload := none }, xe := { c.xe with wait := none },
                                       held := c.held.filter (fun h => h.1 != .xparam) })) .copy rpt

/-- The repeat traps; its slot keeps what it held (R168). -/
def slotTrap (s : State) (t : Trap) : State :=
  engTrap (onMe s (fun c => { c with cp := { c.cp with xload := none } })) .copy t

/-- The slot is written: streams bound to it are unbound first (R186). -/
def slotWrite (s : State) (x : XLoad) (b : List Byte) : State :=
  match checkTsr s (curEng s .copy) b with
  | .error t => slotTrap s t
  | .ok _ => slotDone (onMe s (fun c => setSlot (unbindSlot c x.t) x.t (placed s x b)))

/-- A read of the repeat: held at a translation fault, a trap on poison (R151, R170, R405). -/
def slotRead (r : PRead × State) (f : List Byte → State → State) : State :=
  match r with
  | (.blocked, s) => s
  | (.trap t, s) => if t.xf.isSome then holdFault s .xparam .copy t else slotTrap s t
  | (.ok bs, s) => f bs s

/-- SLOT_LOAD_COMPLETION: the reads of an XTSRLD or XPATCH repeat have arrived: the record is checked, resolved and written, and the next
repeat or word may issue (R185, R186). -/
def execSlotLoadCompletion (s : State) : Out :=
  .next (
    match (me s).cp.xload with
    | none => s
    | some x =>
        if !engWaits s .copy || isHeld (me s) .xparam then s
        else slotRead (plainRead .copy 1 s x.pw) (fun bs s => slotRead (loadRecord s x (field64 bs 0 8)) (fun b s => slotWrite s x b)))

/-- SLOT_WRITE_EXPIRY: XDL has passed: RVALID of the slot is cleared, its streams are unbound, the channel records TIMEOUT, and the
sequencer goes on; in an aborted gang it records ABORTED (R186, R317). -/
def execSlotWriteExpiry (s : State) : Out :=
  .next (
    match (me s).cp.xload, (me s).xe.wait with
    | some x, some w =>
        let c := me s
        let late (code : Nat) : State := slotDone (onMe s (fun c =>
          let b := slotOf c x.t
          estatCh (setSlot (unbindSlot c x.t) x.t (splice b 63 (leBytes 1 (tByte b 63 % 128)))) x.ch.toNat code))
        if !engineRuns c || c.xe.st != .running then s
        else if gangAborted s c then late 4
        else if w.2 ≤ (c.ctc - w.1).toNat then late 1
        else s
    | _, _ => s)

/-- XTSRLD and XPATCH issue: the repeat's reads leave, and the word waits for its slot (R186). -/
def slotIssue (s : State) (x : XLoad) : State :=
  match (me s).cp.xload with
  | some _ => s
  | none => onMe s (fun c => { c with cp := { c.cp with xload := some x }, xe := { c.xe with wait := some (c.ctc, engDl c .copy) } })

/-- XTSRLD (R185). -/
def execXtsrld (rpt : BitVec 6) (t : BitVec 6) (ch : BitVec 2) (pw : BitVec 10) (s : State) : Out :=
  .next (
    let n := (me s).xe.rep
    let _ := rpt
    slotIssue s { t := t.toNat + n, pw := paramAt (me s) pw.toNat, n := n, ch := ch })

/-- The parameter word that an XPATCH repeat reads: PW + n × STEP (R185). -/
def patchWord (s : State) (h : XH) (pw : BitVec 10) : W64 :=
  (me s).xe.param + BitVec.ofInt 64 (8 * ((pw.toNat : Int) + stepK s h))

/-- XPATCH (R185). -/
def execXpatch (h : XH) (t : BitVec 6) (fld : BitVec 5) (add : Bool) (ch : BitVec 2) (pw : BitVec 10) (s : State) : Out :=
  .next (slotIssue s { t := t.toNat, pw := patchWord s h pw, n := (me s).xe.rep, patch := some (fld.toNat, add), ch := ch })

end Sys2Proof.Machine
end

