-- ==== Sys2Proof/Machine/Route.lean ====
section
/-! DEFINITION. Routing rows to experts and their reassembly (spec/13_route.md R267 to R286, R470, R474, R475, spec/02 R38): XROUTE,
XRRET, XRAT and XRCLOSE, the input rings, the reassembly tables and the messages between them. -/

namespace Sys2Proof.Machine

/-! ## Tables, rings and descriptors -/

/-- Reassembly table n of an executor. -/
def ratAt (c : Core) (n : Nat) : Rat := tblGet {} c.rats n

/-- Change a reassembly table of the executor whose turn it is. -/
def onRat (s : State) (n : Nat) (f : Rat → Rat) : State :=
  onMe s (fun c => { c with rats := tblSet {} c.rats n (f (ratAt c n)) })

/-- Input ring n of an executor. -/
def ringAt (c : Core) (n : Nat) : Option Ring := tblGet none c.rings n

/-- Replace an input ring of the executor whose turn it is. -/
def setRing (s : State) (n : Nat) (r : Option Ring) : State := onMe s (fun c => { c with rings := tblSet none c.rings n r })

/-- Fields of a RAT descriptor (R277). -/
def ratOut (d : List Byte) : W64 := field64 d 0 8
def ratOstr (d : List Byte) : Nat := field d 8 4
def ratRw (d : List Byte) : Nat := field d 12 2
def ratRows (d : List Byte) : Nat := field d 14 1
def ratRbuf (d : List Byte) : W64 := field64 d 16 8
def ratStat (d : List Byte) : W64 := field64 d 24 8

/-- A RAT descriptor meets R277. -/
def ratOk (d : List Byte) : Bool :=
  decide ((ratOut d).toNat % 64 = 0) && decide (ratOstr d % 64 = 0) && decide (4 * ratRw d ≤ ratOstr d) && decide (ratRw d % 16 = 0) &&
  decide (16 ≤ ratRw d) && decide (ratRw d ≤ 16384) && decide (1 ≤ ratRows d) && decide (ratRows d ≤ 128) &&
  decide ((ratRbuf d).toNat % 64 = 0) && decide (field d 15 1 = 0) && allZero (d.drop 32)

/-- Fields of a ring descriptor (R269). -/
def ringBase (d : List Byte) : W64 := field64 d 0 8
def ringSlot (d : List Byte) : Nat := field d 8 4
def ringNslot (d : List Byte) : Nat := field d 12 2
def ringExpert (d : List Byte) : Nat := field d 14 2
def ringKq (d : List Byte) : BitVec 3 := BitVec.ofNat 3 (field d 16 1)
def ringEvict (d : List Byte) : Bool := field d 17 1 == 1

/-- A ring descriptor meets R269. -/
def ringOk (d : List Byte) : Bool :=
  decide ((ringBase d).toNat % 64 = 0) && decide (ringSlot d % 64 = 0) && decide (128 ≤ ringSlot d) && decide (ringSlot d ≤ 65536) &&
  decide (1 ≤ ringNslot d) && decide (ringNslot d ≤ 128) && decide (ringExpert d ≤ 4095) && decide (field d 16 1 ≤ 7) &&
  decide (field d 17 1 ≤ 1) && allZero (d.drop 18)

/-- The address of slot n of window w (R269). -/
def slotVa (d : List Byte) (w n : Nat) : W64 := ringBase d + BitVec.ofNat 64 ((w % 2 * ringNslot d + n) * ringSlot d)

/-- Fields of a route row (R267). -/
def rrK (rr : List Byte) : Nat := field rr 0 1
def rrC (rr : List Byte) : Nat := field rr 1 1
def rrE (rr : List Byte) (j : Nat) : Nat := field rr (16 + 2 * j) 2
def rrW (rr : List Byte) (j : Nat) : W32 := BitVec.ofNat 32 (field rr (32 + 4 * j) 4)

/-- A route row is malformed (R267). -/
def rrBad (rr : List Byte) : Bool :=
  !(decide (1 ≤ rrK rr) && decide (rrK rr ≤ 8) && decide (1 ≤ rrC rr) && decide (rrC rr ≤ rrK rr) && allZero ((rr.drop 2).take 14))

/-- The 64 bytes of a slot header (R269). -/
def hdrBytes (h : Hdr) : List Byte :=
  leBytes 1 (if h.ex < 256 then h.ex else h.ex - 256) ++ leBytes 1 (h.rat + (if h.ex < 256 then 0 else 128)) ++ leBytes 2 h.gen.toNat ++
  leBytes 1 h.row ++ leBytes 1 h.j ++ leBytes 2 h.expert.toNat ++ leBytes 4 h.gate.toNat ++ zeros 4 ++ leBytes 8 h.gtc.toNat ++ zeros 40

/-- The header that 64 bytes hold. -/
def hdrFrom (b : List Byte) : Hdr :=
  { ex := if 128 ≤ field b 1 1 then 256 + field b 0 1 else field b 0 1, rat := field b 1 1 % 16, gen := BitVec.ofNat 16 (field b 2 2)
    row := field b 4 1, j := field b 5 1, expert := BitVec.ofNat 16 (field b 6 2), gate := BitVec.ofNat 32 (field b 8 4)
    gtc := field64 b 16 8 }

/-- The header names an executor that the part has and that is not absent (R474). -/
def hdrNames (s : State) (h : Hdr) : Bool := (decide (h.ex < 256) || (decide (h.ex < 288) && s.dev.rootTier)) && !s.dev.absent.contains h.ex

/-! ## Memory of a running instance, line by line -/

/-- A slot whose addresses are virtual addresses. -/
def vaSlot : List Byte := splice (zeros 64) 4 [1]

/-- Read n bytes of virtual memory with their poison. -/
def readMem (s : State) (va : W64) (n : Nat) : Except Trap CRead × State := readCopy s vaSlot va.toNat n

/-- Write bytes of virtual memory line by line, with the marks to leave, for a queue and an operation: the first `now` bytes at the owning slices, the
rest as requests on their way there (R348, R349); fuel bounds the lines. -/
def writeMemN (ch op : Nat) : Nat → State → Nat → W64 → List Byte → Marks → Except Trap Unit × State
  | 0, s, _, _, _, _ => (.ok (), s)
  | f + 1, s, now, va, bs, marks =>
      if bs.isEmpty then (.ok (), s)
      else
        let k := min bs.length (128 - va.toNat % 128)
        match translate s va .write .copy with
        | (.error t, s) => (.error t, s)
        | (.ok x, s) =>
            let n := min now k
            let (id, s) := fresh s
            let r : Req := { id := id, pa := x.pa, kind := .store (bs.take k), sq := .copy, ch := ch, op := some op, host := isHost x.pa, marks := markPart marks 0 k }
            let s := if n = 0 then s else serveStore s { r with marks := markPart marks 0 n } (bs.take n)
            let s := if n < k then onMe s (fun c => { c with reqs := c.reqs ++ [{ r with pa := x.pa + n, kind := .store ((bs.take k).drop n), marks := markPart marks n (k - n) }] })
              else s
            writeMemN ch op f s (now - n) (va + BitVec.ofNat 64 k) (bs.drop k) (markPart marks k bs.length)

/-- Write bytes of virtual memory for a queue and an operation, as much of them now as the turn's choice says (R349). -/
def writeMem (s : State) (ch op : Nat) (va : W64) (bs : List Byte) (marks : Marks) : Except Trap Unit × State :=
  writeMemN ch op (bs.length / 128 + 2) s (cutAt s vaSlot va.toNat bs.length) va bs marks

/-- What is left of a write of bytes that was held at an address of it: the requests before that one have been made (R475). -/
def writeRest (s : State) (ch op : Nat) (held : Option W64) (va : W64) (bs : List Byte) (marks : Marks) : Except Trap Unit × State :=
  let k := match held with
    | none => 0
    | some w => if (w - va).toNat < bs.length then (w - va).toNat else 0
  writeMem s ch op (va + BitVec.ofNat 64 k) (bs.drop k) (markPart marks k (bs.length - k))

/-- An address lies in n bytes from va. -/
def liesIn (w va : W64) (n : Nat) : Bool := decide ((w - va).toNat < n)

/-- Elements 0 to SIZE0 − 1 of a row of a slot's box, read for a queue's owner; a row clipped in dimensions 1 to 4 is zero (R281, R282). -/
def wholeRow (s : State) (at_ : HeldAt) (own : Nat) (b : List Byte) (g : List Int) (r : List Nat) : Except Trap (Option CRead) × State :=
  let n := elemBytes (tFmt b) (tSize b 0)
  if rowClipped b g r then (.ok (some { data := zeros n }), s) else readWide s at_ own b (elemN b g r 0 / 2) n

/-! ## Combining and settling a row (R38, R271, R278) -/

/-- The normalised gates of R38, with WZERO. -/
def gates (ws : List W32) : Bool × List W32 :=
  let sum := match ws with | [] => 0 | w :: r => r.foldl f32Add w
  if sum.extractLsb' 23 8 = 0 then (true, ws.map (fun _ => f32Div 0x3F800000 (encF32 (fpInt ws.length)))) else (false, ws.map (fun w => f32Div w sum))

/-- One element of R38: gates and the elements of the rows in rank order. -/
def combine : List (W32 × W32) → W32
  | [] => 0
  | (g, x) :: r => r.foldl (fun acc (e : W32 × W32) => f32Fma e.1 e.2 acc) (f32Mul g x)

/-- The list positions of a row in a state. -/
def posIn (r : RRow) (p : Pos) : List Nat := (List.range 8).filter (fun j => listGet .none r.pos j == p)

/-- A row still has an attempt, an answer or a return outstanding. -/
def rowOpen (r : RRow) : Bool := r.pos.any (fun p => p == .queued || p == .pending || p == .placed)

/-- A placement is refused or evicted: the row walks down to its next reserve within its hop budget, or the placement is lost (R271). -/
def hop (h : Nat) (r : RRow) (j : Nat) (why : Pos) : RRow :=
  let r := { r with pos := listSet r.pos j why }
  if r.hops < h ∧ r.next < rrK r.rr then { r with hops := r.hops + 1, next := r.next + 1, pos := listSet r.pos r.next .queued } else r

/-- A row that is settled takes its outcome and waits to be written (R278). -/
def settleRow (t : Rat) (i : Nat) : Rat :=
  let r := listGet {} t.rows i
  if r.supplied && r.read && r.outcome == 0 && !rowOpen r then
    { t with rows := listSet t.rows i { r with outcome := if (posIn r .returned).isEmpty then 4 else 1 }, todo := t.todo ++ [i] }
  else t

/-- Change a row of a RAT and settle it where it is settled. -/
def onRow (s : State) (n i : Nat) (f : RRow → RRow) : State :=
  onRat s n (fun t => settleRow { t with rows := listSet t.rows i (f (listGet {} t.rows i)) } i)

/-- The return buffer slot of a row's list position (R277). -/
def rbufVa (d : List Byte) (i j : Nat) : W64 := ratRbuf d + BitVec.ofNat 64 ((8 * i + j) * (4 * ratRw d))

/-- Read the returned rows of a list of positions. -/
def readReturns (d : List Byte) (i : Nat) : List Nat → State → Except Trap (List CRead) × State
  | [], s => (.ok [], s)
  | j :: r, s =>
      match readMem s (rbufVa d i j) (4 * ratRw d) with
      | (.error t, s) => (.error t, s)
      | (.ok x, s) =>
          match readReturns d i r s with
          | (.error t, s) => (.error t, s)
          | (.ok xs, s) => (.ok (x :: xs), s)

/-- The channel, place and command that routes under RAT n. -/
def routeCmd (c : Core) (n : Nat) : Option (BitVec 2 × Nat × CCmd) :=
  (([0, 1, 2, 3] : List (BitVec 2)).flatMap (fun ch => (chanOf c ch).zipIdx.map (fun e => (ch, e.2, e.1)))).find? (fun e =>
    match e.2.2.kind with
    | .route m _ _ (some _) => m == n && !e.2.2.fin
    | _ => false)

/-- The number of the command that routes under RAT n. -/
def ratOp (c : Core) (n : Nat) : Nat := match routeCmd c n with | some (_, _, x) => x.id | none => 0

/-- Writes of RAT n are on their way. -/
def ratBusy (c : Core) (n : Nat) : Bool := c.reqs.any (fun r => r.ch == 16 + n && r.op == some (ratOp c n))

/-- The address at which a write of the RAT is held, or was when it was replayed. -/
def ratHeld (t : Rat) : Option W64 := if t.since.isSome then some t.at_ else none

/-- A write of RAT n, or what a hold left of it (R475). -/
def ratWrite (s : State) (n : Nat) (va : W64) (bs : List Byte) (marks : Marks) : Except Trap Unit × State :=
  writeRest s (16 + n) (ratOp (me s) n) (ratHeld (ratAt (me s) n)) va bs marks

/-- No write of RAT n is held any more. -/
def ratFree (s : State) (n : Nat) : State := onRat s n (fun t => { t with since := none })

/-- The addresses of the output row and of the status byte of row i. -/
def outVa (d : List Byte) (i : Nat) : W64 := ratOut d + BitVec.ofNat 64 (i * ratOstr d)
def statVa (d : List Byte) (i : Nat) : W64 := ratStat d + BitVec.ofNat 64 i

/-- Write the output row and the status byte of a row that has its outcome; where the status byte's write was held, the row has been written (R278,
R475). -/
def writeOutcome (s : State) (n i : Nat) : Except Trap Unit × State :=
  let t := ratAt (me s) n
  let r := listGet {} t.rows i
  let js := if r.outcome ≤ 2 then posIn r .returned else []
  match readReturns t.desc i js s with
  | (.error e, s) => (.error e, s)
  | (.ok xs, s) =>
      let g := gates (js.map (fun j => rrW r.rr j))
      let poison := r.poison || xs.any (fun x => x.poison)
      let elem (e : Nat) : W32 := combine ((g.2.zip xs).map (fun (p : W32 × CRead) => (p.1, BitVec.ofNat 32 (field p.2.data (4 * e) 4))))
      let out := (List.range (ratRw t.desc)).flatMap (fun e => leBytes 4 (elem e).toNat)
      let wz := !js.isEmpty && g.1
      let stat := match ratHeld t with | some w => w == statVa t.desc i && !liesIn w (outVa t.desc i) out.length | none => false
      match (if stat then (.ok (), s) else ratWrite s n (outVa t.desc i) out (if poison then [(0, out.length)] else [])) with
      | (.error e, s) => (.error e, s)
      | (.ok _, s) =>
          let s := if stat then s else ratFree s n
          let st := r.outcome + (if wz then 8 else 0) + 16 * r.hops
          match ratWrite s n (statVa t.desc i) (leBytes 1 st) [] with
          | (.error e, s) => (.error e, s)
          | (.ok _, s) => (.ok (), if poison then onRat s n (fun t => { t with poison := true }) else s)

/-- Write a row of a RAT: a row that the tile did not supply has its status byte 0 alone (R278). -/
def writeRow (s : State) (n i : Nat) : Except Trap Unit × State :=
  let t := ratAt (me s) n
  if (listGet {} t.rows i).supplied then writeOutcome s n i else ratWrite s n (statVa t.desc i) (leBytes 1 0) []

/-- The deadline of a wait of a command that starts now: its XDL and DLMAX as it stands (R317). -/
def cmdDl (c : Core) (x : CCmd) : Nat := min x.dl.toNat c.csr.dlmax.toNat

/-- A write of a RAT is held at a fault, its hold's time counted from its start against the command's XDL; one that is replayed and held again is the
same hold (R475). -/
def holdRat (s : State) (n : Nat) (e : Trap) : State :=
  let dl := match routeCmd (me s) n with | some (_, _, x) => cmdDl (me s) x | none => 0
  onRat (holdFault s (.rat n) .copy e) n (fun t =>
    { t with since := some (if t.at_ = e.tval then t.since.getD ((me s).ctc, dl) else ((me s).ctc, dl)), at_ := e.tval })

/-- Write the settled rows in order, up to one that is held. -/
def writeRows (n : Nat) : List Nat → State → State
  | [], s => onRat s n (fun t => { t with todo := [], since := none })
  | i :: r, s =>
      match writeRow s n i with
      | (.error e, s) => holdRat (onRat s n (fun t => { t with todo := i :: r })) n e
      | (.ok _, s) => writeRows n r (ratFree s n)

/-- The rows of RAT n may be written now: what was returned to it has been written, and no returned row stands before them at a hold (R475). -/
def rowsMay (c : Core) (n : Nat) : Bool :=
  let t := ratAt c n
  !t.todo.isEmpty && !isHeld c (.rat n) && !ratBusy c n &&
  (match ratHeld t, t.todo with
   | some w, i :: _ => liesIn w (outVa t.desc i) (4 * ratRw t.desc) || w == statVa t.desc i
   | _, _ => true)

/-! ## XROUTE's command (R281) -/

/-- The tile rows of a command: BOX1 + 1. -/
def tileRows (x : CCmd) : Nat := tBox x.ts 1

/-- Tile row i is clipped in dimension 1. -/
def tileClipped (x : CCmd) (i : Nat) : Bool := decide (tSize x.ts 1 ≤ coordAt x.ts (gOf x.ts 0) 1 i)

/-- Every tile row has been read and every row has its outcome. -/
def ratSettled (t : Rat) (x : CCmd) (row : Nat) : Bool :=
  decide (tileRows x ≤ row) && t.rows.all (fun r => !r.supplied || r.outcome != 0)

/-- The status in which the command ends: POISON before TIMEOUT before CLOSED before PARTIAL (R281). -/
def routeStatus (t : Rat) (x : CCmd) : Nat :=
  let st := if t.poison then worse x.st 5 else x.st
  if st = 0 && t.rows.any (fun r => r.supplied && r.outcome != 1) then 3 else st

/-- The command of RAT n ends: the RAT is FREE. -/
def routeEnd (s : State) (n : Nat) (ch : BitVec 2) (i : Nat) (x : CCmd) : State :=
  let st := routeStatus (ratAt (me s) n) x
  setCmd (onRat s n (fun t => { t with st := 0, closed := true, todo := [], since := none })) ch i { x with fin := true, st := st, wait := none }

/-- The rows of a closed RAT that the tile did not supply are to have their status bytes written. -/
def addAbsent (t : Rat) : Rat :=
  { t with closed := true, todo := t.todo ++ (List.range t.rows.length).filter (fun i => !(listGet {} t.rows i).supplied) }

/-- A RAT whose rows are all settled closes (R278). -/
def routeSettles (s : State) (n : Nat) : State :=
  match routeCmd (me s) n with
  | none => s
  | some (_, _, x) =>
      match x.kind with
      | .route _ _ row _ =>
          let t := ratAt (me s) n
          if !t.closed && ratSettled t x row then onMe (onRat s n addAbsent) (fun c => setTocnt c 0) else s
      | _ => s

/-- A RAT whose rows are all settled closes; settled rows are written, and a closed RAT is FREE once its last write has been made (R278, R279). -/
def routeGo (s : State) (n : Nat) : State :=
  let s := routeSettles s n
  let s := if rowsMay (me s) n then writeRows n (ratAt (me s) n).todo s else s
  match routeCmd (me s) n with
  | none => s
  | some (ch, i, x) => if (ratAt (me s) n).closed && (ratAt (me s) n).todo.isEmpty && !ratBusy (me s) n then routeEnd s n ch i x else s

/-- A row that is not settled when its RAT closes takes PARTIAL or MISSING; one that the tile supplied and XROUTE has not read ends
DROPPED with no hop (R278, R281). -/
def closeRow (x : CCmd) (t : Rat) (i : Nat) : Rat :=
  let r := listGet {} t.rows i
  let set (r : RRow) : Rat := { t with rows := listSet t.rows i r, todo := t.todo ++ [i] }
  if r.outcome ≠ 0 then t
  else if r.read then set { r with outcome := if (posIn r .returned).isEmpty then 3 else 2 }
  else if i < tileRows x ∧ !tileClipped x i then set { r with supplied := true, outcome := 4 }
  else t

/-- RAT n closes at D or when the gang has aborted, with the command's status; a write that is held stays held (R475). -/
def routeClose (s : State) (n : Nat) (ch : BitVec 2) (i : Nat) (x : CCmd) (code : Nat) : State :=
  let x := { x with st := worse x.st code, wait := none }
  let s := onMe (setCmd s ch i x) (fun c => { c with held := c.held.filter (fun h => h.1 != .chan ch.toNat) })
  let s := onRat s n (fun t => addAbsent ((List.range t.rows.length).foldl (closeRow x) t))
  routeGo s n

/-- An attempt at list position j of row i of RAT n is refused before it leaves (R268). -/
def refuseAttempt (s : State) (n i j : Nat) : State :=
  let h := (ratAt (me s) n).hops
  routeGo (onRow s n i (fun r => hop h r j .lost)) n

/-- The RTT entry of an expert, where an attempt may use it (R268). -/
def rttEntry (s : State) (x : Nat) : Option (List Byte) × State :=
  let c := me s
  if c.csr2.rttsz.toNat ≤ x then (none, s)
  else
    match readMem s (c.csr2.rttbase + BitVec.ofNat 64 (16 * x)) 16 with
    | (.error _, s) => (none, s)
    | (.ok y, s) =>
        let b := y.data
        let ok := !y.poison && decide (128 ≤ field b 1 1) && decide (field b 1 1 % 128 < 16) && decide (1 ≤ field b 2 2) &&
          decide (field b 2 2 ≤ 128) && allZero (b.drop 8)
        (if ok then some b else none, s)

/-- Send a placement (R268, R281). -/
def sendPlace (s : State) (n i j : Nat) (ch : BitVec 2) (rtt : List Byte) (y : CRead) : State :=
  let t := ratAt (me s) n
  let rr := (listGet {} t.rows i).rr
  let (id, s) := fresh s
  let hdr : Hdr := { ex := s.ex.val, rat := n, gen := t.gen, row := i, j := j, expert := BitVec.ofNat 16 (rrE rr j), gate := rrW rr j }
  let m : Msg := { id := id, src := s.ex.val, ch := ch.toNat, ctx := ctxOf s, dst := field rtt 0 1
                   kind := .place (field rtt 1 1 % 16) (field rtt 2 2) (field rtt 4 4) hdr y.data y.marks }
  onRow { s with msgs := s.msgs ++ [m] } n i (fun r => { r with pos := listSet r.pos j .pending })

/-- The RTT entry of the attempt at position j of a row: the one that it read when it issued, where its payload read was held since (R268, R286). -/
def attemptEntry (s : State) (r : RRow) (j : Nat) : Option (List Byte) × State :=
  match r.entry with
  | some (i, b) => if i = j then (some b, s) else rttEntry s (rrE r.rr j)
  | none => rttEntry s (rrE r.rr j)

/-- Keep the RTT entry of a row's attempt, or none. -/
def keepEntry (s : State) (n i : Nat) (e : Option (Nat × List Byte)) : State :=
  onRat s n (fun t => { t with rows := listSet t.rows i { listGet {} t.rows i with entry := e } })

/-- Issue one placement attempt: the RTT entry is read, once, then the row's payload (R268, R281). -/
def attempt (s : State) (n : Nat) (ch : BitVec 2) (k : Nat) (x : CCmd) (i j : Nat) : State :=
  match attemptEntry s (listGet {} (ratAt (me s) n).rows i) j with
  | (none, s) => refuseAttempt s n i j
  | (some rtt, s) =>
      match wholeRow s (.chan ch.toNat) x.id x.ts (gOf x.ts 0) [i, 0, 0, 0] with
      | (.error t, s) => holdChan (keepEntry s n i (some (j, rtt))) ch k x false t
      | (.ok none, s) => keepEntry s n i (some (j, rtt))
      | (.ok (some y), s) =>
          let s := keepEntry s n i none
          let s := setCmd s ch k { x with wait := none, st := if y.closed then worse x.st 7 else x.st }
          let s := if y.poison then onRat s n (fun t => { t with poison := true }) else s
          sendPlace s n i j ch rtt y

/-- Read route row i of the tile (R267, R281). -/
def readRouteRow (s : State) (n : Nat) (ch : BitVec 2) (k : Nat) (x : CCmd) (h i : Nat) (t0 : Option (W64 × Nat)) : State :=
  let g := gOf x.ti 0
  let x' := { x with kind := .route n h (i + 1) t0, wait := none }
  if tileClipped x i then routeGo (setCmd s ch k x') n
  else
    let m := rowLen x.ti g [i, 0, 0, 0]
    match readWide s (.chan ch.toNat) x.id x.ti (rowAddr x.ti g [i, 0, 0, 0] 0) m with
    | (.error t, s) => holdChan s ch k x false t
    | (.ok none, s) => s
    | (.ok (some y), s) =>
        let rr := y.data ++ zeros (64 - m)
        let live := !y.poison && !rrBad rr
        let s := setCmd s ch k { x' with st := if y.closed then worse x.st 7 else x.st }
        let s := if y.poison then onRat s n (fun t => { t with poison := true }) else s
        let pos := (List.range 8).map (fun j => if live && decide (j < rrC rr) then Pos.queued else Pos.none)
        routeGo (onRow s n i (fun r => { r with rr := rr, next := rrC rr, pos := pos, supplied := true, read := true })) n

/-- The attempts that wait to issue, in row and list order. -/
def queuedAttempts (t : Rat) : List (Nat × Nat) :=
  (List.range t.rows.length).flatMap (fun i => (posIn (listGet {} t.rows i) .queued).map (fun j => (i, j)))

/-- An attempt is at an original list position of its row. -/
def firstAttempt (t : Rat) (e : Nat × Nat) : Bool := decide (e.2 < rrC (listGet {} t.rows e.1).rr)

/-- XROUTE begins: the RAT must be ARMED and hold the tile's rows (R281). -/
def routeStart (s : State) (n : Nat) (ch : BitVec 2) (k : Nat) (x : CCmd) (h : Nat) : State :=
  let t := ratAt (me s) n
  if t.st ≠ 1 ∨ ratRows t.desc < tileRows x then setCmd s ch k { x with fin := true, st := worse x.st 7 }
  else
    setCmd (onRat s n (fun t => { t with st := 2, hops := h, rows := List.replicate (ratRows t.desc) { pos := List.replicate 8 .none }, closed := false,
                                         todo := [], since := none, poison := false }))
      ch k { x with kind := .route n h 0 (some ((me s).ctc, cmdDl (me s) x)) }

/-- XROUTE has begun: a walk-down that the turn's choice names (flag; list: row, position), else the original attempts of the row
last read, then the next row, then a walk-down (R271, R281). -/
def routeNext (s : State) (n : Nat) (ch : BitVec 2) (k : Nat) (x : CCmd) (h row : Nat) (t0 : Option (W64 × Nat)) : State :=
  let t := ratAt (me s) n
  let q := queuedAttempts t
  let want := (listGet 0 s.choice.list 0, listGet 0 s.choice.list 1)
  if t.closed then routeGo s n
  else if s.choice.flag && q.contains want && !firstAttempt t want then attempt s n ch k x want.1 want.2
  else
    match q.find? (firstAttempt t) with
    | some e => attempt s n ch k x e.1 e.2
    | none =>
        if row < tileRows x then readRouteRow s n ch k x h row t0
        else
          match q with
          | e :: _ => attempt s n ch k x e.1 e.2
          | [] => routeGo s n

/-- A step of an XROUTE. -/
def routeStep (s : State) (ch : BitVec 2) (k : Nat) (x : CCmd) : State :=
  match x.kind with
  | .route n h row t0 =>
      (match t0 with
       | none => routeStart s n ch k x h
       | some _ => routeNext s n ch k x h row t0)
  | _ => s

/-! ## Input rings (R269 to R276) -/

/-- The executor's instance is resident: its rings take placements, its windows close, its RATs take answers and returns. -/
def resident (c : Core) : Bool := c.run.live && (c.run.st == .running || c.run.st == .halting || c.run.st == .handover)

/-- Send an answer to a placement's RAT: 0 admitted, 1 refused, 2 evicted. -/
def sendAnswer (s : State) (ctx : Nat) (h : Hdr) (what : Nat) : State :=
  let (id, s) := fresh s
  { s with msgs := s.msgs ++ [{ id := id, src := s.ex.val, ctx := ctx, dst := h.ex, kind := .answer h what }] }

/-- Take a message out of flight. -/
def dropMsg (s : State) (id : Nat) : State := { s with msgs := s.msgs.filter (fun m => m.id != id) }

/-- The lowest free slot of a ring's open window. -/
def freeSlot (r : Ring) : Nat := ((List.range (ringNslot r.desc)).find? (fun i => !r.occ.any (fun o => o.1 == i))).getD 0

/-- The weaker of two occupants: the smaller gate, of a tie the later admitted (R272). -/
def weaker (a b : Nat × Hdr) : Nat × Hdr := if rankAbove (decF32 b.2.gate) (decF32 a.2.gate) then a else b

/-- The victim of an eviction: the occupant with the smallest gate, where the arrival's gate is above it (R270, R272). -/
def victim (r : Ring) (gate : W32) : Option (Nat × Hdr) :=
  match r.occ with
  | [] => none
  | o :: l =>
      let v := l.foldl weaker o
      if ringEvict r.desc && rankAbove (decF32 gate) (decF32 v.2.gate) then some v else none

/-- The admission write of message m at ring n, or what a hold left of it (R475). -/
def ringWrite (s : State) (n : Nat) (r : Ring) (m : Msg) (va : W64) (bs : List Byte) (marks : Marks) : Except Trap Unit × State :=
  writeRest s (32 + n) m.id (if r.held = some m.id then some r.at_ else none) va bs marks

/-- An arrival is admitted to a slot, in the place of a victim where it evicts one: the slot is written, the window's occupants change,
the answers leave; a write that does not translate is held with its arrival (R270, R272, R475). -/
def placeRow (s : State) (n : Nat) (r : Ring) (m : Msg) (hdr : Hdr) (win slot : Nat) (payload : List Byte) (marks : Marks) (out : Option (Nat × Hdr)) : State :=
  let hdr := { hdr with gtc := s.gtc }
  let va := slotVa r.desc r.win slot
  let keep (e : Trap) (s : State) : State := holdFault (setRing s n (some { r with held := some m.id, at_ := e.tval })) (.adm n) .copy e
  match (if r.held = some m.id ∧ liesIn r.at_ (va + 64) payload.length then (.ok (), s) else ringWrite s n r m va (hdrBytes hdr) []) with
  | (.error e, s) => keep e s
  | (.ok _, s) =>
      match ringWrite s n r m (va + 64) payload marks with
      | (.error e, s) => keep e s
      | (.ok _, s) =>
          let occ := (match out with | none => r.occ | some v => r.occ.filter (fun o => o.1 != v.1)) ++ [(slot, hdr)]
          let r := { r with occ := occ, held := none, first := some (r.first.getD s.gtc), ticks := if r.occ.isEmpty then win else r.ticks }
          let s := sendAnswer (setRing (dropMsg s m.id) n (some r)) m.ctx hdr 0
          match out with
          | none => s
          | some v => sendAnswer s m.ctx v.2 2

/-- The decision on one arrival (R270). -/
def admission (s : State) (m : Msg) (n cap win : Nat) (hdr : Hdr) (payload : List Byte) (marks : Marks) : State :=
  let no : State := sendAnswer (dropMsg s m.id) m.ctx hdr 1
  match ringAt (me s) n with
  | none => no
  | some r =>
      if m.ctx ≠ r.ctx ∨ !resident (me s) ∨ hdr.expert.toNat ≠ ringExpert r.desc ∨ ringSlot r.desc - 64 < payload.length then no
      else if r.occ.length < min cap (ringNslot r.desc) then placeRow s n r m hdr win (freeSlot r) payload marks none
      else
        match victim r hdr.gate with
        | some v => placeRow s n r m hdr win v.1 payload marks (some v)
        | none => no

/-- No earlier placement of the same channel to the same ring is still in flight, and the ring's admission is not held for another
(R270, R475). -/
def mayAdmit (s : State) (m : Msg) (n : Nat) : Bool :=
  let same (y : Msg) : Bool := y.src == m.src && y.ch == m.ch && y.dst == m.dst &&
    (match y.kind with | .place k _ _ _ _ _ => k == n | _ => false)
  !(s.msgs.takeWhile (fun y => y.id != m.id)).any same && !isHeld (me s) (.adm n) &&
  (match ringAt (me s) n with | none => true | some r => r.held.isNone || r.held == some m.id)

/-- The admission write of a placement is held at a ring whose instance has been pre-empted: it waits for the resumption (R286, R475). -/
def heldAway (s : State) (m : Msg) (n : Nat) : Bool :=
  let holds (c : Core) : Bool := match ringAt c n with | some r => r.held == some m.id | none => false
  s.stopped.any (fun x => x.ex == s.ex.val && holds x.core) || (!resident (me s) && holds (me s))

/-- PLACEMENT_ARRIVAL: a placement reaches its ring's admission stage (R270). Choice: n, the message. -/
def execPlacementArrival (s : State) : Out :=
  .next (
    match s.msgs.find? (fun m => m.id == s.choice.n && m.dst == s.ex.val) with
    | none => s
    | some m =>
        match m.kind with
        | .place n cap win hdr payload marks =>
            if !heldAway s m n && mayAdmit s m n then admission s m n cap win hdr payload marks else s
        | _ => s)

/-- The open window closes: its count enters the count queue, the next window opens (R274). -/
def closeWindow (s : State) (n : Nat) (r : Ring) : State :=
  kqPushNow (ringKq r.desc) (BitVec.ofNat 64 r.occ.length)
    (setRing s n (some { r with closed := some (r.win, r.occ.length), win := r.win + 1, occ := [], first := none, ticks := 0 }))

/-- The open window of ring n may close now: none closed, room in the count queue, every admitted write made (R274). -/
def mayClose (c : Core) (n : Nat) (r : Ring) : Bool :=
  r.closed.isNone && r.held.isNone && !c.reqs.any (fun q => q.ch == 32 + n) && decide ((c.sync.kq.get (ringKq r.desc).toFin).length < 16)

/-- WINDOW_AUTO_CLOSE: WIN has passed since the window's first admission (R274). Choice: n, the ring. -/
def execWindowAutoClose (s : State) : Out :=
  .next (
    match ringAt (me s) s.choice.n with
    | none => s
    | some r =>
        match r.first with
        | none => s
        | some t0 =>
            if resident (me s) && decide (r.ticks ≠ 0) && decide (r.ticks ≤ (s.gtc - t0).toNat) && mayClose (me s) s.choice.n r then closeWindow s s.choice.n r
            else s)

/-! ## Answers and returns (R273, R277, R278, R282, R470, R474) -/

/-- A generation lies past one and not past another. -/
def inGens (base last g : BitVec 16) : Bool := base != g && decide ((g - base).toNat ≤ (last - base).toNat)

/-- The instance of a core armed the RAT that a header names, now or in an earlier generation, here or on an executor that it has left (R474). -/
def ratNamed (c : Core) (ctx : Nat) (h : Hdr) : Bool :=
  let t := ratAt c h.rat
  c.run.inst.ctx == ctx && ((t.home == h.ex && inGens t.base t.gen h.gen) ||
    c.past.any (fun e => e.1 == h.ex && e.2.1 == h.rat && inGens e.2.2.1 e.2.2.2 h.gen))

/-- The instance whose RAT a header names is not resident: held in its image, on its way to or from an executor, or in a hand-over between its record's
writing and its commit. The message is held until it is (R470, R474). -/
def ratAway (s : State) (ctx : Nat) (h : Hdr) : Bool :=
  s.stopped.any (fun x => ratNamed x.core ctx h) || s.cores.any (fun c => c.run.live && !resident c && ratNamed c ctx h) ||
  s.handovers.any (fun o => o.written && ratNamed (coreAt s o.src) ctx h)

/-- The executor whose running instance armed the RAT that a header names. -/
def ratHome (s : State) (ctx : Nat) (h : Hdr) : Option Nat :=
  (List.range 288).find? (fun n => (coreAt s n).run.live && ratNamed (coreAt s n) ctx h)

/-- Two messages wait in one sender's queue: the answers of an executor's rings, or the returns of a channel (R470). -/
def sameQueue (a b : Msg) : Bool :=
  a.src == b.src &&
  (match a.kind, b.kind with
   | .answer _ _, .answer _ _ => true
   | .ret _ _ _, .ret _ _ _ => a.ch == b.ch
   | _, _ => false)

/-- A message is held for its RAT's instance. -/
def msgAway (s : State) (m : Msg) : Bool :=
  match m.kind with
  | .answer h _ => ratAway s m.ctx h
  | .ret h _ _ => ratAway s m.ctx h
  | .place _ _ _ _ _ _ => false

/-- A message is held, or waits behind one that is held at the head of its sender's queue (R470). -/
def heldBack (s : State) (m : Msg) : Bool :=
  msgAway s m || (s.msgs.takeWhile (fun y => y.id != m.id)).any (fun y => sameQueue y m && msgAway s y)

/-- The RAT that a header names takes the message. -/
def ratTakes (s : State) (ctx : Nat) (h : Hdr) : Bool :=
  let t := ratAt (me s) h.rat
  resident (me s) && ctxOf s == ctx && t.st == 2 && t.gen == h.gen && !t.closed

/-- A late answer or return is discarded and counted (R273, R285). -/
def ratLate (s : State) : State :=
  onMe s (fun c => { c with csr2 := { c.csr2 with ratlate := if c.csr2.ratlate = 0xFFFFFFFF then c.csr2.ratlate else c.csr2.ratlate + 1 } })

/-- A late message is counted in the RATLATE of the instance that armed the RAT, or of an instance of its context that has taken its place (R273,
R285). -/
def countLate (s : State) (ctx : Nat) (h : Hdr) : State :=
  match ratHome s ctx h with
  | some n => asEx s n ratLate
  | none => if (me s).run.live && ctxOf s == ctx then ratLate s else s

/-- An answer reaches its position: admitted, refused or evicted (R271, R277). -/
def answerRow (h : Nat) (r : RRow) (j what : Nat) : RRow :=
  let p := listGet .none r.pos j
  if what = 0 then (if p = .pending then { r with pos := listSet r.pos j .placed } else r)
  else if what = 1 then (if p = .pending then hop h r j .lost else r)
  else if p = .placed then hop h r j .evicted else r

/-- ANSWER_ARRIVAL: an admission, refusal or eviction answer reaches its RAT (R273, R277). Choice: n, the message. -/
def execAnswerArrival (s : State) : Out :=
  .next (
    match s.msgs.find? (fun m => m.id == s.choice.n && m.dst == s.ex.val) with
    | none => s
    | some m =>
        match m.kind with
        | .answer h what =>
            let before := (s.msgs.takeWhile (fun y => y.id != m.id)).any (fun y =>
              y.src == m.src && y.dst == m.dst && (match y.kind with | .answer k _ => k.rat == h.rat && k.gen == h.gen && k.row == h.row && k.j == h.j | _ => false))
            if before || heldBack s m then s
            else if ratTakes s m.ctx h then
              let t := ratAt (me s) h.rat
              routeGo (onRow (dropMsg s m.id) h.rat h.row (fun r => answerRow t.hops r h.j what)) h.rat
            else countLate (dropMsg s m.id) m.ctx h
        | _ => s)

/-- A returned row of n bytes may be written now: no other write of its RAT stands before it at a hold (R475). -/
def returnMay (c : Core) (h : Hdr) (n : Nat) : Bool :=
  let t := ratAt c h.rat
  !isHeld c (.rat h.rat) && (match ratHeld t with | some w => liesIn w (rbufVa t.desc h.row h.j) n | none => true)

/-- A returned row is written to the return buffer, or its write is held with it (R282, R475). -/
def takeReturn (s : State) (m : Msg) (h : Hdr) (data : List Byte) (marks : Marks) : State :=
  match ratWrite s h.rat (rbufVa (ratAt (me s) h.rat).desc h.row h.j) data marks with
  | (.error e, s) => holdRat s h.rat e
  | (.ok _, s) =>
      let s := onRat (dropMsg s m.id) h.rat (fun t => { t with since := none })
      routeGo (onRow s h.rat h.row (fun r => { r with pos := listSet r.pos h.j .returned, poison := r.poison || !marks.isEmpty })) h.rat

/-- RETURN_ARRIVAL: a returned row reaches its RAT (R282). Choice: n, the message. -/
def execReturnArrival (s : State) : Out :=
  .next (
    match s.msgs.find? (fun m => m.id == s.choice.n && m.dst == s.ex.val) with
    | none => s
    | some m =>
        match m.kind with
        | .ret h data marks =>
            let t := ratAt (me s) h.rat
            if heldBack s m then s
            else if ratTakes s m.ctx h && listGet .none (listGet {} t.rows h.row).pos h.j == .placed && decide (data.length = 4 * ratRw t.desc) then
              (if returnMay (me s) h data.length then takeReturn s m h data marks else s)
            else countLate (dropMsg s m.id) m.ctx h
        | _ => s)

/-- A held write of RAT n has outlived XDL: the command ends TIMEOUT, what has not been written never is, the RAT is FREE (R475). -/
def ratHoldExpired (s : State) (n : Nat) (ch : BitVec 2) (i : Nat) (x : CCmd) : State :=
  let s := onMe s (fun c => { c with held := c.held.filter (fun h => h.1 != .rat n) })
  routeEnd s n ch i { x with st := worse x.st 1 }

/-- XROUTE_DEADLINE_EXPIRY: D has passed and the RAT closes; the expiry counts for the escalation rule (R281, R319). An aborted gang closes
it with ABORTED. Choice: n, the RAT. -/
def execXrouteDeadlineExpiry (s : State) : Out :=
  .next (
    let n := s.choice.n
    let c := me s
    match routeCmd c n with
    | none => s
    | some (ch, i, x) =>
        match x.kind with
        | .route _ _ _ (some (t0, d)) =>
            if !chansRun c || (ratAt c n).closed then s
            else if gangAborted s c then routeClose (onMe s (fun c => setTocnt c 0)) n ch i x 4
            else if (c.ctc - t0).toNat < d then s
            else if d = 0 then routeClose s n ch i x 1
            else
              let r := settle c false
              if r.1 then trapEngine (routeClose (setMe s r.2) n ch i x 1) .copy .deadline
              else routeClose (setMe s r.2) n ch i x 1
        | _ => s)

/-! ## XRRET's command (R282) -/

/-- The rows of a box in ascending global coordinate c1. -/
def returnRows (b : List Byte) : List (List Nat) :=
  (List.range (tBox b 1)).flatMap (fun j => (boxRows b).filter (fun r => listGet 0 r 0 == j))

/-- XRRET begins: the closed window and its count are taken, or the command ends EMPTY. -/
def rretStart (s : State) (ch : BitVec 2) (k : Nat) (x : CCmd) (ring : Nat) : State :=
  match ringAt (me s) ring with
  | none => setCmd s ch k { x with fin := true, st := 8 }
  | some r =>
      match r.closed with
      | none => setCmd s ch k { x with fin := true, st := 8 }
      | some w => setCmd s ch k { x with kind := .rret ring (some w), ti := r.desc }

/-- Send one returned row to the RAT that its slot header names; a header that names none is counted late (R282, R474). -/
def sendReturn (s : State) (ch : BitVec 2) (k : Nat) (x : CCmd) (h : Hdr) (y : CRead) : State :=
  let x := { x with rd := x.rd + 1, wait := none, acc := {}, st := if y.poison then worse x.st 5 else if y.closed then worse x.st 7 else x.st }
  if hdrNames s h then
    let (id, s) := fresh s
    setCmd { s with msgs := s.msgs ++ [{ id := id, src := s.ex.val, ch := ch.toNat, ctx := ctxOf s, dst := h.ex, kind := .ret h y.data y.marks }] }
      ch k { x with ids := x.ids ++ [id] }
  else setCmd (ratLate s) ch k x

/-- One row of XRRET: its slot's header is read, once, then the row. -/
def rretRow (s : State) (ch : BitVec 2) (k : Nat) (x : CCmd) (win count : Nat) (r : List Nat) : State :=
  let g := gOf x.ts x.k
  let next := { x with rd := x.rd + 1, wait := none, acc := {} }
  let c1 := coordAt x.ts g 1 (listGet 0 r 0)
  if rowClipped x.ts g r || decide (count ≤ c1) then setCmd s ch k next
  else
    match (if x.acc.data.isEmpty then readMem s (slotVa x.ti win c1) 64 else (.ok x.acc, s)) with
    | (.error t, s) => holdChan s ch k x false t
    | (.ok hb, s) =>
        if hb.poison then setCmd s ch k { next with st := worse x.st 5 }
        else
          match wholeRow s (.chan ch.toNat) x.id x.ts g r with
          | (.error t, s) => holdChan s ch k { x with acc := hb } false t
          | (.ok none, s) => setCmd s ch k { x with acc := hb }
          | (.ok (some y), s) => sendReturn s ch k x (hdrFrom hb.data) y

/-- A step of an XRRET. -/
def rretStep (s : State) (ch : BitVec 2) (k : Nat) (x : CCmd) : State :=
  match x.kind with
  | .rret ring none => rretStart (acqNow s x) ch k x ring
  | .rret _ (some (win, count)) =>
      (match (returnRows x.ts)[x.rd]? with
       | none => setCmd s ch k { x with fin := true }
       | some r => rretRow s ch k x win count r)
  | _ => s

/-! ## The commands of XRAT and XRCLOSE (R283, R284) -/

/-- The command waits at the head of its channel from now, where it does not yet. -/
def waitCmd (s : State) (ch : BitVec 2) (k : Nat) (x : CCmd) : State := setCmd s ch k (waitFrom (me s) x)

/-- The command ends with a status. -/
def endCmd (s : State) (ch : BitVec 2) (k : Nat) (x : CCmd) (st : Nat) : State := setCmd s ch k { x with fin := true, wait := none, st := worse x.st st }

/-- What an instance armed of RAT n on an executor that it has left is kept beside what it arms here (R273, R474). -/
def leaveRat (s : State) (n : Nat) : State :=
  let t := ratAt (me s) n
  if t.gen = t.base ∨ t.home = s.ex.val then s
  else onRat (onMe s (fun c => { c with past := c.past ++ [(t.home, n, t.base, t.gen)] })) n (fun t => { t with base := t.gen })

/-- XRAT rat: a FREE or ARMED RAT is armed; a BUSY one is waited for (R283). -/
def armStep (s : State) (ch : BitVec 2) (k : Nat) (x : CCmd) (n : Nat) (d : List Byte) : State :=
  if (ratAt (me s) n).st = 2 then waitCmd s ch k x
  else endCmd (onRat (leaveRat s n) n (fun t => { st := 1, gen := t.gen + 1, desc := d, home := s.ex.val, base := t.base })) ch k x 0

/-- A deconfigured ring discards the write that its admission stage holds, and answers that arrival and those that wait behind it as refused (R475). Which
have arrived is the turn's choice (list). -/
def refuseWaiting (s : State) (n : Nat) : State :=
  match ringAt (me s) n with
  | none => s
  | some r =>
      let at_ (m : Msg) : Bool := m.dst == s.ex.val && (match m.kind with | .place k _ _ _ _ _ => k == n | _ => false)
      let out := s.msgs.filter (fun m => at_ m && r.held.isSome && (r.held == some m.id || s.choice.list.contains m.id))
      out.foldl (fun s m => match m.kind with | .place _ _ _ h _ _ => sendAnswer (dropMsg s m.id) m.ctx h 1 | _ => s) s

/-- XRAT ring: an address of 0 deconfigures; a ring is configured only while it holds nothing; a Root executor has no rings (R112, R283). -/
def ringCfgStep (s : State) (ch : BitVec 2) (k : Nat) (x : CCmd) (n : Nat) (d : Option (List Byte)) : State :=
  match d with
  | none => endCmd (onMe (setRing (refuseWaiting s n) n none) (fun c => { c with held := c.held.filter (fun h => h.1 != .adm n) })) ch k x 0
  | some d =>
      let busy := match ringAt (me s) n with | none => false | some r => r.closed.isSome || !r.occ.isEmpty || r.held.isSome
      if busy || isRoot s then endCmd s ch k x 7 else endCmd (setRing s n (some { desc := d, ctx := ctxOf s })) ch k x 0

/-- XRCLOSE close (R284). -/
def ringCloseStep (s : State) (ch : BitVec 2) (k : Nat) (x : CCmd) (n : Nat) : State :=
  match ringAt (me s) n with
  | none => endCmd s ch k x 7
  | some r =>
      if r.closed.isSome then endCmd s ch k x 7
      else if mayClose (me s) n r then endCmd (closeWindow s n r) ch k x 0
      else waitCmd s ch k x

/-- XRCLOSE release (R276, R284). -/
def ringReleaseStep (s : State) (ch : BitVec 2) (k : Nat) (x : CCmd) (n : Nat) : State :=
  match ringAt (me s) n with
  | none => endCmd s ch k x 7
  | some r => if r.closed.isSome then endCmd (setRing s n (some { r with closed := none })) ch k x 0 else endCmd s ch k x 7

/-- The command at the head of channel ch still waits for what p says, and its wait has passed XDL: it ends TIMEOUT, or ABORTED in an aborted
gang (R283, R284, R317). -/
def headExpiry (s : State) (ch : BitVec 2) (p : CKind → Bool) : State :=
  match waitingCmd (me s) ch with
  | none => s
  | some (k, x) =>
      if !p x.kind || !chansRun (me s) then s
      else
        match chanLate s x with
        | none => s
        | some code => endCmd s ch k x code

/-- RAT_BUSY_WAIT_EXPIRY (R283). Choice: n, the channel. -/
def execRatBusyWaitExpiry (s : State) : Out :=
  .next (headExpiry s (chNo s.choice.n) (fun k => match k with | .ratArm n _ => (ratAt (me s) n).st == 2 | _ => false))

/-- COUNT_QUEUE_ROOM_EXPIRY (R284). Choice: n, the channel. -/
def execCountQueueRoomExpiry (s : State) : Out :=
  .next (headExpiry s (chNo s.choice.n) (fun k => match k with
    | .ringClose n => (match ringAt (me s) n with | some r => r.closed.isNone && !mayClose (me s) n r | none => false)
    | _ => false))

/-! ## The words -/

/-- The slots that XROUTE and XRRET name: PROTECT where RVALID is clear, else ILLEGAL where one is not valid (R281, R282). -/
def routeSlots (s : State) (bs : List (List Byte)) : Except Trap Unit :=
  if bs.any (fun b => !tValid b) then .error (.protect 0)
  else match checkAll s (curEng s .copy) bs with | .error _ => .error (illegalCopy s) | .ok _ => .ok ()

/-- XROUTE (R281). -/
def execXroute (ts tq : BitVec 6) (ch : BitVec 2) (rat : BitVec 4) (s : State) : Out :=
  .next (copyWord s ch 0 ts.toNat [ts, tq] (fun s =>
    let a := slotOf (me s) ts.toNat
    let q := slotOf (me s) tq.toNat
    match routeSlots s [a, q] with
    | .error t => .error t
    | .ok _ =>
        if decide (tRank a < 2) || tFmt a == 4 || decide (128 < tBox a 1) || tFmt q != 5 || tRank q != 2 || tBox q 0 != 64 || tBox q 1 != tBox a 1 then
          .error (illegalCopy s)
        else .ok { kind := .route rat.toNat (me s).csr2.rrdepth.toNat 0 none, ts := a, ti := q, rel := true, scope := 3 }))

/-- XRRET (R282). -/
def execXrret (h : XH) (ts : BitVec 6) (ring : BitVec 4) (ch : BitVec 2) (o : Order) (s : State) : Out :=
  .next (copyWord s ch h.rpt.toNat ts.toNat [ts] (fun s =>
    let a := slotOf (me s) ts.toNat
    match routeSlots s [a] with
    | .error t => .error t
    | .ok _ =>
        if tFmt a != 6 || decide (tRank a < 2) then .error (illegalCopy s)
        else .ok { kind := .rret ring.toNat none, ts := a, k := stepK s h, acq := o.acq, rel := o.rel, scope := o.scope }))

/-- A copy word that reads a parameter word and what it names waits in its issue slot for the reads: held at a translation fault, until
XDL has passed, when as the tick ends the channel records TIMEOUT (R151, R170, R173, R317). `bad` says what another failure of the reads does. -/
def paramWord (s : State) (ch : BitVec 2) (rpt : Nat) (reads : State → PRead × State) (f : List Byte → State → State) (bad : Trap → State → State) : State :=
  let c := me s
  let w := c.xe.wait.getD (c.ctc, engDl c .copy)
  let clear (s : State) : State := onMe s (fun c => { c with xe := { c.xe with wait := none }, held := c.held.filter (fun h => h.1 != .xparam) })
  if isHeld c .xparam then
    let fin (code : Nat) : State := retireEng (onMe (clear s) (fun c => estatCh c ch.toNat code)) .copy rpt
    if gangAborted s c then fin 4 else if w.2 ≤ (c.ctc - w.1).toNat ∧ (w.2 = 0 ∨ s.closing) then fin 1 else s
  else if !chanRoom s ch then s
  else
    match reads s with
    | (.blocked, s) => s
    | (.trap t, s) =>
        if t.xf.isSome then holdFault (onEng s .copy (fun e => { e with wait := some w })) .xparam .copy t else bad t (clear s)
    | (.ok bs, s) => f bs (clear s)

/-- Read a parameter word and the 64 bytes it names: the address, then the descriptor (none at address 0 where that has a meaning of its
own). -/
def readDesc (pw : W64) (zero : Bool) (s : State) : PRead × State :=
  match plainRead .copy 1 s pw with
  | (.ok a, s) =>
      let v := field64 a 0 8
      if zero && v == 0 then (.ok a, s)
      else if v.toNat % 64 ≠ 0 then (.trap (.misalign v), s)
      else (match plainRead .copy 8 s v with | (.ok d, s) => (.ok (a ++ d), s) | r => r)
  | r => r

/-- What an XRAT does whose parameter word or descriptor is misaligned, which traps, or poisoned, which R280 lets raise no trap: its command ends POISON
and changes nothing (R280, R283; DEDUCED, log 99). -/
def ratBad (ch : BitVec 2) (n : Nat) (t : Trap) (s : State) : State :=
  if t.code = 7 then copyWord s ch 0 n [] (fun _ => .ok { kind := .ratArm n [], fin := true, st := 5 }) else engTrap s .copy t

/-- XRAT rat (R283). -/
def execXratRat (n : BitVec 4) (ch : BitVec 2) (pw : BitVec 10) (s : State) : Out :=
  .next (paramWord s ch 0 (readDesc (paramAt (me s) pw.toNat) false) (fun b s =>
    copyWord s ch 0 n.toNat [] (fun s => if ratOk (b.drop 8) then .ok { kind := .ratArm n.toNat (b.drop 8) } else .error (illegalCopy s)))
    (ratBad ch n.toNat))

/-- XRAT ring (R283). -/
def execXratRing (n : BitVec 4) (ch : BitVec 2) (pw : BitVec 10) (s : State) : Out :=
  .next (paramWord s ch 0 (readDesc (paramAt (me s) pw.toNat) true) (fun b s =>
    copyWord s ch 0 n.toNat [] (fun s =>
      if b.length ≤ 8 then .ok { kind := .ringCfg n.toNat none }
      else if ringOk (b.drop 8) then .ok { kind := .ringCfg n.toNat (some (b.drop 8)) } else .error (illegalCopy s)))
    (ratBad ch n.toNat))

/-- XRCLOSE close (R284). -/
def execXrcloseClose (ring : BitVec 4) (ch : BitVec 2) (s : State) : Out :=
  .next (copyWord s ch 0 ring.toNat [] (fun _ => .ok { kind := .ringClose ring.toNat }))

/-- XRCLOSE release (R284). -/
def execXrcloseRelease (ring : BitVec 4) (ch : BitVec 2) (s : State) : Out :=
  .next (copyWord s ch 0 ring.toNat [] (fun _ => .ok { kind := .ringRelease ring.toNat }))

end Sys2Proof.Machine
end

