-- ==== Sys2Proof/Machine/Coll.lean ====
section
/-! DEFINITION. Collectives (spec/09_copy.md R193 to R196): XCOLL, the steps of its command, the pieces and credits that arrive from its ring
neighbours, the quiescing of a suspend (spec/25 R456). -/

namespace Sys2Proof.Machine

/-! ## Descriptor and record (R193, R194) -/

def colOpc (d : List Byte) : Nat := field d 0 1
def colFmt (d : List Byte) : Nat := field d 1 1
def colP (d : List Byte) : Nat := field d 2 2
def colPos (d : List Byte) : Nat := field d 4 2
def colChunk (d : List Byte) : Nat := field d 8 4
def colBuf (d : List Byte) : W64 := field64 d 16 8
def colCpr (d : List Byte) : W64 := field64 d 24 8
def colPrev (d : List Byte) : Nat := field d 32 2
def colNext (d : List Byte) : Nat := field d 34 2
def colGen (d : List Byte) : Nat := field d 36 4

/-- The descriptor keeps the limits of R193, the tier of the record apart. -/
def colOk (d : List Byte) : Bool :=
  decide (1 ≤ colOpc d) && decide (colOpc d ≤ 3) && decide (colFmt d ≤ 7) && (colOpc d == 1 || decide (6 ≤ colFmt d)) && decide (2 ≤ colP d) &&
  decide (colP d ≤ 64) && decide (colPos d < colP d) && decide (colChunk d % 4096 = 0) && decide (4096 ≤ colChunk d) &&
  decide (colChunk d ≤ 2 ^ 30) && decide ((colBuf d).toNat % 4096 = 0) && decide ((colCpr d).toNat % 64 = 0) && decide (field d 6 2 = 0) &&
  decide (field d 12 4 = 0) && allZero (d.drop 40)

/-- NSTEP (R194). -/
def colSteps (d : List Byte) : Nat := if colOpc d = 3 then 2 * (colP d - 1) else colP d - 1

/-- The bytes of a piece, and the pieces of a chunk (R194). -/
def colPiece (d : List Byte) : Nat := 4096 * ((colChunk d + 262143) / 262144)
def colPieces (d : List Byte) : Nat := (colChunk d + colPiece d - 1) / colPiece d

/-- The bytes of piece b; the last may be shorter. -/
def pieceLen (d : List Byte) (b : Nat) : Nat := min (colPiece d) (colChunk d - b * colPiece d)

/-- The address of piece b of chunk c. -/
def pieceVa (d : List Byte) (c b : Nat) : W64 := colBuf d + BitVec.ofNat 64 (c * colChunk d + b * colPiece d)

/-- Step s reduces (R195). -/
def colReduces (d : List Byte) (s : Nat) : Bool := colOpc d == 2 || (colOpc d == 3 && decide (s < colP d - 1))

/-- The step of the gather phase. -/
def colGather (d : List Byte) (s : Nat) : Nat := if colOpc d = 3 then s - (colP d - 1) else s

/-- The chunk that step s sends, and the one it receives (R195). -/
def colSends (d : List Byte) (s : Nat) : Nat :=
  let p := colP d
  if colReduces d s then (colPos d + 2 * p - 1 - s) % p else (colPos d + 2 * p - colGather d s) % p
def colTakes (d : List Byte) (s : Nat) : Nat :=
  let p := colP d
  if colReduces d s then (colPos d + 2 * p - 2 - s) % p else (colPos d + 2 * p - 1 - colGather d s) % p

/-- The record of R194. -/
def cprBytes (d : List Byte) (va : W64) (step : Nat) (map sent : W64) (state : Nat) : List Byte :=
  leBytes 4 step ++ leBytes 4 (colSteps d) ++ leBytes 8 map.toNat ++ leBytes 8 sent.toNat ++ leBytes 4 (colGen d) ++ leBytes 4 state ++
  leBytes 2 (colPrev d) ++ leBytes 2 (colNext d) ++ leBytes 2 (colPos d) ++ leBytes 2 (colP d) ++ leBytes 8 va.toNat ++ zeros 16

/-- The mask of every piece. -/
def allPieces (d : List Byte) : W64 := BitVec.ofNat 64 (2 ^ colPieces d - 1)

/-! ## Links -/

/-- The port that is linked to a device and carries its collective traffic (R449, R450). -/
def portTo (s : State) (dev : Nat) : Option Nat :=
  (List.range 18).find? (fun i => if h : i < 18 then (let p := s.dev.ports.get ⟨i, h⟩; p.up && !p.timeOnly && p.peer.toNat == dev) else false)

/-- Poison marks of n bytes from an offset as a collective flit carries them: bit i for byte i (DESIGN CHOICE, log 43). -/
def markMask (l : Marks) (off n : Nat) : Nat :=
  (List.range n).foldl (fun w i => if l.any (fun e => decide (e.1 ≤ off + i) && decide (off + i < e.1 + e.2)) then w + 2 ^ i else w) 0

/-- The marks that a mask stands for. -/
def maskMarks (w off n : Nat) : Marks := (List.range n).filterMap (fun i => if w.testBit i then some (off + i, 1) else none)

/-- The bytes of a piece that one flit carries. -/
def flitData : Nat := 128

/-- The payload of a collective flit: kind, generation, step, number, and of a piece the offset of its bytes, their poison marks and the bytes (R449;
DESIGN CHOICE, log 43). -/
def colPayload (kind gen step n off : Nat) (marks : Marks) (data : List Byte) : List Byte :=
  leBytes 1 kind ++ leBytes 4 gen ++ leBytes 4 step ++ leBytes 2 n ++ leBytes 4 off ++ leBytes 16 (markMask marks off data.length) ++ data

/-- Send a collective message to a linked device: kind 0 credits, 1 a piece with its poison marks, in as many flits as its bytes need, 2 an
acknowledgement; nothing where no port leads there (R449; DESIGN CHOICE, log 43). -/
def colSend (s : State) (dev kind gen step n : Nat) (marks : Marks) (data : List Byte) : State :=
  match portTo s dev with
  | none => s
  | some p =>
      (List.range (max 1 ((data.length + flitData - 1) / flitData))).foldl (fun s i =>
        sendFlit s { src := s.dev.sysdev, dst := BitVec.ofNat 16 dev, cls := 0
                     payload := colPayload kind gen step n (flitData * i) marks ((data.drop (flitData * i)).take flitData) } p) s

/-! ## A step of the command (R195) -/

/-- Write part of the record at an offset, for a command. -/
def cprWrite (s : State) (x : CCmd) (d : List Byte) (o : Nat) (bs : List Byte) : Except Trap Unit × State :=
  writeMem s 4 x.id (colCpr d + BitVec.ofNat 64 o) bs []

/-- The pieces that a record's MAP does not have. -/
def missingPieces (d : List Byte) (map : W64) : Nat := ((List.range (colPieces d)).filter (fun b => !map.getLsbD b)).length

/-- XCOLL begins, with its acquire: the record is read, started afresh where it is another generation's or aborted, and the step opens with credits to PREV. -/
def colBegin (s : State) (ch : BitVec 2) (k : Nat) (x : CCmd) (d : List Byte) (va : W64) : State :=
  let s := l1Clear s
  let x := { x with acqAt := s.nextId }
  match readMem s (colCpr d) 64 with
  | (.error t, s) => holdChan s ch k x false t
  | (.ok y, s) =>
      let r := y.data
      let new := field r 24 4 != colGen d || field r 28 4 == 3
      let step := if new then 0 else field r 0 4
      let map := if new then 0 else field64 r 8 8
      let ended := !new && step == field r 4 4
      if ended then endCmd s ch k x (if y.poison then 5 else 0)
      else
        match (if new then cprWrite s x d 0 (cprBytes d va 0 0 0 1) else cprWrite s x d 28 (leBytes 4 1)) with
        | (.error t, s) => holdChan s ch k x true t
        | (.ok _, s) =>
            setCmd (colSend s (colPrev d) 0 (colGen d) step (missingPieces d map) [] []) ch k
              { x with kind := .coll d va (some { step := step }), wait := none, st := if y.poison then worse x.st 5 else x.st }

/-- MAP and SENT as the record holds them. -/
def cprMaps (s : State) (d : List Byte) : Except Trap (W64 × W64) × State :=
  match readMem s (colCpr d) 64 with
  | (.error t, s) => (.error t, s)
  | (.ok y, s) => (.ok (field64 y.data 8 8, field64 y.data 16 8), s)

/-- The gang has aborted: the record is marked and the step ends ABORTED (R195). -/
def colAbort (s : State) (ch : BitVec 2) (k : Nat) (x : CCmd) (d : List Byte) : State :=
  endCmd (cprWrite s x d 28 (leBytes 4 3)).2 ch k x 4

/-- The step is complete: the record moves on (R195). -/
def colDone (s : State) (ch : BitVec 2) (k : Nat) (x : CCmd) (d : List Byte) (va : W64) (step : Nat) : State :=
  match cprWrite s x d 0 (cprBytes d va (step + 1) 0 0 (if step + 1 = colSteps d then 2 else 0)) with
  | (.error t, s) => holdChan s ch k x true t
  | (.ok _, s) =>
      let l := s.dev.early.filter (fun e => !(e.2.1 == colGen d && decide (e.2.2.1 ≤ step)))
      endCmd { s with dev := { s.dev with early := l } } ch k x 0

/-- A grant of NEXT: it counts the pieces that NEXT still misses, and with those that it may have discarded they may all be sent again (R195, R196). -/
def grant (c : Coll) (n : Nat) : Coll := { c with credits := n + c.flight.length, flight := [] }

/-- Pieces from PREV are to be asked for again (R196). -/
def askAgain (x : CCmd) : CCmd :=
  match x.kind with
  | .coll d va (some c) => { x with kind := .coll d va (some { c with again := true }) }
  | _ => x

/-- Keep a credit or an acknowledgement until its step runs; the latest grant of a step stands (R195). -/
def keepEarly (s : State) (kind gen step n : Nat) : State :=
  let l := s.dev.early.filter (fun e => !(kind == 0 && e.1 == 0 && e.2.1 == gen && e.2.2.1 == step))
  { s with dev := { s.dev with early := l ++ [(kind, gen, step, n)] } }

/-- Send piece b against a credit, once it has been read (R195, R349). -/
def colPush (s : State) (ch : BitVec 2) (k : Nat) (x : CCmd) (d : List Byte) (va : W64) (c : Coll) (b : Nat) : State :=
  match readWide s (.chan ch.toNat) x.id vaSlot (pieceVa d (colSends d c.step) b).toNat (pieceLen d b) with
  | (.error t, s) => holdChan s ch k x false t
  | (.ok none, s) => s
  | (.ok (some y), s) =>
      setCmd (colSend s (colNext d) 1 (colGen d) c.step b y.marks y.data) ch k
        { x with kind := .coll d va (some { c with credits := c.credits - 1, flight := c.flight ++ [b] }), wait := none
                 st := if y.poison then worse x.st 5 else x.st }

/-- Piece b has been acknowledged: its bit of SENT is set. -/
def ackPiece (s : State) (ch : BitVec 2) (k : Nat) (x : CCmd) (d : List Byte) (va : W64) (c : Coll) (b : Nat) : State :=
  match cprMaps s d with
  | (.error t, s) => holdChan (keepEarly s 2 (colGen d) c.step b) ch k x true t
  | (.ok (_, sent), s) =>
      match cprWrite s x d 16 (leBytes 8 (sent ||| (1 <<< b)).toNat) with
      | (.error t, s) => holdChan (keepEarly s 2 (colGen d) c.step b) ch k x true t
      | (.ok _, s) => setCmd s ch k { x with kind := .coll d va (some { c with flight := c.flight.filter (fun j => j != b) }), wait := none }

/-- Take a credit or an acknowledgement that came while the step did not run. -/
def takeEarly (s : State) (ch : BitVec 2) (k : Nat) (x : CCmd) (d : List Byte) (va : W64) (c : Coll) (e : Nat × Nat × Nat × Nat) : State :=
  let s := { s with dev := { s.dev with early := s.dev.early.erase e } }
  if e.1 = 0 then setCmd s ch k { x with kind := .coll d va (some (grant c e.2.2.2)), wait := none } else ackPiece s ch k x d va c e.2.2.2

/-- A step of an XCOLL that has begun: abort, end, ask again for discarded pieces, send, or wait for a credit, a piece or an acknowledgement. -/
def colNextStep (s : State) (ch : BitVec 2) (k : Nat) (x : CCmd) (d : List Byte) (va : W64) (c : Coll) : State :=
  if gangAborted s (me s) then colAbort s ch k x d
  else
    match s.dev.early.find? (fun e => e.2.1 == colGen d && e.2.2.1 == c.step) with
    | some e => takeEarly s ch k x d va c e
    | none =>
    match cprMaps s d with
    | (.error t, s) => holdChan s ch k x false t
    | (.ok (map, sent), s) =>
        if map = allPieces d ∧ sent = allPieces d then colDone s ch k x d va c.step
        else if c.again then
          setCmd (colSend s (colPrev d) 0 (colGen d) c.step (missingPieces d map) [] []) ch k { x with kind := .coll d va (some { c with again := false }) }
        else
          match (List.range (colPieces d)).find? (fun b => !sent.getLsbD b && !c.flight.contains b) with
          | some b => if 0 < c.credits then colPush s ch k x d va c b else waitCmd s ch k x
          | none => waitCmd s ch k x

/-- A step of an XCOLL. -/
def colStep (s : State) (ch : BitVec 2) (k : Nat) (x : CCmd) : State :=
  match x.kind with
  | .coll d va none => if gangAborted s (me s) then colAbort s ch k x d else colBegin s ch k x d va
  | .coll d va (some c) => colNextStep s ch k x d va c
  | _ => s

/-! ## What arrives (R195, R449) -/

/-- The channel, place and command of the executor that runs a step of a generation. -/
def colCmd (c : Core) (gen step : Nat) : Option (BitVec 2 × Nat × CCmd × List Byte × W64 × Coll) :=
  (([0, 1, 2, 3] : List (BitVec 2)).flatMap (fun ch => (chanOf c ch).zipIdx.map (fun e => (ch, e.2, e.1)))).findSome? (fun e =>
    match e.2.2.kind with
    | .coll d va (some k) => if colGen d = gen ∧ k.step = step ∧ !e.2.2.fin then some (e.1, e.2.1, e.2.2, d, va, k) else none
    | _ => none)

/-- Add pieces element by element: RoundF32 of two FP32 elements, or the INT32 sum (R195). -/
def addPiece (int : Bool) (a b : List Byte) : List Byte :=
  (List.range (a.length / 4)).flatMap (fun i =>
    let x : W32 := BitVec.ofNat 32 (field a (4 * i) 4)
    let y : W32 := BitVec.ofNat 32 (field b (4 * i) 4)
    leBytes 4 (if int then x + y else f32Add x y).toNat)

/-- Apply piece b from PREV to the step's buffer and set its bit of MAP (R195). -/
def takePiece (s : State) (ch : BitVec 2) (k : Nat) (x : CCmd) (d : List Byte) (c : Coll) (b : Nat) (marks : Marks) (data : List Byte) : State :=
  let va := pieceVa d (colTakes d c.step) b
  match cprMaps s d with
  | (.error t, s) => holdChan s ch k (askAgain x) true t
  | (.ok (map, _), s) =>
      if map.getLsbD b then colSend s (colPrev d) 2 (colGen d) c.step b [] []
      else
        match (if colReduces d c.step then readMem s va data.length else (.ok {}, s)) with
        | (.error t, s) => holdChan s ch k (askAgain x) false t
        | (.ok y, s) =>
            let new := if colReduces d c.step then addPiece (colFmt d == 7) data y.data else data
            match writeMem s ch.toNat x.id va new (marks ++ y.marks) with
            | (.error t, s) => holdChan s ch k (askAgain x) true t
            | (.ok _, s) =>
                match cprWrite s x d 8 (leBytes 8 (map ||| (1 <<< b)).toNat) with
                | (.error t, s) => holdChan s ch k (askAgain x) true t
                | (.ok _, s) =>
                    setCmd (colSend s (colPrev d) 2 (colGen d) c.step b [] []) ch k
                      { x with wait := none, st := if y.poison || !marks.isEmpty then worse x.st 5 else x.st }

/-- What arrives for a step of the executor: kind 0 credits from NEXT (b of them), 1 a piece from PREV, 2 an acknowledgement from NEXT. Where the step
does not run now, a credit or an acknowledgement is kept for it, and a piece is discarded and asked for again (R195, R196). -/
def colArrives (s : State) (kind gen step b : Nat) (marks : Marks) (data : List Byte) : State :=
  match colCmd (me s) gen step with
  | none => if kind = 1 then s else keepEarly s kind gen step b
  | some (ch, k, x, d, va, c) =>
      if !mayStep (me s) ch k true then (if kind = 1 then setCmd s ch k (askAgain x) else keepEarly s kind gen step b)
      else if kind = 0 then setCmd s ch k { x with kind := .coll d va (some (grant c b)), wait := none }
      else if kind = 1 then (if b < colPieces d ∧ data.length = pieceLen d b then takePiece s ch k x d c b marks data else s)
      else ackPiece s ch k x d va c b

/-- The step's wait has expired: what NEXT has granted stays for the next XCOLL, which goes on with the pieces missing (R195). -/
def colExpire (s : State) (ch : BitVec 2) (k : Nat) (x : CCmd) (code : Nat) : State :=
  match x.kind with
  | .coll d _ (some c) => endCmd (keepEarly s 0 (colGen d) c.step (c.credits + c.flight.length)) ch k x code
  | _ => endCmd s ch k x code

/-- COLLECTIVE_PIECE_ARRIVAL (R195). Choice: flag and k tell the kind (flag: a piece; else k = 1 an acknowledgement, else credits), n the generation,
m the step, v the piece or the number of credits, data the piece's bytes, pairs its
poison marks. -/
def execCollectivePieceArrival (s : State) : Out :=
  .next (
    let c := s.choice
    colArrives s (if c.flag then 1 else if c.k = 1 then 2 else 0) c.n c.m c.v.toNat (c.pairs.map (fun e => (e.1, e.2.toNat))) c.data)

/-- Ticks of the 50 ms that a suspend waits for a collective's step boundary (R456). -/
def quiesceTicks : Nat := 50000000

/-- COLLECTIVE_QUIESCE_EXPIRY: 50 ms of suspend entry have passed; a step that has not ended stays incomplete, its record as it is (R456). -/
def execCollectiveQuiesceExpiry (s : State) : Out :=
  .next (
    match s.dev.sus.st with
    | .entering t0 =>
        if quiesceTicks ≤ (s.gtc - t0).toNat then
          { s with cores := s.cores.map (fun (c : Core) => { c with run := { c.run with quiesce := false } }) }
        else s
    | _ => s)

/-! ## XCOLL (R193) -/

/-- Read XCOLL's parameter word, its descriptor and the tier of its record: ILLEGAL where a limit is broken. -/
def readColl (pw : W64) (s : State) : PRead × State :=
  match plainRead .copy 1 s pw with
  | (.ok a, s) =>
      let v := field64 a 0 8
      if v.toNat % 64 ≠ 0 then (.trap (illegalCopy s), s)
      else
        match plainRead .copy 8 s v with
        | (.ok d, s) =>
            if !colOk d then (.trap (illegalCopy s), s)
            else
              (match translate s (colCpr d) .read .copy with
               | (.error t, s) => (.trap t, s)
               | (.ok x, s) => (match paRange x.pa with | .hbm _ => (.ok (a ++ d), s) | _ => (.trap (illegalCopy s), s)))
        | r => r
  | r => r

/-- XCOLL: each repeat enqueues one ring step, a SYSTEM-scope acquire at its first read and release at its end (R193, R195). -/
def execXcoll (rpt : BitVec 6) (ch : BitVec 2) (pw : BitVec 10) (s : State) : Out :=
  .next (paramWord s ch rpt.toNat (readColl (paramAt (me s) pw.toNat)) (fun b s =>
    copyWord s ch rpt.toNat pw.toNat [] (fun _ =>
      .ok { kind := .coll (b.drop 8) (field64 b 0 8) none, acq := true, rel := true, scope := 4 }))
    (fun t s => engTrap s .copy t))

end Sys2Proof.Machine
end

