-- ==== Sys2Proof/Machine/Ksr.lean ====
section
/-! DEFINITION. The Kernel State Record (spec/06_handover.md R120 to R122): its fixed part, which a context image has too (spec/18_faults.md R403),
and the variable part of a hand-over. -/

namespace Sys2Proof.Machine

/-- A loop level of the control sequencer: COUNT, START, LEN, ACT. -/
def loopBytes (l : Loop) : List Byte := leBytes 8 l.count.toNat ++ leBytes 8 l.start.toNat ++ leBytes 4 l.len.toNat ++ leBytes 4 (if l.act then 1 else 0)

/-- A loop entry of an engine block; the entry has no ACT, and that of an inactive level holds what the level was left with (R121; DESIGN CHOICE, log 106). -/
def eloopBytes (l : ELoop) : List Byte := leBytes 4 l.count ++ leBytes 2 l.len ++ zeros 2 ++ leBytes 4 l.start

/-- An engine block (R121); the matrix block's loop entries are zero. -/
def engineBlock (e : Eng) (pace : BitVec 12) (loops : Bool) : List Byte :=
  let at_ := e.st == .stopped
  leBytes 8 (if e.st == .idle then 0 else e.seg.toNat) ++ leBytes 4 (if at_ then e.widx else 0) ++ leBytes 4 (if at_ then 1 else 0) ++
  (if loops then eloopBytes e.loop0 ++ eloopBytes e.loop1 else zeros 24) ++ leBytes 4 e.dl.toNat ++ leBytes 4 pace.toNat

/-- The age of a group among the open ones. -/
def groupAge (c : Core) (n : Nat) : Nat := (c.sync.groups.findIdx? (fun g => g.num == n)).getD 0

/-- An engine run extension (R121). -/
def engineExt (c : Core) (e : Eng) : List Byte :=
  let grp := match e.st == .stopped, e.group with
    | true, some n => 2 ^ 31 + groupAge c n * 65536 + n % 1024
    | _, _ => 0
  let rem := match e.st == .stopped, e.wait with
    | true, some w => w.2 - (c.ctc - w.1).toNat
    | _, _ => 0
  leBytes 8 (if e.st == .idle then 0 else e.param.toNat) ++ leBytes 4 grp ++ leBytes 4 rem ++ zeros 16

/-- A stream register: BOUND, slot, channel, POS. -/
def strmBytes (c : Core) (q : Nat) : List Byte :=
  match strmAt c q with
  | none => zeros 8
  | some x => leBytes 8 (2 ^ 63 + x.t * 2 ^ 56 + x.ch.toNat * 2 ^ 54 + x.pos % 2 ^ 32)

/-- An event crossbar rule: its terms, CTL, SEG, PARAM (R330). -/
def ruleBytes (r : Rule) : List Byte :=
  (r.terms ++ zeros 12).take 12 ++ leBytes 1 ((if r.armed then 128 else 0) + r.engine.toNat) ++ zeros 3 ++ leBytes 8 r.seg.toNat ++ leBytes 8 r.param.toNat

/-- NSTATE 1: reductions remain and none runs (R121, R261). -/
def nestPaused (m : Mat) : Bool := m.live && m.red.isNone

/-- A nest level: ROLE, TRIP, IDX, strides. -/
def levelBytes (l : MLev) (idx : Nat) : List Byte :=
  let str (v : Vector (BitVec 12) 5) : List Byte := leBytes 8 ((List.range 5).foldl (fun n i => n + (listGet 0 v.toList i).toNat * 2 ^ (12 * i)) 0)
  leBytes 1 l.role.toNat ++ zeros 3 ++ leBytes 4 l.trip.toNat ++ leBytes 4 idx ++ zeros 4 ++ str l.stra ++ str l.strb ++ str l.strc

/-- The format part of a matrix word. -/
def formPart (i : Instr) : Nat := match encode i with | .matrix w => w.toNat % 2 ^ 30 | _ => 0

/-- The nest configuration (R121). -/
def nestBytes (m : Mat) : List Byte :=
  let t := m.active
  let bind (i : Fin 4) : Nat := match t.bind.get i with | none => 0 | some x => formPart (.mbind (BitVec.ofNat 2 i.val) x false)
  leBytes 8 (if nestPaused m then 1 else 0) ++ leBytes 8 (formPart (.mfmt t.fa t.fb t.mode t.spn t.blk t.acci t.bank)) ++ leBytes 8 (formPart (.mhld t.hsz t.diag)) ++
  leBytes 8 (bind 0) ++ leBytes 8 (bind 1) ++ leBytes 8 (bind 2) ++ leBytes 8 (bind 3) ++ zeros 8

/-- A barrier byte: ARR, PH, SCOPE. -/
def barByte (s : State) (c : Core) (n : Nat) : Byte :=
  let l := tblGet {} c.sync.bars n
  let scope := match tblGet none s.barCfg (c.run.inst.launch * 1024 + n) with | none => 0 | some x => x.scope.toNat
  BitVec.ofNat 8 ((if l.arr then 128 else 0) + (if l.ph then 64 else 0) + scope * 8)

/-- The head of a Kernel State Record: KVER, KSIZE, the seam table index, NV, NR (R120, R121). -/
structure KsrHead where
  kver : Nat := 2
  size : Nat := 0x2000
  tgt : Nat := 0xFFFFFFFF
  nv : Nat := 0
  nr : Nat := 0
deriving DecidableEq, Repr

/-- The registers of the KSR fixed part to 0x24F (R121). -/
def ksrHead (s : State) (c : Core) (h : KsrHead) : List Byte :=
  let k (n : Nat) : Nat := (listGet [] c.sync.kq.toList n).length
  leBytes 4 h.kver ++ leBytes 4 h.size ++ leBytes 4 h.tgt ++ leBytes 4 c.run.inst.kidx ++ leBytes 8 c.run.inst.image.toNat ++ zeros 4 ++
  leBytes 2 c.csr.hovers.toNat ++ zeros 2 ++ leBytes 8 s.gtc.toNat ++ leBytes 1 h.nv ++ leBytes 1 h.nr ++ zeros 6 ++ ((List.range 8).map (fun n => BitVec.ofNat 8 (k n))) ++
  leBytes 8 (c.csr.tocnt.toNat * 65536 + (if c.csr.lqto then 4 else 0)) ++
  (List.range 64).flatMap (fun n => leBytes 8 (c.ctl.rd (BitVec.ofNat 6 n)).toNat) ++
  leBytes 8 ((List.range 16).foldl (fun w n => w + (if c.ctl.rdP (BitVec.ofNat 4 n) then 2 ^ n else 0)) 0) ++ leBytes 8 c.ctl.pc.toNat

/-- The KSR fixed part (R121, R403), with the source executor's TIER at 0x18. -/
def ksrFixed (s : State) (ex : Nat) (h : KsrHead) : List Byte :=
  let c := coreAt s ex
  let tier := bits (if lt : ex < 288 then csrRead { s with ex := ⟨ex, lt⟩ } 0x001 else 0) 23 0
  splice (ksrHead s c h) 0x18 (leBytes 4 tier) ++
  c.ctl.loops.toList.flatMap loopBytes ++
  engineBlock c.xe c.csr.xpace true ++ engineBlock c.me c.csr.mpace false ++ engineBlock c.ve c.csr.vpace true ++
  c.vec.a.toList.flatMap (fun x => leBytes 4 x.toNat) ++ (List.range 16).flatMap (fun n => leBytes 8 (mreg c.vec n).toNat) ++
  leBytes 8 c.vec.act.toNat ++ zeros 8 ++ (List.range 16).flatMap (strmBytes c) ++
  c.sync.v.toList.flatMap (fun x => leBytes 4 x.toNat) ++ c.sync.p.toList.flatMap (fun x => leBytes 4 x.toNat) ++
  (List.range 16).flatMap (fun n => ruleBytes (tblGet {} c.sync.rules n)) ++
  (List.range 6).flatMap (fun n => levelBytes (listGet {} c.mx.active.lev.toList n) (if nestPaused c.mx then listGet 0 c.mx.idx n else 0)) ++
  nestBytes c.mx ++ engineExt c c.xe ++ engineExt c c.me ++ engineExt c c.ve ++
  (List.range 64).flatMap (fun n => withPlace (slotOf c n) 0 0 false) ++ (List.range 1024).map (barByte s c) ++
  c.sync.kq.toList.flatMap (fun q => (q.flatMap (fun (x : Option W32) => leBytes 4 ((x.getD 0).toNat)) ++ zeros 64).take 64)

/-! ## The record of a hand-over (R120 to R122) -/

/-- The live vector registers of a seam table entry (R86). -/
def seamVregs (b : List Byte) : List Nat := (List.range (field b 8 1)).map (fun i => field b (16 + 2 * i) 2)

/-- The live scratchpad ranges of an entry: start, length. -/
def seamRanges (b : List Byte) : List (Nat × Nat) := (List.range (field b 9 1)).map (fun i => (field b (48 + 8 * i) 4, field b (52 + 8 * i) 4))

/-- The words of an entry's ranges, numbered through each range in turn. -/
def seamWords (b : List Byte) : List Nat := (seamRanges b).flatMap (fun (r : Nat × Nat) => (List.range (r.2 / 8)).map (fun i => r.1 / 8 + i))

/-- The bytes of the tag area of n words. -/
def tagArea (n : Nat) : Nat := ((n + 7) / 8 + 7) / 8 * 8

/-- KSIZE of an entry (R120). -/
def ksrSize (b : List Byte) : Nat :=
  let l := ((seamRanges b).map (fun (r : Nat × Nat) => r.2)).sum
  0x2000 + 256 * (seamVregs b).length + ((l + 63) / 64 + 7) / 8 * 8 + l

/-- The tag area: bit (k mod 8) of byte k div 8 is the tag of word k. -/
def tagBytes (c : Core) (ws : List Nat) : List Byte :=
  (List.range (tagArea ws.length)).map (fun j =>
    BitVec.ofNat 8 ((List.range 8).foldl (fun n i => match ws[8 * j + i]? with | some w => n + (if spTag c w then 2 ^ i else 0) | none => n) 0))

/-- The variable part: the live registers, the tag area, the range data (R122). -/
def ksrVar (c : Core) (b : List Byte) : List Byte :=
  (seamVregs b).flatMap (fun n => (vreg c.vec n).toList.flatMap (fun x => leBytes 4 x.toNat)) ++ tagBytes c (seamWords b) ++
  (seamWords b).flatMap (fun w => leBytes 8 (tblGet 0 c.spad.w w).toNat)

/-- The Kernel State Record of an executor at a seam table entry (R120 to R122). -/
def ksrRecord (s : State) (ex idx : Nat) (b : List Byte) : List Byte :=
  ksrFixed s ex { kver := 1, size := ksrSize b, tgt := idx, nv := (seamVregs b).length, nr := (seamRanges b).length } ++ ksrVar (coreAt s ex) b

end Sys2Proof.Machine
end

