-- ==== Sys2Proof/Machine/Handover.lean ====
section
/-! DEFINITION. Seams, the rebind and the hand-over (spec/06_handover.md R117 to R131), the hand-over policy (spec/17 R380). -/

namespace Sys2Proof.Machine

/-! ## Seam table entries (R86) -/

/-- The image of the running instance. -/
def myImage (s : State) : Image := (tblGet none s.images (me s).run.inst.image.toNat).getD {}

/-- The kernel entry of the running instance. -/
def myKernel (s : State) : List Byte := listGet [] (myImage s).kernels (me s).run.inst.kidx

/-- Seam table entry i of the running image. -/
def seamEnt (s : State) (i : Nat) : List Byte := listGet [] (myImage s).seams i

/-- The checks of SEAM at issue (R131). -/
def seamBad (s : State) (i : Nat) : Bool :=
  let k := myKernel s
  let b := seamEnt s i
  decide (i < kSeam0 k) || decide (kSeam0 k + kSeamN k ≤ i) || field64 b 0 8 != (me s).ctl.pc - (myImage s).base ||
  (seamRanges b).any (fun r => decide (r.2 % 8 ≠ 0))

/-- The wait of a SEAM: while the conditions of the seam instant hold, the word stays for it (R117, R131). -/
def seamStep (s : State) (d : Reg) : State :=
  if seamCond (me s) && !gangAborted s (me s) then s
  else awaiting s d false 1 id id

/-- SEAM (R131). -/
def execSeam (g : Guard) (d c : Reg) (e : Bool) (idx : BitVec 14) (s : State) : Out :=
  .next (guardedW g s (fun s =>
    if waits s then seamStep s d
    else if seamBad s idx.toNat then trapControl s { code := 0x0B, tval := zext64 idx }
    else seamStep (startWait s (dlOf s c) e d (.seam idx.toNat)) d))

/-! ## Rebinding (R124, R127) -/

/-- Resolve every slot that names a handle. -/
def resolveAll (s : State) (ctx : Nat) (t : Tbl (List Byte)) : Tbl (List Byte) :=
  t.map (fun e => (e.1, if tHandle e.2 = 0 then e.2 else resolve s ctx e.2))

/-- A stream bound again to its slot's record, on its channel, at its position (R189). -/
def rebindStrm (slots : Tbl (List Byte)) (n : Nat) (x : Strm) : Strm := { x with bind := n, slot := tblGet (zeros 64) slots x.t, rows := [] }

/-- The copy engine with its slots resolved and its streams rebound. -/
def rebindCop (s : State) (ctx : Nat) (p : Cop) : Cop :=
  let slots := resolveAll s ctx p.slots
  { p with slots := slots, strms := p.strms.map (fun e => (e.1, e.2.map (rebindStrm slots (s.nextId + e.1)))) }

/-- Fresh numbers for sixteen streams. -/
def skip16 (s : State) : State := { s with nextId := s.nextId + 16 }

/-- The rebind of a Crown core (R127). -/
def rebind (s : State) : State :=
  let ctx := ctxOf s
  onMe (skip16 s) (fun c =>
    let cp := rebindCop s ctx c.cp
    { c with cp := cp, csr := { c.csr with opt := BitVec.ofNat 2 (optOf s ctx cp.slots) }, run := { c.run with hreq := .none } })

/-! ## The seam instant (R119) -/

/-- The Crown core that a hand-over would reserve, chosen as for dispatch. -/
def handoverCore (s : State) : Option Nat := crownFor s (dieFor s (nodeOf s (me s).run.inst))

/-- SEAM_INSTANT: the conditions hold; HREQ is sampled once: a hand-over strikes, a rebind takes place, or SEAM retires OK (R117, R119). -/
def execSeamInstant (s : State) : Out :=
  .next (
    let c := me s
    match c.cwait with
    | none => s
    | some w =>
        match w.kind with
        | .seam idx =>
            if !contextOn c || c.run.dstop then s
            else if !seamCond c || gangAborted s c then s
            else
              let s := endWait s
              match (if c.run.hreq = .handover ∧ c.vec.dq.isEmpty ∧ !c.run.preq then handoverCore s else none) with
              | some t =>
                  let s := onMe s (fun c => { c with run := { c.run with st := .handover } })
                  let s := onCore s t (fun x => { x with run := { x.run with st := .handover, inst := c.run.inst, live := false, reserved := true } })
                  { s with handovers := s.handovers ++ [{ src := s.ex.val, dst := t, d := w.d, idx := idx }] }
              | none =>
                  if c.run.hreq = .rebind ∧ !isRoot s then done (rebind s) w.d 0 else done s w.d 0
        | _ => s)

/-- The hand-over whose source is the executor. -/
def myHandover (s : State) : Option Handover := s.handovers.find? (fun h => h.src == s.ex.val)

/-- The wait of a hand-over is over: every request and command has been served, and every stream row has arrived but one held at a fault, which is
fetched again from POS; the MGO of a paused nest, which goes on after the hand-over, stays (R124, R262; DEDUCED, log 97). The host has acknowledged the
executor's writes, so that the context's later releases cover them (R352, R367). -/
def ksrReady (s : State) (c : Core) : Bool :=
  !s.acks.any (fun a => a.ex == s.ex.val) &&
  c.reqs.isEmpty && c.wc.isEmpty && (storeIds c).isEmpty && (copyIds c).isEmpty && c.pend.isNone && c.vec.gathers.all (fun g => !g.load || g.done) &&
  (List.range 16).all (fun q => match strmAt c q with | none => true | some x => strmInFlight x == 0 || c.held.any (fun h => h.1 == .strm q))

/-- KSR_WRITE_DONE: the wait is over and the Kernel State Record is written to the hand-over area, a DEVICE-scope release; the context leaves
residence (R120, R124). -/
def execKsrWriteDone (s : State) : Out :=
  .next (
    match myHandover s with
    | none => s
    | some h =>
        let s := wcFlushAll s
        if h.written || !ksrReady s (me s) then s
        else
          let ksr := ksrRecord s s.ex.val h.idx (seamEnt s h.idx)
          let s := onMe s (fun c => { c with run := { c.run with live := false } })
          { s with handovers := s.handovers.map (fun x => if x.src = h.src then { x with written := true, ksr := ksr } else x) })

/-! ## The commit (R121 to R124) -/

/-- The scratchpad words of an entry's ranges. -/
def rangeWords (rs : List (Nat × Nat)) (w : Nat) : Bool := rs.any (fun r => decide (r.1 / 8 ≤ w) && decide (w < (r.1 + r.2) / 8))

/-- The scratchpad that a record carries: the ranges with their tags; the rest zero and empty. -/
def carrySpad (p : Spad) (rs : List (Nat × Nat)) : Spad :=
  { w := tblFilter (fun k _ => rangeWords rs k) p.w, tag := tblFilter (fun k _ => rangeWords rs k) p.tag,
    poison := tblFilter (fun k _ => rangeWords rs k) p.poison }

/-- The vector registers that a record carries, with masks, addresses and active mask, and what of them is poisoned: masks from 1000, addresses from
1100 (R123, R406). -/
def carryVec (v : Vec) (rs : List Nat) : Vec :=
  { v := tblFilter (fun k _ => rs.contains k) v.v, m := v.m, a := v.a, act := v.act, vpoison := tblFilter (fun k _ => rs.contains k || decide (1000 ≤ k)) v.vpoison }

/-- An engine that a record carries: idle, or standing at its rendezvous word with what remains of its stop; its CYCLE starts again at 0 (R123, R427;
DESIGN CHOICE, log 107). -/
def carryEng (c : Core) (gtc : W64) (e : Eng) : Eng :=
  if e.st = .stopped then
    { e with cycle := 0, lastDeq := some gtc, wait := e.wait.map (fun w => (c.ctc, w.2 - (c.ctc - w.1).toNat)) }
  else { dl := e.dl, lastDeq := some gtc, loop0 := e.loop0, loop1 := e.loop1, loopSeq := e.loopSeq }

/-- The groups at whose rendezvous some engine stands, in age order. -/
def carryGroups (c : Core) : List Group :=
  (c.sync.groups.map (fun g => { g with members := g.members.filter (fun m => (engOf c m.sq).group == some g.num && (engOf c m.sq).st == .stopped) })).filter
    (fun g => !g.members.isEmpty)

/-- The nest that a record carries: the active table and, where it is paused, its indices (R262). -/
def carryMat (m : Mat) : Mat :=
  { active := m.active, idx := m.idx, live := m.live, next := m.next, started := m.started, retired := m.retired, mgo := m.mgo }

/-- The RATs that an instance has armed here or on executors that it left before (R273, R474). -/
def pastRats (c : Core) : List (Nat × Nat × BitVec 16 × BitVec 16) :=
  c.past ++ c.rats.filterMap (fun (e : Nat × Rat) => if e.2.gen = e.2.base then none else some (e.2.home, e.1, e.2.base, e.2.gen))

/-- The executor record on the Crown core after the hand-over, the SEAM not yet retired. STATUS.SUP and the trap CSRs, which R121 to R123 do not name,
keep the source's values (DESIGN CHOICE, log 98). -/
def carried (s : State) (src dst : Core) (ent : List Byte) : Core :=
  let ctx := src.run.inst.ctx
  let cp : Cop := rebindCop s ctx { slots := src.cp.slots, strms := src.cp.strms }
  { src with
    run := { dst.run with st := .running, live := true, reserved := false, hreq := .none, inst := src.run.inst, preq := src.run.preq, pfor := src.run.pfor }
    csr := { src.csr with estat := 0, hovers := if src.csr.hovers = 0xFFFF then 0xFFFF else src.csr.hovers + 1, opt := BitVec.ofNat 2 (optOf s ctx cp.slots) }
    csr2 := { src.csr2 with kqovf := 0 }
    csrd := { src.csrd with bccnt := 0 }
    fused := dst.fused, cseg := src.ctl.pc + 8, ccycle := 0, cwait := none, pend := none, reqs := [], wc := []
    sync := { src.sync with xq := [], mq := [], vq := [], groups := carryGroups src }
    spad := carrySpad src.spad (seamRanges ent)
    l1 := [], tlb := []
    vec := carryVec src.vec (seamVregs ent)
    ve := carryEng src s.gtc src.ve, me := carryEng src s.gtc src.me, xe := carryEng src s.gtc src.xe
    cp := cp, mx := carryMat src.mx, rings := [], rats := freeRats dst.rats, past := pastRats src, held := [], parts := []
    dbg := { tb := if dst.run.lastCtx = some ctx then dst.dbg.tb else [], brOut := src.dbg.brOut, slbuf := src.dbg.slbuf } }

/-- A hand-over is cancelled: the reserved core is released and SEAM retires OK on its own executor (R124, R133). -/
def cancelHandover (s : State) (h : Handover) : State :=
  let s := { s with handovers := s.handovers.filter (fun x => x.src != h.src) }
  let s := onCore s h.dst (fun c => { c with run := { c.run with st := .idle, live := false, reserved := false } })
  asEx s h.src (fun s => done (onMe s (fun c => { c with run := { c.run with st := .running, live := true } })) h.d 0)

/-- HANDOVER_COMMIT: the Crown core has read the whole record: it takes the context over, and the Root executor is free; a poisoned line
cancels the hand-over, and a suspend holds it until the resume (R124, R133). Choice: n, the source executor. -/
def execHandoverCommit (s : State) : Out :=
  .next (
    match s.handovers.find? (fun h => h.src == s.choice.n) with
    | none => s
    | some h =>
        if !h.written || !movesRun s then s
        else if h.bad then cancelHandover s h
        else
          let src := coreAt s h.src
          let dst := coreAt s h.dst
          let resident := match dst.run.res with | none => false | some r => r.image == src.run.inst.image
          if !resident then s
          else
            let ent := asEx' s h.src seamEnt h.idx
            let c := segStart h.dst s.gtc (carried s src dst ent) .control (src.ctl.pc + 8)
            let c := slogStop h.dst c .control 5 0
            let s := onCore (skip16 s) h.dst (fun _ => c)
            let s := onCore s h.src (fun c => let c := freeCore c; { c with dbg := { c.dbg with slbuf := [] } })
            let s := { s with handovers := s.handovers.filter (fun x => x.src != h.src) }
            asEx s h.dst (fun s => onMe (done (l1Clear s) h.d 0) (fun c => { c with ccycle := 0 })))
where
  /-- Read a seam entry as executor n. -/
  asEx' (s : State) (n : Nat) (f : State → Nat → List Byte) (i : Nat) : List Byte :=
    if h : n < 288 then f { s with ex := ⟨n, h⟩ } i else []

/-- HANDOVER_POLICY: the policy sets HREQ for a context on a Root executor whose bound tensors have all left the Root tier while a Crown
core is free (R118, R380). -/
def execHandoverPolicy (s : State) : Out :=
  .next (
    let c := me s
    let ctx := ctxOf s
    let bound := c.cp.slots.filterMap (fun e => ownTht s ctx (tHandle e.2))
    if s.dev.sched.hopol && isRoot s && c.run.live && c.run.st == .running && kAffin (myKernel s) != 1 && !bound.isEmpty &&
        bound.all (fun t => decide (1 ≤ t.old)) && (List.range 256).any (freeEx s) then
      onMe s (fun c => { c with run := { c.run with hreq := .handover } })
    else s)

end Sys2Proof.Machine
end

