-- ==== Sys2Proof/Machine/Moves.lean ====
section
/-! DEFINITION. The pages of a move (spec/05_tiers.md R101 to R107, R116, spec/06_handover.md R118): the commit of a page and of the last
page, the writes held at it, the steps of XMOVE, the passing of a claim. -/

namespace Sys2Proof.Machine

/-! ## Copying and committing a page (R101, R104, R106) -/

/-- Copy sector i−1 to 0's poison marks of a line. -/
def copyMarks (m : MemSys) (pa : Nat) (p : BitVec 4) : Nat → MemSys
  | 0 => m
  | i + 1 => (fun m => if secBit p i then slicePoisonMark m (pa + 32 * i) 32 else m) (copyMarks m pa p i)

/-- Copy one line from a page's OLD home to its NEW one: bytes, side bytes with their tag, poison (R106, R157). -/
def copyLine (m : MemSys) (old new : Nat) : MemSys :=
  let l := lineAt m (lineKey old)
  let m := sliceWriteSide (sliceWrite m new l.data) new l.side l.tag
  copyMarks m new l.poison 4

/-- Copy n lines of a page. -/
def copyLines (m : MemSys) (old new : Nat) : Nat → MemSys
  | 0 => m
  | n + 1 => copyLine (copyLines m old new n) (old + 128 * n) (new + 128 * n)

/-- Drop a physical page's lines of both views in every cache way (R101). -/
def dropPageL2 (m : MemSys) (page : Nat) : MemSys :=
  { m with l2 := m.l2.filter (fun (e : Nat × Option Line) => pa50 (e.1 * 128) / 65536 != page) }

/-- Drop a physical page's lines in every L1 (R101). -/
def dropPageL1 (s : State) (page : Nat) : State :=
  { s with cores := s.cores.map (fun (c : Core) => { c with l1 := c.l1.filter (fun (e : Nat × Option L1Line) => pa50 (e.1 * 128) / 65536 != page) }) }

/-- A freed page keeps no side bytes beside it (R468), and no slice a line of it. -/
def dropSide (m : MemSys) (page : Nat) : MemSys :=
  { dropPageL2 m page with side := m.side.filter (fun (e : Nat × Side) => e.1 * 128 / 65536 != page) }

/-- A line of a physical page is pinned by a tile fetch unit: one that a reduction holds, until it retires (R104, R414). -/
def pinned (s : State) (page : Nat) : Bool :=
  (List.range 288).any (fun i => match (coreAt s i).mx.red with
    | none => false
    | some r => r.pins.contains page || r.lines.any (fun l => l.page == some page))

/-- The atomic order log of the slice at NEW has room for an add that is held at the page: a full ring stalls it (R103, R165). -/
def heldRoom (s : State) (new : Nat) (k : Hold) : Bool :=
  let c := coreAt s k.ex
  match waitingCmd c (chNo k.ch) with
  | none => true
  | some (_, x) =>
      match x.buf with
      | [] => true
      | it :: _ =>
          let add := match x.kind with | .add => true | .drain a _ _ _ _ => a | _ => false
          !add || !c.csrd.dbgctl.getLsbD 4 || aoRoom s.ms (new * 65536 + (it.at_ + x.part) % 65536) ((itemPart it x.part).length / 4)

/-- The page in flight may commit: unpinned, every request that resolved to its OLD home served there, and room in the atomic order log for the adds held
at it (R101, R104, R165). Held writes name the tensor by its handle h. -/
def mayCommit (s : State) (h : Nat) (t : Tht) : Bool :=
  let old := listGet 0 t.oldp t.f
  t.flight && !pinned s old && !pageOut s old &&
  s.holds.all (fun k => !(k.h.toNat == h && k.page == t.f) || heldRoom s (listGet 0 t.newp t.f) k)

/-- Copy the page in flight to NEW, of whose former tenant no slice keeps a line, and drop its OLD lines everywhere. -/
def movePage (s : State) (t : Tht) : State :=
  let old := listGet 0 t.oldp t.f
  let new := listGet 0 t.newp t.f
  let m := dropPageL2 (copyLines (dropPageL2 s.ms new) (withEnc t.key t.enc (old * 65536)) (withEnc t.key t.enc (new * 65536)) 512) old
  dropPageL1 { s with ms := m } old

/-! ## Writes held at a page (R103) -/

/-- Perform a held write at NEW: it leaves its channel and is served at once; an add that finds the atomic order log full waits for room among the
core's requests (R103, R165). -/
def releaseOne (s : State) (k : Hold) : State :=
  asEx s k.ex (fun s =>
    let ch := chNo k.ch
    match waitingCmd (me s) ch with
    | none => s
    | some (i, x) =>
        match x.buf with
        | [] => s
        | it :: _ =>
            match locate s x.td (it.at_ + x.part) .write .copy with
            | (.error _, s) => s
            | (.ok l, s) =>
                let id := s.nextId
                let s := sendWrite s ch i x it l
                match (me s).reqs.find? (fun r => r.id == id) with
                | none => s
                | some r => if logRoom s r then serve (onMe s (fun c => { c with reqs := c.reqs.filter (fun y => y.id != id) })) r else s)

/-- Release the writes held at page p of a tensor, in the order of their arrival. -/
def releaseHeld (s : State) (h p : Nat) : State :=
  let mine (k : Hold) : Bool := k.h.toNat == h && k.page == p
  (s.holds.filter mine).foldl releaseOne { s with holds := s.holds.filter (fun k => !mine k) }

/-! ## Commits -/

/-- The XMOVE command that holds a tensor's claim. -/
def moveCmd (c : Core) (ch : BitVec 2) (h : Nat) : Option (Nat × CCmd) :=
  (((chanOf c ch).zipIdx).find? (fun e => match e.1.kind with | .move k _ _ cl => k.toNat == h && cl && !e.1.fin | _ => false)).map (fun e => (e.2, e.1))

/-- Some line of the page in flight is poisoned at its OLD home (R106). -/
def movesPoison (s : State) (t : Tht) : Bool :=
  (List.range 512).any (fun i => (lineAt s.ms (lineKey (withEnc t.key t.enc (listGet 0 t.oldp t.f * 65536) + 128 * i))).poison != 0)

/-- After a page: a tier copy engine goes on with the next page; an XMOVE counts it, with the poison it met, and goes on, or releases its claim; a
suspend that is entering stops the move after its page (R101, R106, R107, R116). -/
def afterPage (s : State) (h : Nat) (t : Tht) (bad : Bool) : State :=
  let hh := BitVec.ofNat 32 h
  match t.claim with
  | .chan ex chn =>
      asEx s ex (fun s =>
        let ch := chNo chn
        match moveCmd (me s) ch h with
        | none => setTht s hh { t with flight := false }
        | some (i, x) =>
            match x.kind with
            | .move k npg n cl =>
                let ends := t.ms == 0 || (npg != 0 && decide (npg ≤ n + 1))
                let x := { x with kind := .move k npg (n + 1) cl, wait := none, fin := ends, st := if bad then worse x.st 5 else x.st }
                setCmd (setTht s hh (if ends then { t with claim := .none, flight := false } else { t with flight := movesRun s })) ch i x
            | _ => s)
  | .tce _ _ => setTht s hh { t with flight := movesRun s }
  | .none => setTht s hh { t with flight := false }

/-- A tensor deregistered while its page was in flight is gone: both homes are free, and the writes held at it go on to find no tensor (R107, R469). -/
def endDead (s : State) (h : Nat) (t : Tht) : State :=
  let s := { s with tht := tblSet none s.tht h none, ms := (t.oldp ++ t.newp).foldl dropSide s.ms, holds := s.holds.filter (fun k => k.h.toNat != h) }
  match t.claim with
  | .chan ex chn =>
      asEx s ex (fun s =>
        match moveCmd (me s) (chNo chn) h with
        | none => s
        | some (i, x) => setCmd s (chNo chn) i { x with wait := none, fin := true })
  | _ => s

/-- PAGE_COMMIT: the page in flight, not the last, commits: F advances and the page's held writes land at NEW (R101, R103). Choice: n, the
handle. -/
def execPageCommit (s : State) : Out :=
  .next (
    let h := s.choice.n
    match tblGet none s.tht h with
    | none => s
    | some t =>
        if !mayCommit s h t then s
        else if t.dead then endDead (movePage s t) h t
        else if t.npages ≤ t.f + 1 then s
        else
          let t' := { t with f := t.f + 1, flight := false }
          let bad := movesPoison s t
          let s := setTht (movePage s t) (BitVec.ofNat 32 h) t'
          afterPage (releaseHeld s h t.f) h t' bad)

/-- HREQ after the final commit of a move of a bound tensor from tier code `old` to `new` (R118). -/
def hreqAfter (root : Bool) (affin old new : Nat) (r : HReq) : HReq :=
  if affin = 1 then r
  else if root then (if old < new then .handover else r)
  else if r = .handover then r else .rebind

/-- The request fields of every running context, resident or not, that is bound to the tensor (R105, R118). -/
def markBound (s : State) (h : Nat) (old new : Nat) : State :=
  let affin (i : Inst) : Nat := kAffin (nodeOf s i).ker
  let bound (c : Core) : Bool := c.cp.slots.any (fun (e : Nat × List Byte) => (tHandle e.2).toNat == h)
  let mark (root : Bool) (c : Core) (i : Inst) : Core := { c with run := { c.run with hreq := hreqAfter root (affin i) old new c.run.hreq } }
  let s := (List.range 288).foldl (fun s n =>
    let c := coreAt s n
    if c.run.live && bound c then onCore s n (fun c => mark (decide (256 ≤ n)) c c.run.inst) else s) s
  { s with stopped := s.stopped.map (fun (x : Stopped) => if bound x.core then { x with core := mark (decide (256 ≤ x.ex)) x.core x.inst } else x) }

/-- MOVE_FINAL_COMMIT: the last page commits, the move has ended, its OLD pages are free (R101, R105, R118). Choice: n, the handle. -/
def execMoveFinalCommit (s : State) : Out :=
  .next (
    let h := s.choice.n
    match tblGet none s.tht h with
    | none => s
    | some t =>
        if !mayCommit s h t || t.dead || decide (t.f + 1 < t.npages) then s
        else
          let bad := movesPoison s t
          let t' := { t with old := t.new, f := 0, ms := 0, oldp := t.newp, newp := [], flight := false }
          let s := setTht (movePage s t) (BitVec.ofNat 32 h) t'
          let s := { s with ms := t.oldp.foldl dropSide s.ms }
          let s := releaseHeld s h t.f
          let s := afterPage s h t' bad
          let s := match tblGet none s.tht h with | some u => setTht s (BitVec.ofNat 32 h) { u with claim := .none, flight := false } | none => s
          markBound s h t.old t.new)

/-! ## XMOVE's command (R116) -/

/-- The move ends its command. -/
def moveEnds (s : State) (ch : BitVec 2) (k : Nat) (x : CCmd) (st : Nat) : State :=
  setCmd s ch k { x with fin := true, wait := none, st := worse x.st st }

/-- A step of an XMOVE: it takes the claim where no other engine holds it, keeps a page in flight, and waits for an unpin; the commits move
the pages. -/
def moveStep (s : State) (ch : BitVec 2) (k : Nat) (x : CCmd) : State :=
  match x.kind with
  | .move h npg n claimed =>
      (match thtOf s h with
       | none => (match tblGet none s.tht h.toNat with | some t => if claimed && t.flight then s else moveEnds s ch k x 0 | none => moveEnds s ch k x 0)
       | some t =>
           if !claimed then
             (if t.ms = 0 ∨ t.claim ≠ .none ∨ adeNames s h.toNat then moveEnds s ch k x 0
              else if (me s).run.preq then s
              else setCmd (setTht s h { t with claim := .chan s.ex.val ch.toNat, ms := 2, flight := movesRun s }) ch k { x with kind := .move h npg n true })
           else if t.claim ≠ .chan s.ex.val ch.toNat then moveEnds s ch k x 0
           else if !t.flight then (if movesRun s then setTht s h { t with flight := true } else s)
           else if pinned s (listGet 0 t.oldp t.f) then setCmd s ch k (waitFrom (me s) x)
           else setCmd s ch k { x with wait := none })
  | _ => s

/-- A claim passes to a tier copy engine and its XMOVE repeat is over (R107, R116). -/
def movePasses (s : State) (ch : BitVec 2) (k : Nat) (x : CCmd) (st : Nat) : State :=
  match x.kind with
  | .move h _ _ _ => moveEnds (passClaim s h) ch k x st
  | _ => s

/-- An XMOVE repeat that holds a claim. -/
def holdsClaim (x : CCmd) : Bool := match x.kind with | .move _ _ _ cl => cl && !x.fin | _ => false

/-- The XMOVE repeats of a channel that hold a claim stop: the claim passes to a tier copy engine and the repeat is over, with its status (R116). -/
def stopMoves (s : State) (ch : BitVec 2) : State :=
  let s := ((chanOf (me s) ch).filter holdsClaim).foldl (fun s x => match x.kind with
    | .move h _ _ _ => onMe (passClaim s h) (fun c => estatCh c ch.toNat x.st)
    | _ => s) s
  onMe s (fun c => setChan c ch ((chanOf c ch).filter (fun x => !holdsClaim x)))

/-- The page in flight of a tensor is still pinned (R116). -/
def stillPinned (s : State) (h : Nat) : Bool :=
  match tblGet none s.tht h with
  | none => false
  | some t => t.flight && pinned s (listGet 0 t.oldp t.f)

/-- CLAIM_PASS: a copy channel's claim passes to a tier copy engine, at the end of the tick in which its unpin wait expires with the page still pinned, or
where its command is gone (R107, R116, R317; a pre-emption passes it with its request). Choice: n, the handle. -/
def execClaimPass (s : State) : Out :=
  .next (
    let h := s.choice.n
    match tblGet none s.tht h with
    | none => s
    | some t =>
        match t.claim with
        | .chan ex chn =>
            asEx s ex (fun s =>
              match moveCmd (me s) (chNo chn) h with
              | none => passClaim s (BitVec.ofNat 32 h)
              | some (k, x) =>
                  if !chansRun (me s) || !s.closing || !stillPinned s h then s
                  else match chanLate s x with
                    | none => s
                    | some code => movePasses s (chNo chn) k x code)
        | _ => s)

end Sys2Proof.Machine
end

