-- ==== Sys2Proof/Machine/Chan.lean ====
section
/-! DEFINITION. The channels at work (spec/09_copy.md R171 to R176, spec/05_tiers.md R102, R103): the next request of a channel, the completion
of a command, the expiry of a command's wait. -/

namespace Sys2Proof.Machine

/-- A step of a command that runs alone on its channel: every earlier command has sent its requests; one with an acquire waits until they
have completed, and so does what an XRAT or XRCLOSE does (R171, R176, R284). -/
def aloneStep (s : State) (ch : BitVec 2) (i : Nat) (x : CCmd) : State :=
  let c := me s
  if x.fin || !mayStep c ch i false || !((chanOf c ch).take i).all sent || (x.acq && i != 0) then s
  else
    match x.kind with
    | .move _ _ _ _ => moveStep s ch i x
    | .coll _ _ _ => colStep s ch i x
    | .route _ _ _ _ => routeStep s ch i x
    | .rret _ _ => rretStep s ch i x
    | .ratArm n d => if i = 0 then armStep s ch i x n d else s
    | .ringCfg n d => if i = 0 then ringCfgStep s ch i x n d else s
    | .ringClose n => if i = 0 then ringCloseStep s ch i x n else s
    | .ringRelease n => if i = 0 then ringReleaseStep s ch i x n else s
    | _ => s

/-- ADDRESS_QUEUE_REQUEST: the next read or write request of a command leaves its channel's address queue, its page's home resolved now, or is
held there; a command without requests takes its next step (R102, R103, R151, R172). Choice: n, the channel; m, the command's place; flag, a
write. -/
def execAddressQueueRequest (s : State) : Out :=
  .next (
    let ch := chNo s.choice.n
    let i := s.choice.m
    match (chanOf (me s) ch)[i]? with
    | none => s
    | some x => if alone x then aloneStep s ch i x else if s.choice.flag then writeStep s ch i x else readStep s ch i x)

/-- A drain whose tile has not been read (R257). -/
def tileUnread (x : CCmd) : Bool := match x.kind with | .drain _ _ _ _ none => true | _ => false

/-- COPY_COMMAND_COMPLETION: the oldest command of a channel has had its last request served and its release performed: it leaves the channel and
its status is recorded (R174). Choice: n, the channel. -/
def execCopyCommandCompletion (s : State) : Out :=
  .next (
    let ch := chNo s.choice.n
    match chanOf (me s) ch with
    | [] => s
    | x :: r =>
        if chansRun (me s) && sent x && !tileUnread x && servedAll s x then leaveSectors (onMe s (fun c => estatCh (setChan c ch r) ch.toNat x.st))
        else s)

/-- The write that the head request of a channel makes is held at a page in flight (R103). -/
def heldAtPage (s : State) (ch : BitVec 2) : Bool := s.holds.any (fun k => k.ex == s.ex.val && k.ch == ch.toNat)

/-- HELD_WRITE_EXPIRY: a write held at a page in flight has waited XDL: its command ends TIMEOUT at that request (R103, R173). Choice: n, the
channel. -/
def execHeldWriteExpiry (s : State) : Out :=
  .next (
    let ch := chNo s.choice.n
    match waitingCmd (me s) ch with
    | none => s
    | some (i, x) =>
        if !chansRun (me s) || !heldAtPage s ch then s
        else match chanLate s x with
          | none => s
          | some code => cutCmd s ch i x code)

/-- The outcome of a hold of RAT n's writes against its command's XDL (R475). -/
def ratHoldLate (s : State) (n : Nat) : Bool :=
  match (ratAt (me s) n).since with
  | none => false
  | some (t0, dl) => decide (dl ≤ ((me s).ctc - t0).toNat)

/-- The held writes of an XROUTE on the channel have waited XDL (R475). -/
def routeHolds (s : State) (ch : BitVec 2) : State :=
  ((List.range 16).find? (fun n => match routeCmd (me s) n with | some (c, _, _) => c == ch && ratHoldLate s n | none => false)).elim s (fun n =>
    match routeCmd (me s) n with
    | some (c, i, x) => ratHoldExpired s n c i x
    | none => s)

/-- End the command whose head request has waited too long, by its kind; an XROUTE is bounded by its D, which expires no later (R281). -/
def expireCmd (s : State) (ch : BitVec 2) (i : Nat) (x : CCmd) (code : Nat) : State :=
  let free (s : State) : State := onMe s (fun c => { c with held := c.held.filter (fun h => h.1 != .chan ch.toNat) })
  match x.kind with
  | .move _ _ _ _ => movePasses s ch i x code
  | .coll d _ _ => if code = 4 then colAbort (free s) ch i x d else colExpire (free s) ch i x code
  | .route _ _ _ _ => routeHolds s ch
  | .rret _ _ => endCmd (free s) ch i x code
  | .ratArm _ _ => s
  | .ringClose _ => s
  | _ => cutCmd s ch i x code

/-- The request for which the command waits cannot be made yet: its page is pinned, it is held at a fault, or nothing has come for a collective's step; an
event of the deadline's own tick counts first (R173, R317). -/
def stillWaits (s : State) (ch : BitVec 2) (x : CCmd) : Bool :=
  let held := isHeld (me s) (.chan ch.toNat)
  match x.kind with
  | .move h _ _ _ => stillPinned s h.toNat
  | .coll d _ (some c) => held || !s.dev.early.any (fun e => e.2.1 == colGen d && e.2.2.1 == c.step)
  | _ => held

/-- COMMAND_WAIT_EXPIRY: the wait of a channel's head request has lasted XDL: the command ends TIMEOUT there, or ABORTED in an aborted gang; so does
an XROUTE whose held writes have waited XDL (R173, R317, R475). Choice: n, the channel. -/
def execCommandWaitExpiry (s : State) : Out :=
  .next (
    let ch := chNo s.choice.n
    if !chansRun (me s) || heldAtPage s ch then s
    else
      match waitingCmd (me s) ch with
      | none => routeHolds s ch
      | some (i, x) =>
          match chanLate s x with
          | none => routeHolds s ch
          | some code => if code = 1 ∧ !stillWaits s ch x then s else expireCmd s ch i x code)

end Sys2Proof.Machine
end

