-- ==== Sys2Proof/Machine/System.lean ====
section
/-! DEFINITION. The system words: TRAP, ERET (spec/18_faults.md R398, R399), TLBINV, DCF, CINV (spec/08 R152, R159, R160), BKPT, SNAPBC
(spec/24 R433, R434); illegal words (R53, R70, R73); interrupts (R396), precise stops (R435), the trace trigger (R439). -/

namespace Sys2Proof.Machine

/-! ## Illegal words -/

/-- A word that does not decode traps ILLEGAL, TVAL the word, even when predicate-false (R72, R73). -/
def execIllegalOpcode (sq : Seq) (w : W64) (s : State) : Out :=
  .next (if sq = .control then trapControl s (.illegal w) else engTrap s sq (.illegal w))

/-! ## TRAP and ERET -/

/-- TRAP (R398). -/
def execTrap (g : Guard) (num : BitVec 16) (s : State) : Out :=
  .next (guarded g s (fun s => trapControl s { code := 0x80 + num.toNat }))

/-- The sequencer that a number names (XFINFO.SEQ). -/
def seqOfNo (n : Nat) : Seq := if n = 1 then .matrix else if n = 2 then .vector else if n = 3 then .copy else .control

/-- The trapping engine abandons its segment at the trapping repeat (R399, R204). -/
def abandonTrapped (s : State) (sq : Seq) : State :=
  let st := (engOf (me s) sq).st
  if sq = .control ∨ (st ≠ .running ∧ st ≠ .stopped) then s
  else
    let (r, s) := freeNat s 64
    let s := abandonNow s sq r
    if sq = .vector then onVec s (fun v => { v with vload := none }) else s

/-- A wait set aside is given up, with its place in a waiter list. -/
def dropParked (s : State) : State :=
  match (me s).parked with
  | none => s
  | some _ => leaveQueues (onMe s (fun c => { c with parked := none })) s.ex.val

/-- The wait that an engine trap interrupted goes on where the pc returns to its word, or issues again with what remains where a pre-emption took
its list place; it is given up otherwise (R318, R394). -/
def unpark (s : State) : State :=
  match (me s).parked with
  | none => s
  | some p =>
      if p.pc ≠ (me s).ctl.pc then dropParked s
      else
        match p.wait with
        | none => onMe s (fun c => { c with parked := none, remain := p.remain })
        | some w =>
            if p.again then onMe s (fun c => { c with parked := none, remain := some (waitLeft c w) })
            else onMe s (fun c => { c with parked := none, cwait := some w, spad := { c.spad with waiters := c.spad.waiters ++ p.tag.toList } })

/-- The nest that a trap stopped goes on (R260, R399). -/
def nestResume (c : Core) : Core := { c with mx := { c.mx with paused := false } }

/-- ERET in supervisor mode without KILL: the trapping segment is abandoned where ABANDON says so; TCTL and SUP clear, the pc returns to
EPC, a multiple of 8 (R44; DEDUCED, log 83), and what was frozen goes on (R399). -/
def eretGo (s : State) : State :=
  let c := me s
  let sq := seqOfNo (bits c.csr.cause 9 8)
  let s := if c.csr.tctl.getLsbD 0 then abandonTrapped s sq else s
  let s := onMe s (fun c =>
    let c := slogStop s.ex.val c .control 2 c.csr.cause
    let c := if c.frozen then nestResume c else c
    { c with csr := { c.csr with tctl := 0, sup := false }, frozen := false })
  let s := unpark (jumpTo s (c.csr.epc &&& ~~~7#64))
  onMe s tagWake

/-- ERET (R399). -/
def execEret (g : Guard) (s : State) : Out :=
  .next (guarded g s (fun s =>
    let c := me s
    if !c.csr.sup then trapControl s (.protect 0)
    else if c.csr.tctl.getLsbD 1 then killInstance (dropParked s) (bits c.csr.cause 7 0)
    else eretGo s))

/-! ## Interrupts (R396) -/

/-- Enter the handler at a word boundary for the first interrupt by stamp and source number (R451): CAUSE.ASYNC set, EPC the next word; engines, IRB and context time go on; a word that was to issue again after
a pre-emption keeps its remaining deadline for ERET (R318, R396). -/
def takeIrq (s : State) : State :=
  let c := me s
  match c.irq with
  | [] => s
  | x :: rest =>
      let c := park c
      let cause := causeWord true false x.sq x.code
      let c := slogStop s.ex.val { c with irq := rest } .control 1 cause
      setMe s { c with
        csr := { c.csr with cause := cause, epc := c.ctl.pc, tval := x.tval, sup := true }
        csr2 := (match x.info with | none => c.csr2 | some i => { c.csr2 with xfaddr := x.tval, xfinfo := i })
        ctl := { c.ctl with pc := c.csr.tvec } }

/-- An interrupt is due at this word boundary: a source is pending, SUP is 0, and no word waits or awaits its reply (R396). -/
def irqDue (c : Core) : Bool :=
  !c.irq.isEmpty && !c.csr.sup && c.cwait.isNone && c.pend.isNone && controlRuns c && c.run.st == .running

/-- INTERRUPT (R396). -/
def execInterrupt (s : State) : Out := .next (if irqDue (me s) then takeIrq s else s)

/-! ## TLBINV (R152) -/

/-- A TLB entry is dropped. -/
def tlbDrops (ctx num : Nat) (va : W64) (t : TlbEnt) : Bool :=
  if num = 0 then t.ctx == ctx && !pteG t.pte
  else if num = 1 then tlbCovers ctx va t
  else true

/-- Drop the entries in every TLB of the device. -/
def tlbInvalidate (s : State) (ctx num : Nat) (va : W64) : State :=
  let keep (l : List TlbEnt) : List TlbEnt := l.filter (fun t => !tlbDrops ctx num va t)
  { s with cores := s.cores.map (fun (c : Core) => { c with tlb := keep c.tlb })
           ms := { s.ms with dieTlb := s.ms.dieTlb.filterMap (fun (e : Nat × List TlbEnt) =>
             if (keep e.2).isEmpty then none else some (e.1, keep e.2)) } }

/-- A request of the executor numbered below n has not reached its slice. -/
def sentBelow (c : Core) (n : Nat) : Bool :=
  c.reqs.any (fun r => decide (r.id < n)) || c.wc.any (fun w => decide (w.id < n)) ||
  c.vec.gathers.any (fun g => decide (g.id < n) && !g.sent.isEmpty)

/-- A TLBINV drops entries that every context may have used: all of them, or a global one of the address (R152). -/
def dropsGlobal (s : State) (ctx num : Nat) (va : W64) : Bool :=
  let hit (l : List TlbEnt) : Bool := l.any (fun t => pteG t.pte && tlbDrops ctx num va t)
  num == 2 || s.cores.any (fun c => hit c.tlb) || s.ms.dieTlb.any (fun (e : Nat × List TlbEnt) => hit e.2)

/-- Every request that may have used a dropped entry has reached its slice: those of the context, or of every context. -/
def tlbQuiet (s : State) (all : Bool) (n : Nat) : Bool :=
  (List.range 288).all (fun i =>
    let c := coreAt s i
    (!all && c.run.inst.ctx != ctxOf s) || (!sentBelow c n && (i == s.ex.val || c.pend.isNone)))

/-- TLBINV: the entries are dropped; the word completes once the requests that used them have reached their slices (R152). -/
def tlbStep (a : Reg) (num : Nat) (s : State) : State :=
  let s := if waits s then s
    else
      let all := dropsGlobal s (ctxOf s) num (rd s a)
      let s := tlbInvalidate s (ctxOf s) num (rd s a)
      onMe s (fun c => { c with cwait := some { t0 := c.ctc, dl := 2 ^ 64, kind := .tlbinv s.nextId all } })
  match (me s).cwait with
  | some { kind := .tlbinv n all, .. } => if tlbQuiet s all n then retire (onMe s (fun c => { c with cwait := none })) else s
  | _ => s

/-- TLBINV (R152). -/
def execTlbinv (g : Guard) (a : Reg) (num : BitVec 16) (s : State) : Out :=
  .next (guardedW g s (fun s => if !(me s).csr.sup then trapControl s (.protect 0) else tlbStep a num.toNat s))

/-! ## DCF and CINV (R159, R160) -/

/-- The writes and atomics of a context to either view of a physical page that have issued and not been served, by executor and
number. -/
def pageWrites (s : State) (ctx page : Nat) : List (Nat × Nat) :=
  (List.range 288).flatMap (fun i =>
    let c := coreAt s i
    if c.run.inst.ctx != ctx then []
    else
      (c.reqs.filter (fun r => r.spad.isNone && r.isWrite && pa50 r.pa / 65536 == page)).map (fun r => (i, r.id)) ++
      (c.wc.filter (fun w => pa50 w.pa / 65536 == page)).map (fun w => (i, w.id)) ++
      (c.vec.gathers.filter (lanesTo s i page)).map (fun g => (i, g.id)))

/-- A write to the page is still on its way: a request, or lanes of a scatter sent since or not yet. -/
def writeOut (s : State) (page : Nat) (e : Nat × Nat) : Bool :=
  let c := coreAt s e.1
  c.reqs.any (fun r => r.id == e.2 || (r.op == some e.2 && pa50 r.pa / 65536 == page)) ||
  c.wc.any (fun w => w.id == e.2 || (w.op == some e.2 && pa50 w.pa / 65536 == page)) ||
  c.vec.gathers.any (fun g => g.id == e.2 && lanesTo s e.1 page g)

/-- The page is joined: both views written back and dropped at the slices and in the issuer's L1 (R159). -/
def dcfJoin (s : State) (page : Nat) : State :=
  l1DropPage { s with ms := joinPage s.ms (page * 65536) } page (fun _ => true)

/-- DCF on a translated page. -/
def dcfStep (s : State) (d : Reg) (page : Nat) (ids : List (Nat × Nat)) : State :=
  awaiting s d (!ids.any (writeOut s page)) 1 id (fun s => done (dcfJoin s page) d 0)

/-- DCF (R159): translated as a read, the window refused (R223). -/
def execDcf (g : Guard) (d a c : Reg) (e : Bool) (off : BitVec 12) (s : State) : Out :=
  .next (guardedW g s (fun s =>
    match (me s).cwait with
    | some { kind := .dcf page ids, .. } => dcfStep s d page ids
    | _ =>
        let va := ea s a off
        if inWindow (me s) va then trapControl s (.protect va)
        else
          match translate s va .read .control with
          | (.error t, s) => trapControl s t
          | (.ok x, s) =>
              let page := pa50 x.pa / 65536
              let s := wcFlushSq s .control
              let ids := pageWrites s (ctxOf s) page
              dcfStep (startWait s (dlOf s c) e d (.dcf page ids)) d page ids))

/-- CINV on the address of a line or page; an address that does not translate does nothing (R160). -/
def cinvAt (s : State) (va : W64) (whole : Bool) : State :=
  match translate s va .read .control with
  | (.error _, s) => s
  | (.ok x, s) => if whole then l1DropPage s (pa50 x.pa / 65536) (fun p => isRaw p == isRaw x.pa) else l1Drop s x.pa

/-- CINV (R160); an address in the window traps PROTECT (R223). -/
def execCinv (g : Guard) (a : Reg) (num : BitVec 16) (s : State) : Out :=
  .next (guarded g s (fun s =>
    if num = 2 then retire (l1Empty s)
    else if inWindow (me s) (rd s a) then trapControl s (.protect (rd s a))
    else retire (cinvAt s (rd s a) (num == 1))))

/-! ## Precise stops, BKPT and SNAPBC -/

/-- Stop one executor: the schedule-cycle names of its sequencers, a STOP record (R435, R436). -/
def stopCore (ex : Nat) (c : Core) : Core :=
  let c := slogStop ex c .control 6 0
  let seg (q : Seq) : W64 := segOf c q
  let cyc (q : Seq) : W32 := BitVec.ofNat 32 (cycleOf c q)
  { c with run := { c.run with dstop := true, dreq := false }
           csrd := { c.csrd with dstops := #v[seg .control, seg .matrix, seg .vector, seg .copy]
                                 dstopc := #v[cyc .control, cyc .matrix, cyc .vector, cyc .copy] } }

/-- The executors that stop with executor n: the eight cores of a cluster gang, else itself (R435). -/
def stopSet (s : State) (n : Nat) : List Nat :=
  match (coreAt s n).run.group with
  | none => [n]
  | some g => ((List.range 8).map (fun i => n / 8 * 8 + i)).filter (fun k => (coreAt s k).run.group == some g && (coreAt s k).run.live)

/-- A precise stop of executor n (R435). -/
def preciseStop (s : State) (n : Nat) : State := (stopSet s n).foldl (fun s k => onCore s k (stopCore k)) s

/-- PRECISE_STOP: the stop that the debug port has requested takes effect; the command ends OK once every one has (R435, R464). -/
def execPreciseStop (s : State) : Out :=
  .next (
    if (me s).run.dreq && (me s).run.live then
      let s := preciseStop s s.ex.val
      if s.dev.mbox.busy && !(List.range 288).any (fun i => (coreAt s i).run.dreq) then
        { s with dev := { s.dev with mbox := { s.dev.mbox with busy := false, status := 0 } } }
      else s
    else s)

/-- BKPT: BREAK, or under STOPBK the word retires and the core stops (R434). -/
def execBkpt (g : Guard) (num : BitVec 16) (s : State) : Out :=
  .next (guarded g s (fun s =>
    if (me s).csrd.dbgctl.getLsbD 1 then preciseStop (retire s) s.ex.val
    else trapControl s { code := 0x0C, tval := zext64 num }))

/-- SNAPBC: a snapshot while BCCTL.EN is 1 (R432, R433). -/
def execSnapbc (g : Guard) (s : State) : Out := .next (guarded g s (fun s => retire (snapshot s .control 0 0 (me s).ccycle)))

/-- TRACE_TRIGGER: the event that TBTRIG names has occurred, at the pc or at the address of the access on its way (R439). -/
def execTraceTrigger (s : State) : Out :=
  .next (onMe s (fun c =>
    if bits c.csrd.tbtrig 2 0 = 1 then trigger c 1 c.ctl.pc
    else (match c.pend with | some p => trigger c 2 p.va | none => c)))

end Sys2Proof.Machine
end

