-- ==== Sys2Proof/Machine/Preempt.lean ====
section
/-! DEFINITION. Pre-emption (spec/17_scheduling.md R376, R377, spec/18_faults.md R401 to R404): the request, the stop point of every part of a
core, the writing and the reading of the context image. -/

namespace Sys2Proof.Machine

/-! ## The request (R376, R377) -/

/-- A Root executor is of the controller that a node's operand 0 asks for, if any (R374). -/
def onController (s : State) (n : Node) (ex : Nat) : Bool := match opndCtl s n with | none => true | some k => (ex - 256) / 4 == k

/-- An instance runs there: dispatched, not halted, not already being pre-empted; a hand-over's is on its Root executor until the commit (R376). -/
def occupied (c : Core) : Bool :=
  !c.run.preq &&
  (match c.run.st with
   | .loading => c.run.live
   | .entering => c.run.live
   | .running => c.run.live
   | .halting => c.run.live
   | .restoring => c.run.live
   | .handover => !c.run.reserved
   | _ => false)

/-- The candidate is a cluster gang's group. -/
def gangCand (s : State) (c : Cand) : Bool := c.grp.isSome || (c.idx.isNone && kCluster (listGet {} (launchAt s c.place).nodes c.node).ker)

/-- The whole cluster of a core could be a cluster gang's: each of its cores is free, kept for a group that runs there, or runs an instance that may
give way (R237, R376, R412). -/
def clusterSuits (s : State) (may : Nat → Bool) (ex : Nat) : Bool :=
  (List.range 8).all (fun i =>
    let k := ex / 8 * 8 + i
    !retired s k && !s.dev.hostEx.contains k && (freeEx s k || may k || ((coreAt s k).run.st == .idle && (coreAt s k).run.group.isSome)))

/-- An executor is of the kind, and of the controller, that a candidate needs, whether free or not; for a cluster gang, its cluster is one that it could
have if the instances that may give way did (R237, R374, R412). -/
def suits (s : State) (c : Cand) (may : Nat → Bool) (ex : Nat) : Bool :=
  !retired s ex && !s.dev.hostEx.contains ex && (ex < 256 || s.dev.rootTier) && (!gangCand s c || (decide (ex < 256) && clusterSuits s may ex)) &&
  (match c.idx with
   | some i => (match s.stopped[i]? with
      | none => false
      | some x => (decide (ex < 256) == decide (x.ex < 256)) && !arrivalElsewhere x ex && !tiedTo x ex &&
          (ex < 256 || tied x || onController s (nodeOf s x.inst) ex))
   | none =>
      let n := listGet {} (launchAt s c.place).nodes c.node
      if n.typ = 2 then false
      else if onRoot s n then
        decide (256 ≤ ex) && onController s n ex
      else decide (ex < 256))

/-- PRIO of a running instance. -/
def runPrio (s : State) (c : Core) : Nat := kPrio (nodeOf s c.run.inst).ker

/-- Executor a's instance is pre-empted before b's: the lower priority, then the later launch, then the higher wid (R376). -/
def victimBefore (s : State) (a b : Nat) : Bool :=
  let x := coreAt s a
  let y := coreAt s b
  let la := (launchAt s x.run.inst.launch).accepted
  let lb := (launchAt s y.run.inst.launch).accepted
  if runPrio s x ≠ runPrio s y then decide (runPrio s x < runPrio s y)
  else if la ≠ lb then decide (lb < la)
  else decide (y.run.inst.wid.toNat < x.run.inst.wid.toNat)

/-- The first of a list of executors in that order. -/
def firstVictim (s : State) : List Nat → Option Nat
  | [] => none
  | a :: r => (match firstVictim s r with | none => some a | some b => some (if victimBefore s b a then b else a))

/-- Executor ex runs an instance of a lower effective priority than a candidate's (R376). -/
def runsLower (s : State) (c : Cand) (ex : Nat) : Bool := occupied (coreAt s ex) && decide (runPrio s (coreAt s ex) < c.prio)

/-- Executor ex runs an instance of a candidate's own launch with a higher wid (R377). -/
def runsOwn (s : State) (c : Cand) (ex : Nat) : Bool :=
  let i := (coreAt s ex).run.inst
  occupied (coreAt s ex) && i.launch == c.place && decide (c.wid < i.wid.toNat)

/-- The executor of a list whose instance has the highest wid. -/
def highestWid (s : State) (l : List Nat) : Option Nat :=
  l.foldl (fun (b : Option Nat) ex => match b with
    | none => some ex
    | some k => if (coreAt s k).run.inst.wid.toNat < (coreAt s ex).run.inst.wid.toNat then some ex else b) none

/-- The running instance that a candidate pre-empts, if any: one of lower effective priority; where no suitable executor runs one, for a pre-empted
candidate that instance of its own launch with a higher wid which has the highest (R376, R377, R412; DEDUCED, log 108). -/
def victimFor (s : State) (c : Cand) : Option Nat :=
  match firstVictim s ((List.range 288).filter (fun ex => runsLower s c ex && suits s c (runsLower s c) ex)) with
  | some ex => some ex
  | none =>
      if c.pre then highestWid s ((List.range 288).filter (fun ex => runsOwn s c ex && suits s c (runsOwn s c) ex)) else none

/-- A candidate's name while it waits. -/
def candKey (c : Cand) : Nat × Nat × Nat := (c.place, c.node, c.wid)

/-- A pre-emption for the candidate is in progress, until its image is written (R376). -/
def inProgress (s : State) (c : Cand) : Bool := s.cores.any (fun k => k.run.pfor == some (candKey c))

/-- The XMOVE repeats of every channel that hold a claim stop; none in a precise stop, during which the request waits (R116, R443). -/
def stopAllMoves (s : State) : State := if (me s).run.dstop then s else stopMoves (stopMoves (stopMoves (stopMoves s 0) 1) 2) 3

/-- Request the pre-emption of an executor, and of its whole cluster gang (R237); their XMOVE repeats stop at once (R116). -/
def askStop (s : State) (ex : Nat) (for_ : Option (Nat × Nat × Nat)) : State :=
  (stopSet s ex).foldl (fun s k => asEx (onCore s k (fun c => { c with run := { c.run with preq := true, pfor := for_ } })) k stopAllMoves) s

/-- PREEMPT_REQUEST: the first candidate that has waited PREDL with no suitable free executor pre-empts a running instance (R376, R377). -/
def execPreemptRequest (s : State) : Out :=
  .next (
    let waited (c : Cand) : Bool := decide (s.dev.sched.predl.toNat * 1000 ≤ (s.gtc - c.since).toNat)
    match (candidates s).findSome? (fun c =>
      if waited c && (targetFor s c).isNone && !inProgress s c then (victimFor s c).map (fun ex => (c, ex)) else none) with
    | none => s
    | some (c, ex) => if dispatchRuns s then askStop s ex (some (candKey c)) else s)

/-! ## The stop point (R401) -/

/-- A wait set aside by an engine trap whose word stands in a waiter list or pushes: it gives up its place and issues again (R314, R318). -/
def parkedAgain (s : State) : State :=
  match (me s).parked with
  | none => s
  | some p =>
      let again (s : State) : State := onMe (leaveQueues s s.ex.val) (fun c => { c with parked := some { p with again := true } })
      match (p.wait.map (fun (w : CWait) => w.kind) : Option WKind) with
      | some (.tagged _ _ _) => if p.tag.isSome then s else again s
      | some (.waitq pa place _) => if linked s.wq pa place then again s else s
      | some (.qsend _ _ _ _) => again s
      | some (.qrecv _ _ _ _ _) => again s
      | some (.push _ _ _ _) => again s
      | _ => s

/-- A waiting control word stops: one that stands in a waiter list gives up its place, and it and a push are to issue again with their remaining
deadline; the others keep their wait (R314, R318). -/
def stopWait (s : State) : State :=
  let s := parkedAgain s
  let c := me s
  match c.cwait with
  | none => s
  | some w =>
      let again (s : State) : State := onMe s (fun c => { c with cwait := none, remain := some (waitLeft c w) })
      match w.kind with
      | .tagged _ _ _ =>
          if c.spad.waiters.any (fun t => t.sq == .control && t.done.isSome) then s
          else again (onMe s (fun c => { c with spad := { c.spad with waiters := c.spad.waiters.filter (fun t => t.sq != .control) } }))
      | .waitq pa place _ => if linked s.wq pa place then again (leaveQueues s s.ex.val) else s
      | .qsend _ _ _ _ => again (leaveQueues s s.ex.val)
      | .qrecv _ _ _ _ _ => again (leaveQueues s s.ex.val)
      | .push _ _ _ _ => again s
      | _ => s

/-- A command of a channel as the context image holds it: what it had read and not written is read again from the next request to write, a held write
with what is left of its deadline once its fault is settled (R103, R175, R318); a collective stands at its piece boundary, and asks again for the pieces
that come while it is not resident (R196). -/
def imageCmd (c : Core) (ch : BitVec 2) (x : CCmd) : CCmd :=
  match x.kind with
  | .coll _ _ _ => askAgain x
  | .xdcf => x
  | _ =>
      if alone x then x
      else
        let x := if c.held.any (fun h => h.1 == .chan ch.toNat) then x else takeBack c x
        { x with rd := x.wr, buf := [], run := 0, idx := none, acc := {}, got := [] }

/-- A channel stops: its commands are held as the image holds them, an XMOVE that holds a claim is over (R116, R175). -/
def stopChan (s : State) (ch : BitVec 2) : State :=
  onMe (stopMoves s ch) (fun c => setChan c ch ((chanOf c ch).map (imageCmd c ch)))

/-- Every part of the core stands at its stop point (R401). -/
def atStop (c : Core) : Bool :=
  c.pend.isNone && c.vec.gathers.all (fun g => if g.load then g.done else scatDone c g) && c.mx.red.isNone &&
  chanStops c 0 && chanStops c 1 && chanStops c 2 && chanStops c 3

/-- The core at its stop point: waiter places given up, channels and streams as the image holds them, the executor writing its image. -/
def stopNow (s : State) : State :=
  let s := stopWait s
  let s := stopChan (stopChan (stopChan (stopChan s 0) 1) 2) 3
  let s := { s with holds := s.holds.filter (fun k => k.ex != s.ex.val) }
  let s := drainWc s
  onMe s (fun c =>
    let c := slogStop s.ex.val c .control 3 0
    { c with run := { c.run with st := .saving, preq := false, stopAt := s.gtc }, parts := []
             spad := { c.spad with waiters := c.spad.waiters.filter (fun t => t.done.isSome) }
             cp := { c.cp with strms := c.cp.strms.map (fun (e : Nat × Option Strm) => (e.1, e.2.map (fun (x : Strm) => { x with rows := [] }))) } })

/-- A running core goes on to its stop point: the trap at which an engine is frozen is taken first, its XMOVE repeats are over, its nest stops (R116, R261,
R409). -/
def towardStop (s : State) : State :=
  let s := takeFrozen s
  let s := onMe (stopAllMoves s) nestStop
  if atStop (me s) then stopNow s else s

/-- An executor whose instance has not issued its first word, or whose image is being read, is at its stop point. -/
def savesNow (s : State) (c : Core) : Core := { c with run := { c.run with st := .saving, preq := false, stopAt := s.gtc } }

/-- PREEMPT_STOP: the requested pre-emption reaches its stop point: at once for an instance whose first word has not issued or whose image is
being read, else when every part has stopped; the nest stops as R261 gives (R376, R401). -/
def execPreemptStop (s : State) : Out :=
  .next (
    let c := me s
    if !c.run.preq || !c.run.live || c.run.dstop then s
    else
      match c.run.st with
      | .loading => onMe s (fun c => savesNow s (entryCore s s.ex.val c))
      | .entering => onMe s (fun c => savesNow s (entryCore s s.ex.val c))
      | .restoring => onMe s (savesNow s)
      | .running => towardStop s
      | .halting => towardStop s
      | _ => s)

/-! ## The image (R402 to R404) -/

/-- The scratchpads of a cluster's local cores on which no instance of the group is held or runs. -/
def siblingSpads (s : State) (g : Nat × Nat × Nat) : List (Nat × Spad) :=
  ((List.range 8).filter (fun i =>
    !s.stopped.any (fun y => y.core.run.group == some g && y.inst.wid.toNat % 8 == i))).map (fun i => (i, (coreAt s (s.ex.val / 8 * 8 + i)).spad))

/-- Once every member of a cluster group is held, its cluster is free, and the image keeps the scratchpads of the cores that had halted. -/
def freeCluster (s : State) (g : Nat × Nat × Nat) : State :=
  if groupWhole s g then
    let sp := siblingSpads s g
    let i := ((groupStopped s g).head?).getD {}
    { s with
      stopped := s.stopped.map (fun (y : Stopped) => if y.inst == i.inst then { y with spads := sp } else y)
      cores := s.cores.map (fun (c : Core) => if c.run.group == some g then { c with run := { c.run with group := none } } else c) }
  else s

/-- The cores of a cluster group have all stopped, and what they sent to each other's scratchpads has been served (R237). -/
def groupStill (s : State) (g : Option (Nat × Nat × Nat)) : Bool :=
  g.isNone || s.cores.all (fun k => k.run.group != g || ((k.run.st == .saving || k.run.st == .idle) && k.reqs.isEmpty && k.wc.isEmpty))

/-- Region n of an image's directory differs from its value at the instance's entry: a vector register, 64 KiB of the scratchpad, an accumulator bank, the
rows of a RAT (R379, R402, R403). -/
def regionWritten (c : Core) (n : Nat) : Bool :=
  if n < 768 then vreg c.vec n != Vector.replicate 64 0
  else if n < 800 then
    (c.spad.w ++ c.spad.base).any (fun e => e.1 / 8192 == n - 768 && tblGet 0 c.spad.w e.1 != tblGet 0 c.spad.base e.1)
  else if n < 802 then (if n = 800 then c.mx.bank0 else c.mx.bank1).acc.any (fun r => r.any (fun x => x != 0))
  else (tblGet {} c.rats (n - 802)).rows.any (fun r => r != {})

/-- The directory of a context image: which regions are written (R402). -/
def imageDir (c : Core) : Nat := (List.range 818).foldl (fun d n => if regionWritten c n then d + 2 ^ n else d) 0

/-- IMAGE_SAVE_DONE: the context image is written once every request of the core, and of its cluster group, has been served, and the host has acknowledged
the executor's writes, so that the context's later releases cover them; the executor is free (R237, R352, R367, R402). -/
def execImageSaveDone (s : State) : Out :=
  .next (
    let c := me s
    if c.run.st != .saving || !c.reqs.isEmpty || !c.wc.isEmpty || !groupStill s c.run.group || s.acks.any (fun a => a.ex == s.ex.val) then s
    else
      let i := c.run.inst
      let x : Stopped := { inst := i, core := { c with l1 := [], tlb := [], run := { c.run with st := .running, pfor := none } }, ex := s.ex.val,
                           since := c.run.stopAt, dir := imageDir c }
      let s := onNode { s with stopped := s.stopped ++ [x] } i.launch i.node (fun n => { n with running := n.running - 1 })
      let s := onMe s (fun c => let c := freeCore c; { c with dbg := { c.dbg with slbuf := [] } })
      match c.run.group with
      | none => s
      | some g => freeCluster s g)

/-- Pacing starts again (R299). -/
def pace (e : Eng) (gtc : W64) : Eng := { e with lastDeq := some gtc }

/-- An executor resumes from its image: what its L1 holds of the last instance is dropped (R367), slots resolved, streams bound again at their positions, pacing restarted, the nest going on, the
bank-conflict cells and BCCNT at zero (R404). -/
def restoreOne (s : State) (ex : Nat) : State :=
  asEx s ex (fun s =>
    let ctx := ctxOf s
    onMe (l1Clear (skip16 s)) (fun c =>
      let c := { c with cp := rebindCop s ctx c.cp, xe := pace c.xe s.gtc, me := pace c.me s.gtc, ve := pace c.ve s.gtc
                        mx := { c.mx with paused := c.frozen && c.mx.paused }, run := { c.run with st := .running }
                        csrd := { c.csrd with bccnt := 0 }, dbg := { c.dbg with cells := [], stall := [] } }
      slogStop ex c .control 4 0))

/-- The image that an executor resumes is in its instruction memories. -/
def imageIn (c : Core) : Bool := match c.run.res with | none => false | some r => r.image == c.run.inst.image

/-- RESTORE: an executor resumes a pre-empted instance; the cores of a cluster gang resume together (R237, R404). -/
def execRestore (s : State) : Out :=
  .next (
    if (me s).run.st != .restoring then s
    else
      let set := match (me s).run.group with
        | none => [s.ex.val]
        | some g => ((List.range 8).map (fun i => s.ex.val / 8 * 8 + i)).filter (fun k => (coreAt s k).run.group == some g && (coreAt s k).run.live)
      if set.all (fun k => (coreAt s k).run.st == .restoring && imageIn (coreAt s k)) then set.foldl restoreOne s else s)

end Sys2Proof.Machine
end

