-- ==== Sys2Proof/Machine/Errors.lean ====
section
/-! DEFINITION. Uncorrectable errors and retired units (spec/18_faults.md R405 to R408, spec/00_scope.md R11) and the eviction of L2 lines
(spec/08 R153, R158). -/

namespace Sys2Proof.Machine

/-! ## Uncorrectable errors -/

/-- Poison item n of a channel's data queue, which its command is to write with its mark (R174, R405, R406). -/
def poisonQueued : List CCmd → Nat → List CCmd
  | [], _ => []
  | x :: r, n =>
      if n < x.buf.length then
        { x with buf := x.buf.zipIdx.map (fun (e : CItem × Nat) => if e.2 = n then { e.1 with marks := [(0, e.1.data.length)] } else e.1), st := worse x.st 5 } :: r
      else x :: poisonQueued r (n - x.buf.length)

/-- Poison row n of those that have arrived at stream q (R406). -/
def poisonRow (c : Core) (q n : Nat) : Core :=
  match strmAt c q with
  | none => c
  | some x => setStrm c q (some { x with rows := x.rows.zipIdx.map (fun (e : (Row × Option W64) × Nat) => if e.2 = n then (e.1.1, some 0) else e.1) })

/-- Poison the entry of a register file, a queue or the scratchpad of a core (R405, R406). -/
def poisonSite (c : Core) (x : ErrSite) : Core :=
  match x with
  | .spad w => if w < 262144 then { c with spad := { c.spad with poison := tblSet false c.spad.poison w true } } else c
  | .vreg r => if r < 768 then { c with vec := { c.vec with vpoison := tblSet false c.vec.vpoison r true } } else c
  | .mreg m => if m < 16 then { c with vec := { c.vec with vpoison := tblSet false c.vec.vpoison (1000 + m) true } } else c
  | .areg a => if a < 8 then { c with vec := { c.vec with vpoison := tblSet false c.vec.vpoison (1100 + a) true } } else c
  | .sreg r => { c with ctl := { c.ctl with bad := c.ctl.bad ||| (1#64 <<< r.toNat) } }
  | .preg p => { c with ctl := { c.ctl with badp := c.ctl.badp ||| (1#16 <<< p.toNat) } }
  | .irb n => { c with vec := { c.vec with irb := c.vec.irb.zipIdx.map (fun (e : Irb × Nat) => if e.2 = n then { e.1 with poison := true } else e.1) } }
  | .deferred n => { c with vec := { c.vec with dq := listSet c.vec.dq n [] } }
  | .tslot t => if t < 64 then { c with cp := { c.cp with bad := c.cp.bad ||| (1#64 <<< t) } } else c
  | .counter e => { c with sync := { c.sync with bad := c.sync.bad ||| (1#64 <<< e.toNat) } }
  | .srow q n => poisonRow c q n
  | .bank b => { c with mx := setBank c.mx b { bankOf c.mx b with poison := true } }
  | .queued ch n => setChan c ch (poisonQueued (chanOf c ch) n)
  | .counted k n => { c with sync := { c.sync with kq := c.sync.kq.set k.toFin (listSet (c.sync.kq.get k.toFin) n none) } }
  | _ => c

/-- Mark a sector of a held L2 line poisoned (R405). -/
def poisonLine (m : MemSys) (key sector : Nat) : MemSys :=
  match tblGet none m.l2 key with
  | none => m
  | some _ => if sector < 4 then slicePoisonMark m (key * 128 + 32 * sector) 32 else m

/-- The instance on an executor ends with cause POISON, and what it had set aside goes (R406, R408). -/
def poisonKill (s : State) (ex : Nat) : State :=
  asEx s ex (fun s => if (me s).run.live then killInstance (dropParked s) 7 else s)

/-- UNCORRECTABLE_ERROR: an error strikes the choice's site; in state without which the executor cannot go on it ends the instance (R405, R406).
Choice: site; flag, whether it is an internal error that target reports (R407). -/
def execUncorrectableError (s : State) : Out :=
  .next (
    let q := s.choice
    let s := match q.site with
      | .memory n => { s with ms := setMemPoison s.ms (32 * n) true }
      | .l2Line k n => { s with ms := poisonLine s.ms k n }
      | .fatal => poisonKill s s.ex.val
      | .ksr => { s with handovers := s.handovers.map (fun h => if h.src = s.ex.val then { h with bad := true } else h) }
      | x => onMe s (fun c => poisonSite c x)
    if q.flag then { s with dev := { s.dev with errs := s.dev.errs ++ [(q.target, s.gtc)] } } else s)

/-! ## Retirement (R407, R408) -/

/-- A unit has reported three internal errors within one second. -/
def threeErrors (s : State) (u : Unit') : Bool :=
  let ts := (s.dev.errs.filter (fun (e : Unit' × W64) => e.1 == u)).map (fun e => e.2)
  (List.range ts.length).any (fun i => match ts[i]?, ts[i + 2]? with
    | some a, some b => decide ((b - a).toNat ≤ 1000000000)
    | _, _ => false)

/-- No context exists: nothing has been launched since the reset. -/
def afterReset (s : State) : Bool := s.ctxs.all (fun (e : Nat × Option Ctxt) => e.2.isNone)

/-- The instance of a retired core is pre-empted where its image can be written, and its node faults otherwise; a hand-over to the core is
cancelled (R133, R390, R408). -/
def leaveCore (s : State) (n : Nat) (saved : Bool) : State :=
  let s := (s.handovers.filter (fun h => h.dst == n)).foldl cancelHandover s
  if (coreAt s n).run.live then (if saved then askStop s n none else poisonKill s n) else s

/-- A core that fails its reset self-test is retired: a spare of its die takes its number before anything runs, and without one the number is absent
(R11, R19, R408). -/
def replaceCore (d : Dev) (n : Nat) : Dev :=
  let k : Fin 4 := Fin.ofNat 4 (n / 64)
  let ret := d.retired ++ [.core n]
  if 0 < d.spares.get k then { d with retired := ret, spares := d.spares.set k (d.spares.get k - 1) }
  else { d with retired := ret, absent := d.absent ++ [n], sec := { d.sec with replaceReq := true } }

/-- A core is retired at once: its number is absent until a spare of its die takes it at the next reset, where one is left beside those that the die's
absent numbers will take (R11, R407, R408). -/
def retireCore (s : State) (n : Nat) (saved : Bool) : State :=
  let none_ := decide (s.dev.spares.toList[n / 64]?.getD 0 ≤ (s.dev.absent.filter (fun k => k / 64 == n / 64)).length)
  let d := s.dev
  let sec := if none_ then { d.sec with replaceReq := true } else d.sec
  leaveCore { s with dev := { d with retired := d.retired ++ [.core n], absent := d.absent ++ [n], sec := sec } } n saved

/-- UNIT_RETIRE: a unit that has reported three errors within a second, or fails its reset self-test, is retired: a core at once, a slice or
channel at the next reset, or at once at the self-test (R407, R408). Choice: target; flag, whether the self-test failed; k, zero where the image
of a running instance can be written. -/
def execUnitRetire (s : State) : Out :=
  .next (
    let u := s.choice.target
    let test := s.choice.flag && afterReset s
    if !test && !threeErrors s u then s
    else
      match u with
      | .core n =>
          if 256 ≤ n ∨ s.dev.absent.contains n then s
          else if test then { s with dev := replaceCore s.dev n }
          else retireCore s n (s.choice.k == 0)
      | _ =>
          let d := s.dev
          if d.retired.contains u || d.pendingRetire.contains u then s
          else
            let sec := { d.sec with replaceReq := true }
            if test then
              { s with dev := { d with retired := d.retired ++ [u], sec := sec }
                       ms := (match u with | .slice n => { s.ms with gone := s.ms.gone ++ [n] } | _ => s.ms) }
            else { s with dev := { d with pendingRetire := d.pendingRetire ++ [u], sec := sec } })

/-! ## Eviction (R158) -/

/-- L2_LINE_EVICTION: a cache-way line is written back and dropped (R158). Choice: n, its key. -/
def execL2LineEviction (s : State) : Out :=
  .next { s with ms := if (tblGet none s.ms.l2 s.choice.n).isSome then evictLine s.ms s.choice.n else s.ms }

end Sys2Proof.Machine
end

