-- ==== Sys2Proof/Machine/Expiry.lean ====
section
/-! DEFINITION. The expiry of a waiting control word (spec/15_sync.md R317 to R319). -/

namespace Sys2Proof.Machine

/-- Run again the waiting word that stands at the pc; its outcome is decided there. A word that does not wait changes nothing. -/
def rerun (i : Instr) (s : State) : Out :=
  match i with
  | .ldfw g d a b c e off => execLdfw g d a b c e off s
  | .ldfe g d a b c e off => execLdfe g d a b c e off s
  | .stef g d a b c e off => execStef g d a b c e off s
  | .fence g d b c e scope eng => execFence g d b c e scope eng s
  | .waitc g d c e ld st cp tl => execWaitc g d c e ld st cp tl s
  | .bwait g d c e bar => execBwait g d c e bar s
  | .bsync g d c e bar => execBsync g d c e bar s
  | .waitq g d a b c e off sz scope => execWaitq g d a b c e off sz scope s
  | .qsend g d a b c e off scope => execQsend g d a b c e off scope s
  | .qrecv g d a b c e off scope => execQrecv g d a b c e off scope s
  | .ewait g d b c e fl => execEwait g d b c e fl s
  | .fork g d a c mask rdv => execFork g d a c mask rdv s
  | .join g d c mask rdv => execJoin g d c mask rdv s
  | .epushRun g d a b c mask => execEpushRun g d a b c mask s
  | .epushSetf g d a b c mask => execEpushSetf g d a b c mask s
  | .epushWaitf g d a b c mask => execEpushWaitf g d a b c mask s
  | .sbind g d c e q t ch => execSbind g d c e q t ch s
  | .loopq g k lv len => execLoopq g k lv len s
  | .seam g d c e idx => execSeam g d c e idx s
  | .dcf g d a c e off => execDcf g d a c e off s
  | _ => .next s

/-- EPUSH's row is known by the kind in s[B][1:0] (R302). -/
def epushRow (c : Core) (i : Instr) : Instr :=
  match i with
  | .epushRun g d a b cc mask =>
      if bits (c.ctl.rd b) 1 0 = 1 then .epushSetf g d a b cc mask
      else if bits (c.ctl.rd b) 1 0 = 2 then .epushWaitf g d a b cc mask
      else i
  | _ => i

/-- The state that an outcome goes on with; a stop leaves the state. -/
def after (s : State) (o : Out) : State := match o with | .next t => t | _ => s

/-- DEADLINE_EXPIRY: the effective deadline of the waiting control word has passed; the word's own rule settles it, with a status or the DEADLINE
trap (R317, R319). -/
def execDeadlineExpiry (s : State) : Out :=
  let c := me s
  match c.cwait, imemWord c c.ctl.pc with
  | some w, some x =>
      if controlRuns c && !c.frozen && decide (w.dl ≤ (c.ctc - w.t0).toNat) then
        (match decodeControl x with
         | .ok i => .next (asTickEnds s (fun s => after s (rerun (epushRow c i) s)))
         | .error _ => .next s)
      else .next s
  | _, _ => .next s

end Sys2Proof.Machine
end

