-- ==== Sys2Proof/Machine/Hostif.lean ====
section
/-! DEFINITION. The host interface (spec/25_system.md R445 to R448, spec/16 R356, spec/17 R383): host reads and writes, the BAR0 registers, the
host command ring and its commands. -/

namespace Sys2Proof.Machine

/-! ## Host reads and writes of memory (R356, R445) -/

/-- The host reaches an address: HBM4 and Stalk over CXL.mem, its own memory itself. -/
def hostReaches (pa : Nat) : Bool :=
  match paRange pa with
  | .hbm _ => true
  | .stalk => true
  | .host => true
  | _ => false

/-- STAT of the mailbox (R462). -/
def mailStat (m : Mbox) : W64 :=
  BitVec.ofNat 64 (m.status % 256 + (if m.busy then 256 else 0) + (if m.disc then 512 else 0) + bits m.cmd 31 16 * 65536)

/-- The mailbox window at an 8-byte offset (R462). -/
def mailRead (s : State) (o : Nat) : W64 :=
  let m := s.dev.mbox
  if o = 0 then m.cmd
  else if o = 8 then mailStat m
  else if o = 0x100 then m.resp
  else if o = 0x108 then m.arg0
  else if o = 0x110 then m.arg1
  else if o = 0x118 then m.arg2
  else if 0x120 ≤ o ∧ o < 0x140 then field64 m.nonce (o - 0x120) 8
  else if 0x800 ≤ o then field64 m.data (o - 0x800) 8
  else 0

/-- A register of a context's page of BAR0 (R446). -/
def doorRead (s : State) (c o : Nat) : W64 :=
  if o = 8 then BitVec.ofNat 64 (tblGet 0 s.dev.lqdrop c)
  else if o = 0x10 then BitVec.ofNat 64 (tblGet 0 s.dev.lfailcnt c)
  else if 0x20 ≤ o ∧ o < 0x40 then field64 (tblGet [] s.dev.lfail c) (o - 0x20) 8
  else 0

/-- An 8-byte BAR0 register (R446); what is not listed reads zero. -/
def barRead (s : State) (o : Nat) : W64 :=
  let h := s.dev.hcq
  if o = 0 then (if s.dev.partM then 0x25A4B else 0x15A4B)
  else if o = 8 then zext64 s.dev.sysdev
  else if o = 0x2000 then h.base
  else if o = 0x2008 then BitVec.ofNat 64 h.size
  else if o = 0x2010 then h.tail
  else if o = 0x2018 then h.head
  else if o = 0x2020 then (if h.overrun then 1 else 0)
  else if 0x3000 ≤ o ∧ o < 0x4000 then mailRead s (o - 0x3000)
  else if 0x100000 ≤ o ∧ o < 0x500000 then doorRead s ((o - 0x100000) / 4096) (o % 4096)
  else 0

/-- What a host read returns is kept for the host. -/
def hostGets (s : State) (bs : List Byte) : State := { s with dev := { s.dev with hread := bs } }

/-- HOST_READ: of BAR0 (8 bytes wide and aligned, else zero), or of memory, served at the owning slice; poison is no value (R356, R405, R446). A host
access has no page-table entry, and so neither placement nor key: it reads an encrypted line as ciphertext, which no rule names (DESIGN CHOICE, log 114).
Choice: flag, whether of BAR0; v, the offset or physical address; n, the bytes. -/
def execHostRead (s : State) : Out :=
  .next (
    let q := s.choice
    if q.flag then hostGets s (if q.n = 8 ∧ q.v.toNat % 8 = 0 then leBytes 8 (barRead s q.v.toNat).toNat else zeros q.n)
    else if !awake s || !hostReaches q.v.toNat then s
    else
      let pa := pa50 q.v.toNat
      let s := { s with ms := sliceTouch s.ms pa q.n }
      hostGets s (if slicePoison s.ms pa q.n then [] else sliceRead s.ms pa q.n))

/-- HOST_WRITE: a posted write of memory, served at the owning slice in the order of its arrival (R356). Choice: v, the physical address; data. -/
def execHostWrite (s : State) : Out :=
  .next (
    let q := s.choice
    if awake s ∧ hostReaches q.v.toNat then { s with ms := sliceWrite s.ms (pa50 q.v.toNat) q.data } else s)

/-! ## BAR0 register writes (R446, R448, R462) -/

/-- The largest power of two from 16 to 4096 that does not exceed n. -/
def ringSize (n : Nat) : Nat := if n < 16 then 16 else if 4096 ≤ n then 4096 else 2 ^ Nat.log2 n

/-- A write of HCQTAIL (R448). -/
def setTail (h : Hcq) (v : W64) : Hcq :=
  if v.toNat < h.head.toNat ∨ h.head.toNat + h.size < v.toNat then { h with overrun := true }
  else if h.overrun then h else { h with tail := v }

/-- Firmware that failed verification leaves RECOVER and READST alone (R460, R462). -/
def mailServes (s : State) (opc : Nat) : Bool := s.dev.sec.fwOk || opc == 5 || opc == 8

/-- A command write: BUSY and TAG at once; an unknown OPC or a reserved bit ends ILLEGAL, what failed firmware does not serve CLOSED, and then a
subcommand that is none ILLEGAL (R462, R464). -/
def mailStart (s : State) (v : W64) : Mbox :=
  let m := s.dev.mbox
  if m.busy then { m with disc := true }
  else
    let opc := bits v 7 0
    let m := { m with cmd := v, disc := false }
    if bits v 15 8 != 0 || bits v 63 32 != 0 || opc == 0 || decide (8 < opc) then { m with status := 1 }
    else if !mailServes s opc then { m with status := 7 }
    else if opc == 6 && decide (3 < m.arg0.toNat) then { m with status := 1 }
    else { m with busy := true }

/-- A write into the mailbox window; while BUSY, one of another offset than CMD's is discarded, and DISC stands for those of CMD alone (R462; DEDUCED,
log 115). -/
def mailWrite (s : State) (o : Nat) (v : W64) : Mbox :=
  let m := s.dev.mbox
  if o = 0 then mailStart s v
  else if m.busy then m
  else if o = 0x100 then { m with resp := v }
  else if o = 0x108 then { m with arg0 := v }
  else if o = 0x110 then { m with arg1 := v }
  else if o = 0x118 then { m with arg2 := v }
  else if 0x120 ≤ o ∧ o < 0x140 then { m with nonce := splice (m.nonce ++ zeros (32 - m.nonce.length)) (o - 0x120) (leBytes 8 v.toNat) }
  else m

/-- BAR0_REGISTER_WRITE: 8 bytes wide and aligned, else ignored (R446, R448, R462); doorbells and HCQERR have rows of their own. Choice: n, the
offset; k, the width; v, the value. -/
def execBar0RegisterWrite (s : State) : Out :=
  .next (
    let o := s.choice.n
    let v := s.choice.v
    let d := s.dev
    let h := d.hcq
    if s.choice.k ≠ 8 ∨ o % 8 ≠ 0 then s
    else if o = 0x2000 then { s with dev := { d with hcq := if h.tail = h.head then { h with base := v &&& ~~~0xFFF } else h } }
    else if o = 0x2008 then { s with dev := { d with hcq := if h.tail = h.head then { h with size := ringSize v.toNat } else h } }
    else if o = 0x2010 then { s with dev := { d with hcq := setTail h v } }
    else if 0x3000 ≤ o ∧ o < 0x4000 then { s with dev := { d with mbox := mailWrite s (o - 0x3000) v } }
    else s)

/-- HCQERR_OVERRUN_CLEAR: writing 1 to OVERRUN clears it and sets HCQTAIL to HCQHEAD (R448). -/
def execHcqerrOverrunClear (s : State) : Out :=
  .next (let h := s.dev.hcq; if h.overrun then { s with dev := { s.dev with hcq := { h with overrun := false, tail := h.head } } } else s)

/-! ## The host command ring (R447, R448) -/

/-- The physical address of the slot that the ring serves next. -/
def hcqSlot (h : Hcq) : Nat := h.base.toNat + 64 * (h.head.toNat % h.size)

/-- The ring has a command to serve. -/
def hcqReady (s : State) : Bool := hostServed s && !s.dev.hcq.overrun && s.dev.hcq.head != s.dev.hcq.tail

/-- The command ends: results, then the status in byte 1 of its slot, then HCQHEAD. -/
def hcqEnd (s : State) (status : Nat) (results : List (Nat × List Byte)) : State :=
  let pa := hcqSlot s.dev.hcq
  let m := results.foldl (fun m (e : Nat × List Byte) => sliceWrite m (pa + e.1) e.2) s.ms
  let m := if isHost pa then sliceWrite m (pa + 1) (leBytes 1 status) else m
  { s with ms := m, dev := { s.dev with hcq := { s.dev.hcq with head := s.dev.hcq.head + 1 } } }

/-- The bytes of a command that its operands and results hold, by OPC (R447). -/
def hcqUses (opc : Nat) : List Nat :=
  match opc with
  | 1 => [0, 1, 4, 5, 6, 7, 8, 9, 10, 16, 17, 18, 19, 20, 21, 22, 23]
  | 2 => [0, 1, 4, 5, 6, 7]
  | 3 => [0, 1, 4, 5, 6, 7, 8, 9, 10, 16, 17, 18, 19, 20, 21, 22, 23, 24, 25, 26, 27]
  | _ => [0, 1, 4, 5, 6, 7, 24, 25, 26, 27]

/-- A command is ILLEGAL: unknown OPC, a nonzero reserved byte, or a reserved bit of CREATE_CONTEXT's masks. -/
def hcqBad (b : List Byte) : Bool :=
  let opc := field b 0 1
  opc == 0 || decide (4 < opc) || (List.range 64).any (fun i => !(hcqUses opc).contains i && field b i 1 != 0) ||
  (opc == 1 && (decide (15 < field b 9 1) || decide (1 < field b 10 1)))

/-- A command whose slot can be neither read nor written is over with HCQHEAD alone (R448). -/
def hcqSkip (s : State) : State := { s with dev := { s.dev with hcq := { s.dev.hcq with head := s.dev.hcq.head + 1 } } }

/-- Serve the ring's next command where it is the row's: a slot that the host does not let be read, or that is ILLEGAL, ends so at any row, with its
status where that write succeeds (R447, R448). Choice: flag, the slot read is not completed; k, then, its status write fails too. -/
def hcqServe (s : State) (opc : Nat) (f : State → List Byte → State) : State :=
  if !hcqReady s then s
  else
    let pa := hcqSlot s.dev.hcq
    let b := sliceRead s.ms pa 64
    if s.choice.flag && s.choice.k != 0 then hcqSkip s
    else if s.choice.flag || !isHost pa || hcqBad b then hcqEnd s 1 []
    else if field b 0 1 = opc then f s b else s

/-! ## CREATE_CONTEXT and DESTROY_CONTEXT (R153, R447) -/

/-- The existing contexts with their numbers. -/
def ctxList (s : State) : List (Nat × Ctxt) := s.ctxs.filterMap (fun (e : Nat × Option Ctxt) => e.2.map (fun x => (e.1, x)))

/-- The units of each slice of die d that shares occupy. -/
def dieShare (s : State) (d : Nat) : Nat := (((ctxList s).filter (fun e => e.2.dies.getLsbD d)).map (fun e => e.2.share)).sum

/-- Every die of a mask has units left for a share. -/
def shareFits (s : State) (share : Nat) (dies : BitVec 4) : Bool :=
  (List.range 4).all (fun d => !dies.getLsbD d || decide (dieShare s d + share ≤ 10))

/-- The number that a new context takes: the choice's k where it is free, else the lowest free one. -/
def freeCtx (s : State) : Option Nat :=
  if s.choice.k < 1024 ∧ (ctxAt s s.choice.k).isNone then some s.choice.k else (List.range 1024).find? (fun n => (ctxAt s n).isNone)

/-- CREATE_CONTEXT: the context takes keys of its own (R136, R153, R447). Choice: k, the number; flag, a slot read that the host does not complete. -/
def execCreateContext (s : State) : Out :=
  .next (hcqServe s 1 (fun s b =>
    let share := field b 8 1
    let dies := BitVec.ofNat 4 (field b 9 1)
    match freeCtx s with
    | none => hcqEnd s 7 []
    | some n =>
        if 10 < share ∨ !shareFits s share dies then hcqEnd s 7 []
        else
          let (q, s) := fresh s
          let x : Ctxt := { share := share, dies := dies, key := q + 1, dbgp := field b 10 1 == 1, ptroot := field64 b 16 8 &&& 0x7FFFFFFFF0000 }
          hcqEnd { s with ctxs := tblSet none s.ctxs n (some x) } 0 [(4, leBytes 4 n)]))

/-- Something of a context runs: an instance on an executor or held, or a launch with a node other than a command of an attention decode engine
still to end. -/
def ctxRuns (s : State) (n : Nat) : Bool :=
  s.cores.any (fun c => c.run.live && c.run.inst.ctx == n) || s.stopped.any (fun x => x.inst.ctx == n) ||
  s.handovers.any (fun h => (coreAt s h.src).run.inst.ctx == n) ||
  s.launches.any (fun (e : Nat × Option Launch) => match e.2 with
    | none => false
    | some l => l.ctx == n && l.nodes.any (fun (x : Node) => !x.done && !x.faulted && !(x.typ == 2 && x.running != 0)))

/-- No executor takes a later context of the same number for the one that it ran last (R224). -/
def forgetCtx (s : State) (n : Nat) : State :=
  { s with cores := s.cores.map (fun c => if c.run.lastCtx = some n then { c with run := { c.run with lastCtx := none } } else c) }

/-- The attention decode commands of a context that ends stop at their chunk boundary with status ABORTED (R145). -/
def stopAdes (s : State) (n : Nat) : State :=
  { s with ades := s.ades.map (fun (e : Nat × Option Ade) => (e.1, e.2.map (fun a => if a.ctx = n then { a with aborted := true } else a))) }

/-- The keys of a context are destroyed: none of its tensors is read under them again (R136). -/
def dropKeys (s : State) (n : Nat) : State :=
  { s with tht := s.tht.map (fun (e : Nat × Option Tht) => (e.1, e.2.map (fun t => if t.ctx = n then { t with key := 0 } else t))) }

/-- DESTROY_CONTEXT: its keys go with it (R136, R447). -/
def execDestroyContext (s : State) : Out :=
  .next (hcqServe s 2 (fun s b =>
    let n := field b 4 4
    if (ctxAt s n).isNone ∨ ctxRuns s n then hcqEnd s 7 []
    else hcqEnd (dropKeys (forgetCtx (stopAdes { s with ctxs := tblSet none s.ctxs n none } n) n) n) 0 []))

/-! ## REGISTER and DEREGISTER (R107, R383, R447, R469) -/

/-- A core's slots, streams or commands name a handle. -/
def coreNames (c : Core) (h : Nat) : Bool :=
  let names (b : List Byte) : Bool := (tHandle b).toNat == h
  c.cp.slots.any (fun (e : Nat × List Byte) => names e.2) || c.cp.strms.any (fun (e : Nat × Option Strm) => match e.2 with | some x => names x.slot | none => false) ||
  [0, 1, 2, 3].any (fun (i : Fin 4) => (c.cp.ch.get i).any (fun x => names x.td || names x.ts || names x.ti ||
    (match x.kind with | .move k _ _ _ => k.toNat == h | _ => false))) ||
  (match c.mx.red with | some r => names r.a || names r.b || names r.m | none => false)

/-- The bytes of an ADE command name a handle as its keys or values (R137). -/
def cmdNames (b : List Byte) (h : Nat) : Bool := field b 8 4 == h || field b 12 4 == h

/-- A node of a launch names a handle: in an operand, or in the ADE command that it is still to run (R137, R383). -/
def nodeNames (s : State) (ctx h : Nat) (n : Node) : Bool :=
  n.opnds.any (fun (o : W32 × Nat × Nat) => o.1.toNat == h) ||
  (n.typ == 2 && !n.done && !n.faulted && cmdNames ((ctxRead s ctx n.argb 128).1.getD []) h)

/-- A launch, one whose descriptor still waits in a doorbell's queue among them, a slot or a queued move still names a handle (R383). -/
def handleNamed (s : State) (h : Nat) : Bool :=
  (tblGet none s.tht h).isSome || s.cores.any (fun c => coreNames c h) || s.stopped.any (fun x => coreNames x.core h) ||
  s.launches.any (fun (e : Nat × Option Launch) => match e.2 with
    | none => false
    | some l => l.nodes.any (nodeNames s l.ctx h)) ||
  s.lqueue.any (fun e => (buildLaunch s e e.gen).1.nodes.any (nodeNames s e.ctx h)) ||
  s.ades.any (fun (e : Nat × Option Ade) => match e.2 with | none => false | some a => cmdNames a.cmd h)

/-- The lowest handle from n up that nothing names; fuel bounds the search. -/
def firstHandle (s : State) : Nat → Nat → Nat
  | 0, n => n
  | f + 1, n => if handleNamed s n then firstHandle s f (n + 1) else n

/-- The handle of a registration: the one that the turn names where nothing names it yet, else the lowest such (DESIGN CHOICE, log 20). -/
def newHandle (s : State) (h : Nat) : Nat :=
  if 0 < h ∧ h < 2 ^ 32 ∧ !handleNamed s h then h else firstHandle s (2 ^ 32) 1

/-- Zero a page under an encryption tag and drop what any cache holds of it. -/
def zeroPage (tag : Nat) (s : State) (p : Nat) : State :=
  let m := memWrite (dropPageL2 s.ms p) (p * 65536) (zeros 65536)
  let m := { m with enc := tblSetRange 0 m.enc (p * 1024) (List.replicate 1024 tag) }
  let m := (List.range 2048).foldl (fun m i => setMemPoison m (p * 65536 + 32 * i) false) m
  dropPageL1 { s with ms := dropSide m p } p

/-- The registration is one that R383 and R135 allow, its pages apart. -/
def regOk (s : State) (size tier enc stack : Nat) : Bool :=
  decide (1 ≤ size) && decide (size ≤ 2 ^ 42) && decide (tier ≤ 3) && tierPresent s tier && decide (enc ≤ 2) && (decide (stack ≤ 11) || stack == 0xFF) &&
  (enc != 2 || stack != 0xFF)

/-- REGISTER: the pages are zeroed and the entry published before the handle is returned (R383). Choice: m, the handle; list, the pages. -/
def execRegister (s : State) : Out :=
  .next (hcqServe s 3 (fun s b =>
    let ctx := field b 4 4
    let size := field b 16 8
    let tier := field b 8 1
    let enc := field b 9 1
    let stack : Option Nat := if field b 10 1 = 0xFF then none else some (field b 10 1)
    let n := (size + 65535) / 65536
    let h := newHandle s s.choice.m
    if (ctxAt s ctx).isNone ∨ !regOk s size tier enc (field b 10 1) then hcqEnd s 7 []
    else
      match reserved s ctx n tier enc stack s.choice.list with
      | none => hcqEnd s 7 []
      | some ps =>
      let s := budNext s ctx ps tier
      let k := keyOf s ctx
      let s := ps.foldl (fun s p => zeroPage (encTag k enc (p * 65536)) s p) s
      let t : Tht := { ctx := ctx, size := size, npages := n, old := tier, new := tier, oldp := ps, enc := enc, stack := stack, key := k }
      hcqEnd (setTht s (BitVec.ofNat 32 h) t) 0 [(24, leBytes 4 h)]))

/-- A handle is deregistered: a queued move is dropped, and a move in progress finishes its page first (R107). -/
def deregister (s : State) (h : Nat) (t : Tht) : State :=
  if t.flight then { s with tht := tblSet none s.tht h (some { t with dead := true }) } else endDead s h t

/-- DEREGISTER (R107, R447). -/
def execDeregister (s : State) : Out :=
  .next (hcqServe s 4 (fun s b =>
    let h := field b 24 4
    match ownTht s (field b 4 4) (BitVec.ofNat 32 h) with
    | none => hcqEnd s 7 []
    | some t => hcqEnd (deregister s h t) 0 []))

end Sys2Proof.Machine
end

