-- ==== Sys2Proof/Machine/Picture.lean ====
section
/-! DEFINITION. The context image as the debug port reads it (spec/18_faults.md R403, spec/06_handover.md R121, spec/25_system.md R464): the
bytes that the spec lays out; those it leaves without a layout are open (DESIGN CHOICE, log 44). -/

namespace Sys2Proof.Machine

/-- n bytes whose layout the spec does not give. -/
def openBytes (seed n : Nat) : List Byte := (List.range n).map (fun i => (Config.freeValue (seed + i)).setWidth 8)

/-- The state block (R403): its CSRs, what has no layout, and the directory, every region of the debug port's picture being written. -/
def stateBlock (s : State) (ex : Nat) : List Byte :=
  let c := coreAt s ex
  let status := if h : ex < 288 then csrRead { s with ex := ⟨ex, h⟩ } 0x000 else 0
  leBytes 8 c.csr.cause.toNat ++ leBytes 8 c.csr.epc.toNat ++ leBytes 8 c.csr.tseg.toNat ++ leBytes 8 c.csr.tpos.toNat ++ leBytes 8 c.csr.tval.toNat ++
  leBytes 8 c.csr.tctl.toNat ++ c.csr.sscr.toList.flatMap (fun x => leBytes 8 x.toNat) ++ leBytes 8 status.toNat ++ leBytes 8 c.csr.estat.toNat ++
  leBytes 8 c.csr2.ratlate.toNat ++ openBytes (s.nextId + 0x32068) 0xE98 ++ leBytes 103 (2 ^ 818 - 1) ++ zeros 153

/-- An IRB entry (R400). -/
def irbBytes (c : Core) (r : Irb) : List Byte :=
  let dest := match r.dest with | .reg n => n | .mask m => 32768 + m
  leBytes 2 dest ++ leBytes 1 (max 1 (r.due + 1 - c.vec.slot)) ++ leBytes 1 1 ++ leBytes 4 r.order ++ leBytes 8 r.lanes.toNat ++ zeros 16 ++
  (match r.dest with | .reg _ => r.value.toList.flatMap (fun x => leBytes 4 x.toNat) | .mask _ => leBytes 8 r.mask.toNat ++ zeros 248)

/-- The 48 IRB entries: every result in flight. -/
def irbRegion (c : Core) : List Byte := (((inFlightResults c.vec).flatMap (irbBytes c)) ++ zeros (48 * 288)).take (48 * 288)

/-- The deferral queue (R403). -/
def dqRegion (c : Core) : List Byte :=
  ((c.vec.dq.flatMap (fun (e : List W32) => (List.range 4).flatMap (fun k => leBytes 4 (listGet 0 e k).toNat))) ++ zeros 0x2000).take 0x2000

/-- An accumulator bank: 128 rows of 128 elements. -/
def bankBytes (b : Bank) : List Byte :=
  (List.range 128).flatMap (fun i => (List.range 128).flatMap (fun j => leBytes 4 (listGet 0 (listGet [] b.acc i) j).toNat))

/-- The rows of a RAT: the route row, then state without a layout. -/
def ratRegion (s : State) (c : Core) (n : Nat) : List Byte :=
  let t := tblGet {} c.rats n
  (List.range 128).flatMap (fun i =>
    ((listGet {} t.rows i).rr ++ zeros 64).take 64 ++ openBytes (s.nextId + 0x5C000 + 10240 * n + 80 * i + 64) 16)

/-- The scratchpad tags: bit (k mod 8) of byte k div 8. -/
def tagRegion (c : Core) : List Byte :=
  (List.range 32768).map (fun j => BitVec.ofNat 8 ((List.range 8).foldl (fun w i => w + (if tblGet false c.spad.tag (8 * j + i) then 2 ^ i else 0)) 0))

/-- The scratchpad bytes that the kernel uses (R84). -/
def spadRegion (s : State) (c : Core) : List Byte :=
  let ker := listGet [] ((tblGet none s.images c.run.inst.image.toNat).getD {}).kernels c.run.inst.kidx
  ((List.range ((field ker 44 4 + 7) / 8)).flatMap (fun w => leBytes 8 (tblGet 0 c.spad.w w).toNat)).take (field ker 44 4)

/-- The image of executor ex with every region written (R403). -/
def pictureOf (s : State) (ex : Nat) : List Byte :=
  let c := coreAt s ex
  ksrFixed s ex {} ++ (List.range 768).flatMap (fun n => (vreg c.vec n).toList.flatMap (fun x => leBytes 4 x.toNat)) ++ stateBlock s ex ++ irbRegion c ++
  openBytes (s.nextId + 0x36600) 0xC00 ++ dqRegion c ++
  c.sync.kq.toList.flatMap (fun q => (q.flatMap (fun (x : Option W32) => leBytes 4 ((x.getD 0).toNat)) ++ zeros 64).take 64) ++
  openBytes (s.nextId + 0x39400) 0x2C00 ++ bankBytes c.mx.bank0 ++ bankBytes c.mx.bank1 ++ (List.range 16).flatMap (ratRegion s c) ++
  tagRegion c ++ spadRegion s c

/-- What the debug port's READ writes (R464): the image, then the 320 cells. -/
def debugPicture (s : State) (ex : Nat) : List Byte := pictureOf s ex ++ cellBytes (coreAt s ex) 320 0

end Sys2Proof.Machine
end

