-- ==== Sys2Proof/Machine/Manage.lean ====
section
/-! DEFINITION. The management controller (spec/25_system.md R456 to R465, spec/24_debug.md R435): the mailbox commands, suspend and resume,
attestation, life cycle, firmware, the debug port, reset. -/

namespace Sys2Proof.Machine

/-! ## The mailbox (R462) -/

/-- The mailbox runs a command of this OPC. -/
def mailRuns (s : State) (opc : Nat) : Bool := s.dev.mbox.busy && bits s.dev.mbox.cmd 7 0 == opc

/-- The mailbox command ends with a status. -/
def mailEnd (s : State) (status : Nat) : State := { s with dev := { s.dev with mbox := { s.dev.mbox with busy := false, status := status } } }

/-- The mailbox command ends with a status and short results in DATA. -/
def mailData (s : State) (status : Nat) (bs : List Byte) : State := { s with dev := { s.dev with mbox := { s.dev.mbox with busy := false, status := status, data := bs } } }

/-- Run a mailbox command of an OPC; nothing where the mailbox does not run it. -/
def mailRun (s : State) (opc : Nat) (f : State → State) : State := if mailRuns s opc then f s else s

/-- RESP names a place for long results: in the host range, 64-byte aligned, not 0. -/
def respOk (s : State) : Bool := let r := s.dev.mbox.resp; r != 0 && r.toNat % 64 == 0 && isHost r.toNat

/-- Write long results at RESP. -/
def respWrite (s : State) (bs : List Byte) : State := { s with ms := sliceWrite s.ms s.dev.mbox.resp.toNat bs }

/-! ## Suspend (R456 to R459) -/

/-- A suspend message: kind 1 SUSPEND with S, 2 the acknowledgement at entry (DESIGN CHOICE, log 43). -/
def susPayload (kind : Nat) (t : W64) : List Byte := leBytes 1 kind ++ leBytes 8 t.toNat

/-- What tells a message that has been forwarded. -/
def flitKey (f : Flit) : Nat × List Byte := (f.cls.toNat, leBytes 2 f.src.toNat ++ leBytes 2 f.dst.toNat ++ f.payload)

/-- Forward a message once, on every up port but one that carries it (R450, R458). -/
def forwardOnce (s : State) (port : Nat) (f : Flit) : State :=
  if s.dev.fwd.contains (flitKey f) then s
  else
    let s := { s with dev := { s.dev with fwd := s.dev.fwd ++ [flitKey f] } }
    sendOut s ((upPorts s).filter (fun p => p != port)) f

/-- A core at suspend entry: a precise stop ends with a STOP record of REASON 7; its collectives wait for their step boundaries (R443, R456). -/
def susCore (ex : Nat) (c : Core) : Core :=
  if !c.run.live then c
  else
    let c := if c.run.dstop then slogStop ex { c with run := { c.run with dstop := false } } .control 7 0 else c
    { c with run := { c.run with dreq := false, quiesce := true } }

/-- Request the pre-emption of every running instance. -/
def stopAll (s : State) : State := ((List.range 288).filter (fun ex => occupied (coreAt s ex))).foldl (fun s ex => askStop s ex none) s

/-- Suspend entry begins: serving stops and every context is pre-empted (R456, steps 1 to 3). -/
def beginEntry (s : State) : State :=
  let s := { s with dev := { s.dev with sus := { s.dev.sus with st := .entering s.gtc } } }
  stopAll ((List.range 288).foldl (fun s ex => onCore s ex (susCore ex)) s)

/-- A routing message that is held until an instance that has left its executor is resident again (R286, R470, R475). -/
def heldMsg (s : State) (m : Msg) : Bool :=
  match m.kind with
  | .place n _ _ _ _ _ => if h : m.dst < 288 then heldAway { s with ex := ⟨m.dst, h⟩ } m n else false
  | _ => heldBack s m

/-- Every context has left its executor, or stands in a hand-over whose record is written; no page is in flight; every request has been
served; of the routing messages, those alone are on their way that a held RAT or ring keeps. -/
def entryDone (s : State) : Bool :=
  s.cores.all (fun c => (!c.run.live && (c.run.st == .idle || c.run.st == .handover)) && c.reqs.isEmpty && c.wc.isEmpty) &&
  s.tht.all (fun (e : Nat × Option Tht) => match e.2 with | some t => !t.flight | none => true) && s.msgs.all (heldMsg s)

/-- A core without power: caches, TLB and instruction memories are empty. -/
def darkCore (c : Core) : Core := { c with l1 := [], tlb := [], run := { c.run with res := none } }

/-- Entry completes: dirty lines are in HBM4, the acknowledgement of a cluster suspend is sent, and the compute dies are off, the Chrour ports with them; an
order by mailbox ends OK, and a resume ordered meanwhile begins (R456 to R459). -/
def finishEntry (s : State) : State :=
  let keys := s.ms.l2.map (fun (e : Nat × Option Line) => e.1)
  let m := { evictAll keys s.ms with dieTlb := [] }
  let u := s.dev.sus
  let s := { s with ms := m, cores := s.cores.map darkCore
                    dev := { s.dev with sus := { u with st := if u.resume then .resuming else .suspended, resume := false, order := false, at_ := s.gtc } } }
  let s := if u.cluster then sendOut s (upPorts s) { src := s.dev.sysdev, dst := 0xFFFF, cls := 2, payload := susPayload 2 s.gtc } else s
  let s := { s with dev := { s.dev with ports := Vector.replicate 18 {} } }
  if u.order then mailEnd s 0 else s

/-- SUSPEND: an order through the mailbox; a cluster suspend tells every device (R456, R458, R459, R462). A device that a trip has switched off has nothing
to suspend, and the order ends CLOSED (DESIGN CHOICE, log 116). -/
def execSuspend (s : State) : Out :=
  .next (mailRun s 1 (fun s =>
    if s.dev.power.off then mailEnd s 7
    else
    match s.dev.sus.st with
    | .none =>
        let t := s.dev.mbox.arg0
        let cl := s.dev.mbox.arg1.getLsbD 0
        let s := { s with dev := { s.dev with sus := { st := .ordered t cl, order := true, cluster := cl } } }
        if cl then
          let f : Flit := { src := s.dev.sysdev, dst := 0xFFFF, cls := 2, payload := susPayload 1 t }
          sendOut { s with dev := { s.dev with fwd := s.dev.fwd ++ [flitKey f] } } (upPorts s) f
        else s
    | .ordered _ _ => if s.dev.sus.order then s else mailEnd s 7
    | .entering _ => if s.dev.sus.order then s else mailEnd s 7
    | _ => mailEnd s 7))

/-- After a resume, the Graph Unit has redispatched the pre-empted instances: none is left that an executor could take (R457). -/
def restored (s : State) : Bool := ((stoppedCands s).filter (inTurn s)).all (fun c => (targetFor s c).isNone)

/-- The host ring and the doorbells are served again, last; the mailbox's order ends OK (R457, R462). -/
def finishRestore (s : State) : State :=
  let s := { s with dev := { s.dev with sus := {} } }
  if mailRuns s 2 then mailEnd s 0 else s

/-- SUSPEND_START: the device begins entry at tick S; once it has begun, what still runs is stopped, and the entry completes when everything
stands; a resume is over once the pre-empted instances are redispatched (R456 to R458). -/
def execSuspendStart (s : State) : Out :=
  .next (
    match s.dev.sus.st with
    | .ordered t _ => if t.toNat ≤ s.gtc.toNat then beginEntry s else s
    | .entering _ => if entryDone s then finishEntry s else stopAll s
    | .restoring => if restored s then finishRestore s else s
    | _ => s)

/-- SUSPEND{S} arrives: it is forwarded once; before S the device begins at S, after S at once; a second order is ignored (R458, R459). -/
def suspendArrives (s : State) (port : Nat) (t : W64) : State :=
  let s := forwardOnce s port { src := s.dev.sysdev, dst := 0xFFFF, cls := 2, payload := susPayload 1 t }
  match s.dev.sus.st with
  | .none =>
      let s := { s with dev := { s.dev with sus := { st := .ordered t true, cluster := true } } }
      if s.gtc.toNat < t.toNat then s else beginEntry s
  | _ => s

/-- SUSPEND_MESSAGE (R458). Choice: n, the port; v, the tick S. -/
def execSuspendMessage (s : State) : Out := .next (suspendArrives s s.choice.n s.choice.v)

/-! ## Resume (R457) -/

/-- A gang that is arming counts no tick of the suspension (R459). -/
def shiftGang (n : Nat) (l : Launch) : Launch :=
  { l with gang := l.gang.map (fun g => if g.state = 1 then { g with armedAt := g.armedAt + BitVec.ofNat 64 n } else g) }

/-- Every port has trained, or failed and is marked down. -/
def portsTrained (s : State) : Bool := s.dev.ports.toList.all (fun p => p.up || p.down)

/-- Moves go on from F, collectives run again, and dispatch goes on; a later cluster suspend is forwarded anew; the host is served last (R107, R457,
R458). -/
def finishResume (s : State) : State :=
  let n := (s.gtc - s.dev.sus.at_).toNat
  let s := { s with
    launches := s.launches.map (fun (e : Nat × Option Launch) => (e.1, e.2.map (shiftGang n)))
    tht := s.tht.map (fun (e : Nat × Option Tht) => (e.1, e.2.map (fun (t : Tht) => match t.claim with | .tce _ _ => { t with flight := true } | _ => t)))
    stopped := s.stopped.map (fun (x : Stopped) => { x with core := { x.core with run := { x.core.run with quiesce := false } } })
    dev := { s.dev with sus := { st := .restoring }, fwd := s.dev.fwd.filter (fun e => e.1 != 2) } }
  s

/-- RESUME: an order through the mailbox; the rails rise, the ports train, the time synchronisation follows, the pre-empted instances are redispatched, and
the host is served last; during entry it waits for the entry (R451, R457, R459, R462). -/
def execResume (s : State) : Out :=
  .next (mailRun s 2 (fun s =>
    let u := s.dev.sus
    match u.st with
    | .suspended => { s with dev := { s.dev with sus := { u with st := .resuming } } }
    | .entering _ => { s with dev := { s.dev with sus := { u with resume := true } } }
    | .resuming => s
    | .restoring => s
    | _ => mailEnd s 7))

/-- TIME_SYNC: the Global Time Counter takes the synchronised value; on a device that resumes, once its ports have trained, and its contexts then come back
(R451, R457). Choice: v. -/
def execTimeSync (s : State) : Out :=
  .next (
    match s.dev.sus.st with
    | .resuming => if portsTrained s then finishResume { s with gtc := s.choice.v } else s
    | _ => { s with gtc := s.choice.v })

/-! ## Attestation, life cycle and firmware (R460 to R465) -/

/-- A retired unit in a report (R463). -/
def unitBytes (u : Unit') : List Byte :=
  match u with
  | .core n => leBytes 4 n
  | .slice n => leBytes 4 (2 ^ 24 + n)
  | .channel st ch => leBytes 4 (2 * 2 ^ 24 + st * 256 + ch)

/-- The report before its signature (R463). -/
def reportBody (s : State) : List Byte :=
  let pad (l : List Byte) (n : Nat) : List Byte := (l ++ zeros n).take n
  leBytes 4 1 ++ leBytes 1 s.dev.sec.lcs.toNat ++ zeros 1 ++ leBytes 2 s.dev.retired.length ++ leBytes 8 s.gtc.toNat ++ leBytes 8 Config.devUid.toNat ++
  zeros 8 ++ pad s.dev.mbox.nonce 32 ++ s.dev.sec.meas.flatMap (fun m => pad m 32) ++ pad Config.identityKey 1312 ++ s.dev.retired.flatMap unitBytes

/-- ATTEST: the report at RESP, signed with the device identity key; a device that holds none can sign nothing, and ends it CLOSED (R461, R463, R465; DESIGN
CHOICE, log 110). -/
def execAttest (s : State) : Out :=
  .next (mailRun s 3 (fun s =>
    if !respOk s then mailEnd s 1
    else if s.dev.sec.idKey != .held then mailEnd s 7
    else
      let b := reportBody s
      mailEnd (respWrite s (b ++ (Config.identitySign b ++ zeros 2420).take 2420)) 0))

/-- The state that follows a life-cycle state (R465). -/
def nextLcs (l : BitVec 3) : Option (BitVec 3) := if l.toNat < 4 then some (l + 1) else none

/-- A token's bytes are those of a transition of this device (R462, R465). -/
def tokenOk (s : State) (b : List Byte) : Bool :=
  Config.tokenSigOk b && field64 b 8 8 == Config.devUid && allZero ((b.drop 1).take 7) && allZero ((b.drop 16).take 48) &&
  nextLcs s.dev.sec.lcs == some (BitVec.ofNat 3 (field b 0 1)) && decide (field b 0 1 < 8)

/-- LCTOKEN (R462, R465). -/
def execLctoken (s : State) : Out :=
  .next (mailRun s 4 (fun s =>
    let a := s.dev.mbox.arg0.toNat
    let b := sliceRead s.ms a 2484
    if isHost a && tokenOk s b then
      mailEnd { s with dev := { s.dev with sec := { s.dev.sec with token := some (BitVec.ofNat 3 (field b 0 1)) } } } 0
    else mailEnd s 7))

/-- RECOVER (R460, R462). -/
def execRecover (s : State) : Out :=
  .next (mailRun s 5 (fun s =>
    let a := s.dev.mbox.arg0.toNat
    let b := sliceRead s.ms a s.dev.mbox.arg1.toNat
    if isHost a && Config.firmwareSigOk b then mailEnd { s with dev := { s.dev with sec := { s.dev.sec with staged := some b } } } 0
    else mailEnd s 7))

/-- SETDEV of ARG0[15:0] (R450, R462). A port then carries other than time traffic where both ends hold distinct numbers. -/
def execSetdev (s : State) : Out :=
  .next (mailRun s 7 (fun s =>
    let d : BitVec 16 := s.dev.mbox.arg0.setWidth 16
    if s.ctxs.any (fun (e : Nat × Option Ctxt) => e.2.isSome) || d == 0xFFFF then mailEnd s 7
    else
      mailEnd { s with dev := { s.dev with sysdev := d, ports := s.dev.ports.map (fun (p : Port) => { p with timeOnly := p.peer == d || p.peer == 0xFFFF }) } } 0))

/-- READST: MGMTST, THSTAT and RAILOP in DATA (R462). -/
def execReadst (s : State) : Out :=
  .next (mailRun s 8 (fun s => mailData s 0 (leBytes 8 (csrRead s 0x604).toNat ++ leBytes 8 (csrRead s 0x602).toNat ++ leBytes 8 (csrRead s 0x600).toNat)))

/-! ## The debug port (R435, R464) -/

/-- The life cycle opens a context to the debug port (R435, R465). -/
def portOpen (s : State) (ctx : Nat) : Bool :=
  match ctxAt s ctx with
  | none => false
  | some x => if s.dev.sec.lcs = 4 then false else if s.dev.sec.lcs = 2 then x.dbgp else true

/-- The executors that an ARG2 names (R464). -/
def debugSet (arg2 : Nat) : List Nat :=
  if arg2 = 0xFFFF then List.range 288 else if arg2 < 256 then [arg2] else if arg2 < 0x120 then [arg2] else []

/-- Those of them that run the context of ARG1. -/
def debugRuns (s : State) : List Nat :=
  (debugSet s.dev.mbox.arg2.toNat).filter (fun ex => (coreAt s ex).run.live && (coreAt s ex).run.inst.ctx == s.dev.mbox.arg1.toNat)

/-- A debug command of a subcommand: CLOSED for a context that is not open to the port. -/
def debugRun (s : State) (sub : Nat) (f : State → State) : State :=
  mailRun s 6 (fun s =>
    if s.dev.mbox.arg0.toNat ≠ sub then s
    else if portOpen s s.dev.mbox.arg1.toNat then f s else mailEnd s 7)

/-- DEBUG_STOP: precise stops are requested, and the command ends OK once each has taken effect (R435, R464). -/
def execDebugStop (s : State) : Out :=
  .next (debugRun s 0 (fun s =>
    let l := debugRuns s
    if l.isEmpty then mailEnd s 7
    else if l.all (fun ex => (coreAt s ex).run.dstop) then mailEnd s 0
    else l.foldl (fun s ex => onCore s ex (fun c => { c with run := { c.run with dreq := !c.run.dstop } })) s))

/-- A core goes on from a precise stop (R435, R436). -/
def goOn (ex : Nat) (c : Core) : Core := slogStop ex { c with run := { c.run with dstop := false } } .control 7 0

/-- DEBUG_RESUME: the context goes on on every executor where it stands at a precise stop (R435, R464). -/
def execDebugResume (s : State) : Out :=
  .next (debugRun s 1 (fun s =>
    let l := (List.range 288).filter (fun ex => (coreAt s ex).run.dstop && (coreAt s ex).run.live && (coreAt s ex).run.inst.ctx == s.dev.mbox.arg1.toNat)
    if l.isEmpty then mailEnd s 7 else mailEnd (l.foldl (fun s ex => onCore s ex (goOn ex)) s) 0))

/-- DEBUG_READ: the stopped state of an executor at RESP (R464). -/
def execDebugRead (s : State) : Out :=
  .next (debugRun s 2 (fun s =>
    match debugRuns s with
    | [ex] =>
        if !(coreAt s ex).run.dstop then mailEnd s 7
        else if !respOk s then mailEnd s 1
        else
          let b := debugPicture s ex
          mailEnd (respWrite { s with nextId := s.nextId + b.length } b) 0
    | _ => mailEnd s 7))

/-- The context whose records an executor's trace buffer holds: the one that runs there, else the one that ran last (R438). -/
def traceOwner (c : Core) : Option Nat := if c.run.live then some c.run.inst.ctx else c.run.lastCtx

/-- DEBUG_TRACE: the trace buffer of an executor at RESP, oldest record first, while the instance runs and after it; CLOSED where it holds another context's
records (R435, R438, R464). -/
def execDebugTrace (s : State) : Out :=
  .next (debugRun s 3 (fun s =>
    match (debugSet s.dev.mbox.arg2.toNat).filter (fun ex => traceOwner (coreAt s ex) == some s.dev.mbox.arg1.toNat) with
    | [ex] =>
        if !respOk s then mailEnd s 1
        else mailEnd (respWrite s (((coreAt s ex).dbg.tb.flatten ++ zeros 65536).take 65536)) 0
    | _ => mailEnd s 7))

/-! ## Reset (R11, R407, R460, R465) -/

/-- Memory that a reset does not zero: flash while its media keys live, and host memory. -/
def keepsAt (media : Bool) (pa : Nat) : Bool :=
  match paRange pa with
  | .root => media
  | .host => true
  | _ => false

/-- The memory after a reset. -/
def resetMem (m : MemSys) (media : Bool) (gone : List Nat) : MemSys :=
  { mem := tblFilter (fun k _ => keepsAt media k) m.mem, poison := tblFilter (fun k _ => keepsAt media (32 * k)) m.poison
    side := tblFilter (fun k _ => keepsAt media (128 * k)) m.side, gone := gone }

/-- Extend a measurement register by an item (R460). -/
def measExtend (m item : List Byte) : List Byte := Config.sha3 (m ++ Config.sha3 item)

/-- MEAS0 to MEAS7 after the boot has measured the firmware and the fuses. -/
def bootMeas (fw : List Byte) : List (List Byte) :=
  measExtend (zeros 32) fw :: ((List.range 3).map (fun i => measExtend (zeros 32) (Config.bootItem (i + 1))) ++ List.replicate 4 (zeros 32))

/-- The device identity key in a life-cycle state: generated in PROVISIONED, destroyed in RMA and DECOMMISSIONED (R461, R465). -/
def keyIn (l : BitVec 3) : IdKey := if l = 1 ∨ l = 2 then .held else if l = 0 then .none else .destroyed

/-- Every firmware image verifies: the controller's, the Graph Unit's and, on a part with a Root tier, the root controllers' (R460). -/
def imagesOk (fw : List Byte) (root : Bool) : Bool :=
  Config.firmwareSigOk fw && Config.firmwareSigOk (Config.bootItem 1) && (!root || Config.firmwareSigOk (Config.bootItem 2))

/-- The security state after a reset: an accepted transition takes effect, and firmware runs where every image verifies (R460, R465). -/
def resetSec (x : Sec) (off root : Bool) : Sec :=
  let l := x.token.getD x.lcs
  let fw := x.staged.getD (Config.bootItem 0)
  { lcs := l, idKey := keyIn l, mediaKeys := x.mediaKeys && l != 3 && l != 4, fwOk := imagesOk fw root, meas := bootMeas fw, tripped := off }

/-- The host submits supervisor image i of four: it extends MEAS4 + i (R460; DESIGN CHOICE, log 109). -/
def submitImage (s : State) (i : Nat) (image : List Byte) : State :=
  if i < 4 then
    let sec := s.dev.sec
    { s with dev := { s.dev with sec := { sec with meas := listSet sec.meas (4 + i) (measExtend (listGet [] sec.meas (4 + i)) image) } } }
  else s

/-- The spares that take absent core numbers at a reset: the numbers still absent and the spares left (R11). -/
def bindSpares : List Nat → Vector Nat 4 → List Nat × Vector Nat 4
  | [], sp => ([], sp)
  | n :: r, sp =>
      let d : Fin 4 := Fin.ofNat 4 (n / 64)
      if 0 < sp.get d then bindSpares r (sp.set d (sp.get d - 1))
      else let (l, sp) := bindSpares r sp; (n :: l, sp)

/-- The slices of a list of units. -/
def goneSlices (l : List Unit') : List Nat := l.filterMap (fun u => match u with | .slice n => some n | _ => none)

/-- RESET: memories zeroed, an accepted transition applied, firmware verified and measured, retirements in effect, REPLACE_REQUEST set where a
slice or channel retires or no spare is left for a retired core, everything else as State.reset has it (R11, R407, R408, R460, R465). -/
def execReset (s : State) : Out :=
  .next (
    let d := s.dev
    let sec := resetSec d.sec d.power.off d.rootTier
    let ret := d.retired ++ d.pendingRetire
    let sp := bindSpares d.absent d.spares
    { State.reset with
      agenda := s.agenda, rr := s.rr, nextId := s.nextId, choice := s.choice, ex := s.ex
      ms := resetMem s.ms sec.mediaKeys (goneSlices ret)
      dev := { State.reset.dev with partM := d.partM, rootTier := d.rootTier, sec := { sec with replaceReq := !d.pendingRetire.isEmpty || sp.1.any (fun n => ret.contains (.core n)) },
                                    retired := ret, absent := sp.1, spares := sp.2 } })

end Sys2Proof.Machine
end

