-- ==== Sys2Proof/Machine/Links.lean ====
section
/-! DEFINITION. Chrour links (spec/25_system.md R449, R450): the training of a port and the arrival of a flit. -/

namespace Sys2Proof.Machine

/-- Change port n. -/
def onPort (s : State) (n : Nat) (f : Port → Port) : State :=
  if h : n < 18 then { s with dev := { s.dev with ports := s.dev.ports.set n (f (s.dev.ports.get ⟨n, h⟩)) h } } else s

/-- Port n; a port that is down where n is none of the 18. -/
def portAt (s : State) (n : Nat) : Port := if h : n < 18 then s.dev.ports.get ⟨n, h⟩ else {}

/-- PORT_TRAINING: a port trains and learns its peer's number, or fails and is marked down; it carries only time traffic until both ends hold
distinct assigned numbers (R449, R450). Choice: n, the port; flag, whether it trains; m, the peer's number. -/
def execPortTraining (s : State) : Out :=
  .next (
    let q := s.choice
    let peer : BitVec 16 := BitVec.ofNat 16 q.m
    onPort s q.n (fun _ =>
      if q.flag then { up := true, peer := peer, timeOnly := peer == s.dev.sysdev || peer == 0xFFFF || s.dev.sysdev == 0xFFFF } else { down := true }))

/-- The management controller records a discarded flit in its error log (R450, R451). -/
def logFlit (s : State) (f : Flit) : State := logErr s 2 (.flit f)

/-- The executor whose collective stands at a step. -/
def colEx (s : State) (gen step : Nat) : Option Nat := (List.range 288).find? (fun ex => (colCmd (coreAt s ex) gen step).isSome)

/-- The piece that a flit's bytes belong to, as far as it has come with them: its first bytes begin it anew, later ones follow what has come (R449;
DESIGN CHOICE, log 43). -/
def joinPiece (s : State) (p : List Byte) : Option Piece :=
  let off := field p 11 4
  let new : Piece := { gen := field p 1 4, step := field p 5 4, n := field p 9 2 }
  let old := if off = 0 then new else (s.dev.pieces.find? (fun x => x.gen == new.gen && x.step == new.step && x.n == new.n)).getD new
  if old.data.length = off then
    let d := p.drop 31
    some { old with data := old.data ++ d, marks := old.marks ++ maskMarks (field p 15 16) off d.length }
  else none

/-- Keep a piece that is still arriving, or forget it. -/
def keepPiece (s : State) (x : Piece) (keep : Bool) : State :=
  let l := s.dev.pieces.filter (fun y => !(y.gen == x.gen && y.step == x.step && y.n == x.n))
  { s with dev := { s.dev with pieces := if keep then l ++ [x] else l } }

/-- Bytes of a piece for the collective step of executor ex: the piece arrives with its last bytes. -/
def takeBytes (s : State) (ex : Nat) (p : List Byte) : State :=
  match joinPiece s p, colCmd (coreAt s ex) (field p 1 4) (field p 5 4) with
  | some x, some (_, _, _, d, _, _) =>
      if x.data.length < pieceLen d x.n then keepPiece s x true
      else asEx (keepPiece s x false) ex (fun s => colArrives s 1 x.gen x.step x.n x.marks x.data)
  | _, _ => s

/-- A collective flit: kind, generation, step, number, and of a piece the offset, the poison marks and the bytes (DESIGN CHOICE, log 43). -/
def takeCollective (s : State) (f : Flit) : State :=
  let p := f.payload
  match colEx s (field p 1 4) (field p 5 4) with
  | none => if field p 0 1 = 1 then s else keepEarly s (field p 0 1) (field p 1 4) (field p 5 4) (field p 9 2)
  | some ex =>
      if field p 0 1 = 1 then takeBytes s ex p
      else asEx s ex (fun s => colArrives s (field p 0 1) (field p 1 4) (field p 5 4) (field p 9 2) [] [])

/-- The place of the launch of a gang. -/
def gangPlace (s : State) (id : Nat) : Option Nat :=
  (s.launches.find? (fun (e : Nat × Option Launch) => match e.2 with
    | some l => (match l.gang with | some g => g.id.toNat == id | none => false)
    | none => false)).map (fun e => e.1)

/-- Run an event's meaning with other choices. -/
def withChoice (s : State) (c : Choice) (f : State → Out) : State :=
  match f { s with choice := c } with
  | .next t => { t with choice := s.choice }
  | _ => s

/-- A gang message for this device: an ARM is acknowledged, at once or when the device arms; an ABORT aborts; an acknowledgement counts (R386,
R387; DESIGN CHOICE, log 43). -/
def takeGang (s : State) (f : Flit) : State :=
  let kind := field f.payload 0 1
  let id := field f.payload 1 4
  if kind = 1 then
    match gangPlace s id with
    | some p => if (match (launchAt s p).gang with | some g => g.state != 0 | none => false) then gangAck s (BitVec.ofNat 32 id) f.src.toNat
                else { s with dev := { s.dev with arms := s.dev.arms ++ [(BitVec.ofNat 32 id, f.src.toNat)] } }
    | none => { s with dev := { s.dev with arms := s.dev.arms ++ [(BitVec.ofNat 32 id, f.src.toNat)] } }
  else
    match gangPlace s id with
    | none => s
    | some p =>
        if kind = 2 then withChoice s { n := p, m := field f.payload 5 2 } execGangAbortMessage
        else if kind = 3 then withChoice s { n := p, m := f.src.toNat } execGangAckArrival
        else s

/-- The message is one that every device forwards: a suspend message, a gang's ARM or ABORT (R450). -/
def forwarded (f : Flit) : Bool := f.cls == 2 || (f.cls == 1 && (field f.payload 0 1 == 1 || field f.payload 0 1 == 2))

/-- A flit delivered by a port (R449, R450): suspend messages and a gang's ARM and ABORT are forwarded once; any other flit for a number that the device
does not hold is discarded and recorded, as is a collective flit from a device that is not linked directly. -/
def deliver (s : State) (port : Nat) (f : Flit) : State :=
  if f.cls = 2 then (if field f.payload 0 1 = 1 then suspendArrives s port (field64 f.payload 1 8) else forwardOnce s port f)
  else
    let s := if forwarded f then forwardOnce s port f else s
    if f.dst ≠ s.dev.sysdev then (if forwarded f then s else logFlit s f)
    else if f.cls = 3 then s
    else if f.cls = 1 then takeGang s f
    else if f.src = (portAt s port).peer then takeCollective s f else logFlit s f

/-- The flit that arrives, as the choice has it: list, source, destination, class and sequence number; data, the payload; v, its CRC. -/
def flitIn (q : Choice) : Flit :=
  { src := BitVec.ofNat 16 (listGet 0 q.list 0), dst := BitVec.ofNat 16 (listGet 0 q.list 1), cls := BitVec.ofNat 2 (listGet 0 q.list 2)
    payload := q.data, seq := listGet 0 q.list 3, crc := q.v }

/-- FLIT_ARRIVAL: a flit whose CRC fails is sent again, and the port is marked down where its replay fails; one out of its class's order is none of the
port's; the rest is delivered, forwarded or discarded (R449, R450). Choice: n, the port; k, not zero where the replay fails; the flit. -/
def execFlitArrival (s : State) : Out :=
  .next (
    let q := s.choice
    let p := portAt s q.n
    let f := flitIn q
    if !p.up || decide (224 < f.payload.length) then s
    else if f.crc != Config.crc64 (flitBytes f) then (if q.k = 0 then s else onPort s q.n (fun _ => { down := true }))
    else if p.rx.get f.cls.toFin != f.seq then s
    else
      let s := onPort s q.n (fun p => { p with rx := p.rx.set f.cls.toFin (f.seq + 1) })
      if p.timeOnly && f.cls != 3 then s else deliver s q.n f)

end Sys2Proof.Machine
end

