-- ==== Sys2Proof/Machine/Loader.lean ====
section
/-! DEFINITION. Loading an image (spec/04_objects.md R77 to R92, R466, spec/23_prog_loader.md R424) and unloading one (spec/17 R390). -/

namespace Sys2Proof.Machine

/-! ## The file (R77 to R80) -/

def fShoff (f : List Byte) : Nat := field f 32 8
def fShnum (f : List Byte) : Nat := field f 40 2
def fIsize (f : List Byte) : Nat := field f 24 8
def fPbase (f : List Byte) : W64 := field64 f 16 8

/-- The header meets R77. -/
def hdrGood (f : List Byte) : Bool :=
  field f 0 4 == 0x464F5A42 && field f 4 2 == 1 && field f 8 4 == 0 && field f 12 4 == 64 && field f 16 8 % 65536 == 0 &&
  fIsize f % 65536 == 0 && fShoff f % 8 == 0 && decide (1 ≤ fShnum f) && decide (fShnum f ≤ 4096) && field f 42 2 == 40 &&
  decide (field f 44 2 < fShnum f) && field f 46 8 == 0 && field f 54 8 == 0 && field f 62 2 == 0

/-- Section entry i. -/
def secEnt (f : List Byte) (i : Nat) : List Byte := (f.drop (fShoff f + 40 * i)).take 40

def seName (e : List Byte) : Nat := field e 0 4
def seType (e : List Byte) : Nat := field e 4 2
def seFlags (e : List Byte) : Nat := field e 6 2
def seFoff (e : List Byte) : Nat := field e 8 8
def seSize (e : List Byte) : Nat := field e 16 8
def seIoff (e : List Byte) : Nat := field e 24 8
def seAlign (e : List Byte) : Nat := field e 32 4

/-- Every section entry in order. -/
def secs (f : List Byte) : List (List Byte) := (List.range (fShnum f)).map (secEnt f)

/-- The flags, smallest alignment and entry size of a section type (R78). -/
def secKind (t : Nat) : Option (Nat × Nat × Nat) :=
  match t with
  | 1 => some (5, 3, 0)
  | 2 => some (1, 6, 0)
  | 3 => some (3, 3, 0)
  | 4 => some (1, 6, 0)
  | 5 => some (3, 3, 0)
  | 6 => some (1, 3, 8)
  | 7 => some (0, 0, 0)
  | 8 => some (0, 3, 24)
  | 9 => some (0, 3, 32)
  | 10 => some (0, 3, 128)
  | 11 => some (0, 3, 32)
  | 12 => some (0, 3, 112)
  | _ => none

/-- A section occupies image space. -/
def seAlloc (e : List Byte) : Bool := seFlags e % 2 == 1

/-- The size of the string table. -/
def strSize (f : List Byte) : Nat := seSize (secEnt f (field f 44 2))

/-- One section entry meets R78 and R79, its neighbours apart. -/
def secGood (f e : List Byte) : Bool :=
  match secKind (seType e) with
  | none => false
  | some (fl, al, es) =>
      seFlags e == fl && decide (al ≤ seAlign e) && decide (seAlign e ≤ 16) && field e 36 4 == es && decide (seName e < strSize f) &&
      (seType e == 5 || decide (seFoff e + seSize e ≤ f.length)) &&
      (!seAlloc e || (seIoff e % 2 ^ seAlign e == 0 && decide (seIoff e + seSize e ≤ fIsize f)))

/-- Two allocated sections overlap, or share a page with other flags (R79). -/
def secClash (a b : List Byte) : Bool :=
  let overlap := decide (seIoff a < seIoff b + seSize b) && decide (seIoff b < seIoff a + seSize a)
  let page := decide (seIoff a / 65536 ≤ (seIoff b + seSize b - 1) / 65536) && decide (seIoff b / 65536 ≤ (seIoff a + seSize a - 1) / 65536)
  decide (0 < seSize a) && decide (0 < seSize b) && (overlap || (page && seFlags a != seFlags b))

/-- Some section of a list clashes with a later one. -/
def anyClash : List (List Byte) → Bool
  | [] => false
  | a :: r => r.any (secClash a) || anyClash r

/-- The section entries of a type. -/
def ofType (f : List Byte) (t : Nat) : List (List Byte) := (secs f).filter (fun e => seType e == t)

/-- The sizes of a type's sections together. -/
def typeSize (f : List Byte) (t : Nat) : Nat := ((ofType f t).map seSize).sum

/-- The entries of a table section, n bytes each; bytes after the last whole entry are dropped (DESIGN CHOICE, log 88). -/
def tableOf (f : List Byte) (t n : Nat) : List (List Byte) :=
  match ofType f t with
  | [] => []
  | e :: _ => (List.range (seSize e / n)).map (fun i => (f.drop (seFoff e + n * i)).take n)

/-- Symbol entries. -/
def syms (f : List Byte) : List (List Byte) := tableOf f 8 24

/-- The sections meet R78 and R79, and every name of a section, symbol or kernel lies in the string table (R466). -/
def secsGood (f : List Byte) : Bool :=
  (secs f).all (secGood f) && !anyClash ((secs f).filter seAlloc) && (ofType f 7).length == 1 && seType (secEnt f (field f 44 2)) == 7 &&
  [6, 8, 9, 10, 11, 12].all (fun t => decide ((ofType f t).length ≤ 1)) &&
  ((syms f).drop 1 ++ tableOf f 10 128).all (fun y => decide (field y 0 4 < strSize f))

def syShndx (y : List Byte) : Nat := field y 4 2
def syKind (y : List Byte) : Nat := field y 6 1
def syBind (y : List Byte) : Nat := field y 7 1

/-- The NUL-terminated name of a symbol; the bytes of the string table are not looked at as UTF-8, and a name that the table does not end is read on in the
file (DESIGN CHOICE, log 120). -/
def syName (f y : List Byte) : List Byte :=
  (f.drop (seFoff (secEnt f (field f 44 2)) + field y 0 4)).takeWhile (fun b => b != 0)

/-- A symbol entry meets R80 and R466. A tensor symbol that is not undefined is taken for one whose SHNDX is wrong, and its VALUE is not looked at
(DESIGN CHOICE, log 119). -/
def symGood (f y : List Byte) : Bool :=
  decide (syKind y ≤ 6) && decide (syBind y ≤ 1) &&
  (syShndx y == 0xFFFF || syShndx y == 0xFFFE ||
    (decide (syShndx y < fShnum f) &&
      (let e := secEnt f (syShndx y)
       decide (seIoff e ≤ field y 8 8) && decide (field y 8 8 ≤ seIoff e + seSize e)))) &&
  (syKind y != 5 || syShndx y == 0xFFFE)

/-- A list has two equal elements. -/
def hasDup (l : List (List Byte)) : Bool := !decide l.Nodup

/-- The symbols meet R80: index 0 is the null symbol, and no two global symbols, defined or not, share a name. -/
def symsGood (f : List Byte) : Bool :=
  let l := (syms f).drop 1
  l.all (symGood f) && !hasDup ((l.filter (fun y => syBind y == 1)).map (syName f))

/-- An allocated section of a type among a list holds n bytes at an image offset. -/
def inSec (f : List Byte) (types : List Nat) (off n : Nat) : Bool :=
  (secs f).any (fun e => types.contains (seType e) && decide (seIoff e ≤ off) && decide (off + n ≤ seIoff e + seSize e))

/-- A kernel entry meets R84. -/
def kernGood (f k : List Byte) : Bool :=
  let ws := (List.range 6).map (fun i => field k (32 + i) 1)
  field k 4 4 == 0 && kEntry k % 8 == 0 && inSec f [1] (kEntry k).toNat 8 &&
  decide (kSeam0 k + kSeamN k ≤ (tableOf f 12 112).length) && decide (field k 24 4 + field k 28 4 ≤ (tableOf f 11 32).length) &&
  decide (ws.sum ≤ 64) && decide (kPrio k ≤ 7) && decide (kAffin k ≤ 2) && decide (kLflags k ≤ 7) && field k 42 2 == 0 &&
  decide (field k 44 4 ≤ 0x200000) && field k 48 4 % 8 == 0 && (kGang k || kGangdl k == 0) && decide (1 ≤ kNinst k) &&
  decide (kNinst k ≤ 2 ^ ws.sum) && (kCompl k).toNat % 32 == 0 && allZero ((k.drop 72).take 24) && allZero ((k.drop 96).take 32)

/-- The checks of the header, sections, symbols and kernels, in order: the reason of the first that fails (R90, R466). -/
def fileBad (f : List Byte) : Option Nat :=
  if f.length < 64 ∨ !hdrGood f then some 1
  else if !secsGood f then some 2
  else if 0x40000 < typeSize f 1 ∨ 0x30000 < typeSize f 2 then some 14
  else if !symsGood f then some 3
  else if !(tableOf f 10 128).all (kernGood f) then some 4
  else none

/-! ## Binding and relocation (R82, R83, R87) -/

/-- The handle bound to a symbol: registered to the context, its size not below the symbol's (R80). -/
def boundTo (s : State) (ctx : Nat) (f : List Byte) (bind : List (Nat × W64)) (k : Nat) : Option (W32 × Tht) :=
  let y := listGet [] (syms f) k
  match bind.find? (fun (e : Nat × W64) => e.1 == k) with
  | none => none
  | some e =>
      match ownTht s ctx (e.2.setWidth 32) with
      | none => none
      | some t => if syKind y = 5 ∧ field y 16 8 ≤ t.size then some (e.2.setWidth 32, t) else none

/-- Every tensor symbol is bound. -/
def allBound (s : State) (ctx : Nat) (f : List Byte) (bind : List (Nat × W64)) : Bool :=
  (List.range (syms f).length).all (fun k => syKind (listGet [] (syms f) k) != 5 || k == 0 || (boundTo s ctx f bind k).isSome)

/-- S of a symbol (R82); none where it is undefined. -/
def symS (f : List Byte) (base : W64) (k : Nat) : Option W64 :=
  let y := listGet [] (syms f) k
  if k = 0 ∨ (syms f).length ≤ k ∨ syShndx y = 0xFFFE then none
  else if syShndx y = 0xFFFF then some (field64 y 8 8)
  else some (base + field64 y 8 8)

/-- The contents of the allocated sections, as the image lies from its base: section entry and bytes. -/
abbrev Img := List (List Byte × List Byte)

/-- The sections as the file gives them; BSS is zero. -/
def imgOf (f : List Byte) : Img :=
  ((secs f).filter seAlloc).map (fun e => (e, if seType e = 5 then zeros (seSize e) else (f.drop (seFoff e)).take (seSize e)))

/-- The section of an image offset. -/
def holds (e : List Byte) (off n : Nat) : Bool := decide (seIoff e ≤ off) && decide (off + n ≤ seIoff e + seSize e)

/-- Read n bytes at an image offset. -/
def imgGet (i : Img) (off n : Nat) : Nat :=
  match i.find? (fun x => holds x.1 off n) with | none => 0 | some x => field x.2 (off - seIoff x.1) n

/-- Write bytes at an image offset. -/
def imgPut (i : Img) (off : Nat) (bs : List Byte) : Img :=
  i.map (fun x => if holds x.1 off bs.length then (x.1, splice x.2 (off - seIoff x.1) bs) else x)

/-- Relocation entries. -/
def rels (f : List Byte) : List (List Byte) := tableOf f 9 32
def rlPlace (r : List Byte) : Nat := field r 0 8
def rlAdd (r : List Byte) : W64 := field64 r 8 8
def rlSym (r : List Byte) : Nat := field r 16 4
def rlLink (r : List Byte) : Nat := field r 20 4
def rlType (r : List Byte) : Nat := field r 24 2

/-- Opcodes whose words use OFF12, and ADDI (R52, R82). -/
def lo12Ops : List Nat :=
  [0x20, 0x30, 0x31, 0x32, 0x34, 0x35, 0x36, 0x37, 0x38, 0x39, 0x40, 0x41, 0x42, 0x43, 0x44, 0x45, 0x46, 0x47, 0x48, 0x49, 0x4A, 0x4B,
   0x57, 0x58, 0x59, 0x5A, 0x5D, 0x87]

/-- The target of a relocation is one that its type allows (R82). -/
def targetGood (f : List Byte) (i : Img) (r : List Byte) : Bool :=
  let w := imgGet i (rlPlace r) 8
  let op := w / 2 ^ 56
  let word := rlPlace r % 8 == 0 && inSec f [1] (rlPlace r) 8
  match rlType r with
  | 1 => rlPlace r % 8 == 0 && inSec f [3, 4] (rlPlace r) 8
  | 2 => word && op == 0x27
  | 3 => word && lo12Ops.contains op
  | 4 => word && op == 0x28
  | 5 => word && lo12Ops.contains op
  | 6 => word && op == 0x30 && w / 2 ^ 25 % 4 == 3
  | 7 => word && (op == 0x70 || op == 0x71)
  | _ => rlPlace r % 64 == 0 && inSec f [3, 4] (rlPlace r) 64

/-- The links of a relocation meet R81 and R83; a LINK that is not zero outside a REL_PCLO12 has BADLINK too (DESIGN CHOICE, log 118). -/
def linkGood (f : List Byte) (n : Nat) (r : List Byte) : Bool :=
  if rlType r = 5 then rlSym r == 0 && rlAdd r == 0 && decide (rlLink r < n) && rlType (listGet [] (rels f) (rlLink r)) == 4
  else rlLink r == 0

/-- Replace the low n bits of the word at a place. -/
def putLow (i : Img) (place n : Nat) (v : Int) : Img :=
  let w := imgGet i place 8
  imgPut i place (leBytes 8 (w / 2 ^ n * 2 ^ n + (v % 2 ^ n).toNat))

/-- A number lies from −2^(n−1) to 2^(n−1) − 1. -/
def fits (v : Int) (n : Nat) : Bool := decide (-(2 ^ (n - 1) : Int) ≤ v) && decide (v < 2 ^ (n - 1))

/-- The GOT entries of the file: symbol indexes (R87). -/
def gotSyms (f : List Byte) : List Nat :=
  match ofType f 6 with
  | [] => []
  | e :: _ => (List.range (seSize e / 8)).map (fun j => field f (seFoff e + 8 * j) 8)

/-- The pair that a REL_PCLO12 completes: S + A − P of its REL_PCHI20. -/
def pcPair (f : List Byte) (base : W64) (r : List Byte) : Option W64 :=
  let h := listGet [] (rels f) (rlLink r)
  (symS f base (rlSym h)).map (fun x => x + rlAdd h - (base + BitVec.ofNat 64 (rlPlace h)))

/-- Apply relocation n: the patched image, or the reason of its failure (R82, R83). Bytes 26 to 31 of an entry, zero by R81, are not looked at
(DESIGN CHOICE, log 88). -/
def applyRel (s : State) (ctx : Nat) (f : List Byte) (bind : List (Nat × W64)) (base : W64) (i : Img) (n : Nat) (r : List Byte) : Except Nat Img :=
  let t := rlType r
  let place := rlPlace r
  let p := base + BitVec.ofNat 64 place
  if t < 1 ∨ 8 < t then .error 7
  else if !linkGood f n r then .error 9
  else if !targetGood f i r then .error 8
  else if t = 8 then
    (match boundTo s ctx f bind (rlSym r) with
     | none => .error 10
     | some (h, x) =>
         if (rlAdd r).toNat < x.size then .ok (imgPut (imgPut i place (leBytes 4 h.toNat)) (place + 8) (leBytes 8 (rlAdd r).toNat)) else .error 10)
  else if t = 6 then
    (match (gotSyms f).findIdx? (fun k => k == rlSym r) with
     | none => .error 11
     | some g =>
         let v := 8 * (g : Int) + (rlAdd r).toInt
         if fits v 12 then .ok (putLow i place 12 v) else .error 10)
  else
    match (if t = 5 then pcPair f base r else symS f base (rlSym r)) with
    | none => .error 6
    | some x =>
        let abs := x + rlAdd r
        let rel := abs - p
        let hi (v : W64) : Int := ((v + 0x800).sshiftRight 12).toInt
        match t with
        | 1 => .ok (imgPut i place (leBytes 8 abs.toNat))
        | 2 => if fits (hi abs) 20 then .ok (putLow i place 20 (hi abs)) else .error 10
        | 3 => .ok (putLow i place 12 abs.toInt)
        | 4 => if fits (hi rel) 20 then .ok (putLow i place 20 (hi rel)) else .error 10
        | 5 => .ok (putLow i place 12 x.toInt)
        | _ => if rel.toNat % 8 = 0 ∧ fits (rel.toInt / 8) 32 then .ok (putLow i place 32 (rel.toInt / 8)) else .error 10

/-- Apply the relocations in ascending order: the image, or the reason and the index of the first failure (R90). -/
def applyAll (s : State) (ctx : Nat) (f : List Byte) (bind : List (Nat × W64)) (base : W64) : Nat → List (List Byte) → Img → Except (Nat × Nat) Img
  | _, [], i => .ok i
  | n, r :: rs, i =>
      match applyRel s ctx f bind base i n r with
      | .error e => .error (e, n)
      | .ok i => applyAll s ctx f bind base (n + 1) rs i

/-- Fill the GOT (R87): the image, or the reason. An undefined symbol that a REL_GOT12 names is found here, where its entry is filled (R466; DESIGN CHOICE,
log 121). -/
def fillGot (f : List Byte) (base : W64) : Nat → List Nat → Img → Except Nat Img
  | _, [], i => .ok i
  | j, k :: ks, i =>
      if k = 0 ∨ (syms f).length ≤ k ∨ syKind (listGet [] (syms f) k) = 5 then .error 11
      else
        match symS f base k, (ofType f 6).head? with
        | some v, some e => fillGot f base (j + 1) ks (imgPut i (seIoff e + 8 * j) (leBytes 8 v.toNat))
        | _, _ => .error 6

/-! ## Segments and seams (R85, R86) -/

/-- The flag that a word sets, and the flag on which it waits. -/
def wordFlags (i : Instr) : Option (BitVec 6) × Option (BitVec 6) :=
  match i with
  | .vsetf fl => (some fl, none)
  | .msetf fl => (some fl, none)
  | .xsetf fl => (some fl, none)
  | .vwaitf fl => (none, some fl)
  | .mwaitf fl => (none, some fl)
  | .xwaitf fl => (none, some fl)
  | _ => (none, none)

/-- The word is an END word. -/
def isEnd (i : Instr) : Bool := match i with | .vend => true | .mend => true | .xend => true | _ => false

/-- The words of a segment, decoded by its engine's map; none where one is illegal. -/
def segWords (i : Img) (sq : Seq) (off : Nat) : Nat → List (Option Instr)
  | 0 => []
  | n + 1 =>
      (match decodeEngine sq (BitVec.ofNat 48 (imgGet i off 6)) with | .ok x => some x | .error _ => none) :: segWords i sq (off + 6) n

/-- The bits of the flags of a list. -/
def flagBits (l : List (BitVec 6)) : W64 := l.foldl (fun w fl => w ||| (1#64 <<< fl.toNat)) 0

/-- A segment entry meets R85. -/
def segGood (f : List Byte) (i : Img) (e : List Byte) : Bool :=
  let n := field e 8 4
  let g := field e 12 1
  let sq : Seq := if g = 0 then .copy else if g = 1 then .matrix else .vector
  decide (g ≤ 2) && field e 13 3 == 0 && decide (1 ≤ n) && field e 0 8 % 64 == 0 && inSec f [2] (field e 0 8) (6 * n) &&
  (let ws := segWords i sq (field e 0 8) n
   ws.all (fun w => w.isSome) && (match ws.getLast? with | some (some w) => isEnd w | _ => false) &&
   flagBits (ws.filterMap (fun (w : Option Instr) => w.bind (fun x => (wordFlags x).1))) == field64 e 16 8 &&
   flagBits (ws.filterMap (fun (w : Option Instr) => w.bind (fun x => (wordFlags x).2))) == field64 e 24 8)

/-- Two ranges of a list overlap. -/
def rangesClash : List (Nat × Nat) → Bool
  | [] => false
  | a :: r => r.any (fun b => decide (a.1 < b.1 + b.2) && decide (b.1 < a.1 + a.2) && decide (0 < a.2) && decide (0 < b.2)) || rangesClash r

/-- Numbers rise strictly. -/
def rising : List Nat → Bool
  | [] => true
  | a :: r => (match r with | [] => true | b :: _ => decide (a < b)) && rising r

/-- Seam table entry n breaks none of the cases of R86's list; its SEAM word is the one whose TGT names it. The bytes that R86's table has zero and KIDX, which
that list leaves out, are not looked at (DESIGN CHOICE, log 117). -/
def seamGood (f : List Byte) (i : Img) (n : Nat) (e : List Byte) : Bool :=
  let w := imgGet i (field e 0 8) 8
  let vs := (List.range (field e 8 1)).map (fun k => field e (16 + 2 * k) 2)
  let rs := (List.range (field e 9 1)).map (fun k => (field e (48 + 8 * k) 4, field e (52 + 8 * k) 4))
  field e 0 8 % 8 == 0 && inSec f [1] (field e 0 8) 8 && w / 2 ^ 56 == 0x78 && w / 2 ^ 12 % 2 ^ 14 == n &&
  decide (field e 8 1 ≤ 16) && decide (field e 9 1 ≤ 8) && rising vs && vs.all (fun v => decide (v ≤ 767)) &&
  rs.all (fun r => r.1 % 8 == 0 && r.2 % 8 == 0 && decide (r.1 + r.2 ≤ 0x200000)) && !rangesClash rs && decide ((rs.map (fun r => r.2)).sum ≤ 262144)

/-! ## The base and the pages (R79, R90, R424) -/

/-- A page of a context's virtual space holds nothing: no leaf entry maps it. -/
def vaFree (s : State) (ctx : Nat) (va : W64) : Bool :=
  canonical va &&
  (match walk s.ms va .read .control 3 1 (bits ((ctxAt s ctx).getD {}).ptroot 50 16 * 65536) with
   | .ok _ => false
   | .error t => t.code == 3)

/-- Every page of a range is free. -/
def rangeFree (s : State) (ctx : Nat) (base : W64) (n : Nat) : Bool :=
  decide (base.toNat + n ≤ 2 ^ 64) && (List.range (n / 65536)).all (fun p => vaFree s ctx (base + BitVec.ofNat 64 (65536 * p)))

/-- The lowest free base from b up to the end of the address space; fuel bounds the search. -/
def firstBase (s : State) (ctx n : Nat) : Nat → Nat → Option W64
  | 0, _ => none
  | f + 1, b =>
      if 2 ^ 64 < b + n ∨ 2 ^ 64 ≤ b then none
      else if rangeFree s ctx (BitVec.ofNat 64 b) n then some (BitVec.ofNat 64 b)
      else firstBase s ctx n f (b + 65536)

/-- The base of a load: PBASE where it is free, else the named base, else the lowest free one; a named base that is misaligned or not free is
rejected before anything else (R424): none for BADBASE. -/
def chooseBase (s : State) (ctx : Nat) (f : List Byte) (named : Option W64) : Option W64 :=
  match named with
  | some b => if b.toNat % 65536 ≠ 0 ∨ !rangeFree s ctx b (fIsize f) then none
              else if rangeFree s ctx (fPbase f) (fIsize f) then some (fPbase f) else some b
  | none => firstBase s ctx (fIsize f) (2 ^ 48) ((fPbase f).toNat / 65536 * 65536)

/-- The pages that the allocated sections occupy, with their flags. -/
def imgPages (f : List Byte) : List (Nat × Nat) :=
  (List.range (fIsize f / 65536)).filterMap (fun p =>
    ((secs f).find? (fun e => seAlloc e && decide (0 < seSize e) && decide (seIoff e < 65536 * p + 65536) && decide (65536 * p < seIoff e + seSize e))).map
      (fun e => (p, seFlags e)))

/-- A leaf entry of a loaded page: readable, writable or executable by its section's flags, ORD RC (DESIGN CHOICE, log 50). -/
def imgPte (page flags : Nat) : W64 :=
  BitVec.ofNat 64 (page * 65536 + 0x800 + 16 + (if flags / 4 % 2 = 1 then 8 else 0) + (if flags / 2 % 2 = 1 then 4 else 0) + 3)

/-- Map one page at a virtual address, taking new tables from a list of physical pages: none where one is lacking. -/
def mapPage (m : MemSys) (va : W64) (pte : W64) : Nat → Nat → Nat → List Nat → Option (MemSys × List Nat)
  | 0, _, _, _ => none
  | f + 1, level, table, new =>
      let shift := if level = 1 then 42 else if level = 2 then 29 else 16
      let at_ := table + 8 * (va.toNat / 2 ^ shift % 8192)
      if level = 3 then some (sliceWrite m at_ (leBytes 8 pte.toNat), new)
      else
        let e := BitVec.ofNat 64 (leNat (sliceRead m at_ 8))
        if bit e 0 then mapPage m va pte f (level + 1) (bits e 51 16 * 65536) new
        else
          match new with
          | [] => none
          | p :: r =>
              let m := sliceWrite (sliceWrite m (p * 65536) (zeros 65536)) at_ (leBytes 8 (p * 65536 + 1))
              mapPage m va pte f (level + 1) (p * 65536) r

/-- Map the pages of an image. -/
def mapAll (root : Nat) (base : W64) : List ((Nat × Nat) × Nat) → MemSys → List Nat → Option MemSys
  | [], m, _ => some m
  | ((p, fl), phys) :: r, m, new =>
      match mapPage m (base + BitVec.ofNat 64 (65536 * p)) (imgPte phys fl) 3 1 root new with
      | none => none
      | some (m, new) => mapAll root base r m new

/-- The bytes of a page of an image; what no section covers is zero. -/
def pageBytes (i : Img) (p : Nat) : List Byte :=
  i.foldl (fun bs (x : List Byte × List Byte) =>
    let lo := seIoff x.1
    if 65536 * p ≤ lo then splice bs (lo - 65536 * p) (x.2.take (65536 * p + 65536 - lo))
    else splice bs 0 ((x.2.drop (65536 * p - lo)).take 65536)) (zeros 65536) |>.take 65536

/-- Put an image's bytes into its physical pages. -/
def putPages (i : Img) : List ((Nat × Nat) × Nat) → MemSys → MemSys
  | [], m => m
  | ((p, _), phys) :: r, m => putPages i r (sliceWrite m (phys * 65536) (pageBytes i p))

/-- Sections of a type, by ascending offset, at their addresses (R92). -/
def sectsOf (i : Img) (base : W64) (t : Nat) : List Sect :=
  ((i.filter (fun x => seType x.1 == t)).mergeSort (fun a b => decide (seIoff a.1 ≤ seIoff b.1))).map
    (fun x => { base := base + BitVec.ofNat 64 (seIoff x.1), bytes := x.2 })

/-- The image that a load publishes in physical pages; without a GOT section its GOT's address, gp at entry, is zero (R87; DESIGN CHOICE, log 88). -/
def builtImage (ctx : Nat) (f : List Byte) (base : W64) (i : Img) (phys : List Nat) : Image :=
  { ctx := ctx, base := base, ctrl := sectsOf i base 1, eng := sectsOf i base 2, kernels := tableOf f 10 128, segs := tableOf f 11 32,
    seams := tableOf f 12 112, got := (match ofType f 6 with | [] => 0 | e :: _ => base + BitVec.ofNat 64 (seIoff e)),
    pages := (imgPages f).map (fun x => x.1), phys := phys }

/-- The loaded image of a file, relocated and checked, or the reason and the relocation of its rejection (R90): BADBASE for a named base alone, and
no reason where a good file finds no base (DESIGN CHOICE, log 88). -/
def loadFile (s : State) (ctx : Nat) (f : List Byte) (bind : List (Nat × W64)) (named : Option W64) : Except (Nat × Nat) (W64 × Img) :=
  match chooseBase s ctx f named with
  | none => .error (if named.isSome then 15 else (fileBad f).getD 0, 0)
  | some base =>
      match fileBad f with
      | some r => .error (r, 0)
      | none =>
          if !allBound s ctx f bind then .error (5, 0)
          else
            match applyAll s ctx f bind base 0 (rels f) (imgOf f) with
            | .error e => .error e
            | .ok i =>
                match fillGot f base 0 (gotSyms f) i with
                | .error r => .error (r, 0)
                | .ok i =>
                    if !(tableOf f 11 32).all (segGood f i) then .error (12, 0)
                    else if !((tableOf f 12 112).zipIdx).all (fun (e : List Byte × Nat) => seamGood f i e.2 e.1) then .error (13, 0)
                    else .ok (base, i)

/-- What a load reports: the handle, or a reason and a relocation's index (R466). -/
def reportLoad (s : State) (r : Nat × Nat × Nat) : State := { s with dev := { s.dev with load := r } }

/-- Physical pages for a load: as many as it needs, distinct, in HBM4, and in use by nothing (R91). -/
def pagesFor (s : State) (n : Nat) (l l2 : List Nat) : Bool :=
  l.length == n && decide (l ++ l2).Nodup &&
  (l ++ l2).all (fun p => decide (p < 2 ^ 35) && !pageUsed s p && (match paRange (p * 65536) with | .hbm _ => true | _ => false))

/-- IMAGE_PUBLICATION: a file is checked, relocated, mapped and published, or rejected (R90, R466). Choice: n, the context; data, the file; flag and
v, a named base; pairs, the handle bound to each tensor symbol; m, the handle; list and list2, the physical pages of the image and of new tables. -/
def execImagePublication (s : State) : Out :=
  .next (
    let q := s.choice
    match loadFile s q.n q.data q.pairs (if q.flag then some q.v else none) with
    | .error (r, k) => reportLoad s (0, r, k)
    | .ok (base, i) =>
        let ps := imgPages q.data
        if q.m = 0 ∨ (tblGet none s.images q.m).isSome ∨ (ctxAt s q.n).isNone ∨ !pagesFor s ps.length q.list q.list2 then s
        else
          match mapAll (bits ((ctxAt s q.n).getD {}).ptroot 50 16 * 65536) base (ps.zip q.list) (putPages i (ps.zip q.list) s.ms) q.list2 with
          | none => s
          | some m => reportLoad { s with ms := m, images := tblSet none s.images q.m (some (builtImage q.n q.data base i q.list)) } (q.m, 0, 0))

/-- A queued or accepted launch names an image. -/
def namesImage (s : State) (h : Nat) : Bool :=
  s.launches.any (fun (e : Nat × Option Launch) => match e.2 with | some l => l.image.toNat == h | none => false) ||
  s.lqueue.any (fun (e : LqEnt) => (match (ctxRead s e.ctx e.va 8).1 with | some b => field b 0 8 == h | none => false))

/-- Clear the leaf entry of a virtual page. -/
def unmapPage (ctx : Nat) (s : State) (va : W64) : State :=
  match walk s.ms va .read .control 3 1 (bits ((ctxAt s ctx).getD {}).ptroot 50 16 * 65536) with
  | .error _ => s
  | .ok (_, _, at_, _) => { s with ms := sliceWrite s.ms at_ (zeros 8) }

/-- IMAGE_UNLOAD: an image that no queued or running launch names is unloaded: its pages are unmapped and its handle goes (R390). Choice: n, the
handle. -/
def execImageUnload (s : State) : Out :=
  .next (
    match tblGet none s.images s.choice.n with
    | none => s
    | some i =>
        if namesImage s s.choice.n then s
        else
          let s' := i.pages.foldl (fun s p => unmapPage i.ctx s (i.base + BitVec.ofNat 64 (65536 * p))) s
          { s' with
            images := tblSet none s'.images s.choice.n none
            cores := s'.cores.map (fun (c : Core) => (match c.run.res with
              | some r => if r.image.toNat = s.choice.n then { c with run := { c.run with res := none } } else c
              | none => c)) })

end Sys2Proof.Machine
end

