-- ==== Sys2Proof/Machine/Rails.lean ====
section
/-! DEFINITION. Rails, pacing and thermal sensing (spec/25_system.md R452 to R455). -/

namespace Sys2Proof.Machine

/-! ## Imposed gaps (R453) -/

/-- The sequencer kind that a rail feeds: matrix, vector, and copy for SRAM and fabric. -/
def railSeq (rail : Nat) : Nat := if rail = 0 then 1 else if rail = 1 then 2 else 3

/-- The ramp count N of a sequencer kind. -/
def rampOf (p : Power) (k : Nat) : Nat := listGet 0 p.ramp.toList (k - 1)

/-- The imposed gap of a sequencer kind. -/
def gapAt (p : Power) (k : Nat) : BitVec 12 := if k = 1 then p.mg else if k = 2 then p.vg else p.xg

/-- Every engine of a kind on the compute dies stands at its safe point: no gap is imposed, or its paced burst has reached its N-th dequeue. -/
def atSafe (p : Power) (k : Nat) : Bool :=
  gapAt p k == 0 || p.burst.all (fun (e : Nat × Nat) => e.1 % 4 != k || decide (1024 ≤ e.1) || (rampOf p k != 0 && e.2 % rampOf p k == 0))

/-- The gap of a kind after a window: raised at once, lowered or removed only at a safe point. -/
def newGap (p : Power) (k : Nat) (g : BitVec 12) : BitVec 12 := if gapAt p k ≤ g ∨ atSafe p k then g else gapAt p k

/-- Bursts of a kind begin again where its gap was none or is lowered. -/
def newBurst (p : Power) (k : Nat) (g : BitVec 12) (b : Tbl Nat) : Tbl Nat :=
  if gapAt p k = 0 ∨ newGap p k g < gapAt p k then b.filter (fun (e : Nat × Nat) => e.1 % 4 != k) else b

/-- POWER_WINDOW: at each 1 µs the power model sets gaps and ramp counts (R453). Choice: list, the gaps of the matrix, vector and copy engines;
list2, their ramp counts. -/
def execPowerWindow (s : State) : Out :=
  .next (
    let p := s.dev.power
    if s.gtc.toNat / 1000 ≤ p.windows then s
    else
      let g (k : Nat) : BitVec 12 := BitVec.ofNat 12 (listGet 0 s.choice.list (k - 1))
      let n (k : Nat) : Nat := listGet 0 s.choice.list2 (k - 1)
      { s with dev := { s.dev with power := { p with
          mg := newGap p 1 (g 1), vg := newGap p 2 (g 2), xg := newGap p 3 (g 3), ramp := #v[n 1, n 2, n 3]
          burst := newBurst p 3 (g 3) (newBurst p 2 (g 2) (newBurst p 1 (g 1) p.burst)), windows := p.windows + 1 } } })

/-- The engine that a rail feeds. -/
def railEngine (rail : Nat) : Seq := if rail = 0 then .matrix else if rail = 1 then .vector else .copy

/-- The engines that a rail feeds stall for n ticks: those of the Crown cores (R111, R452, R453). -/
def stallRail (s : State) (rail n : Nat) : State :=
  (List.range 256).foldl (fun s ex => onCore s ex (fun c =>
    let e := engOf c (railEngine rail)
    setEng c (railEngine rail) { e with stall := some (s.gtc + BitVec.ofNat 64 n) })) s

/-- RAIL_POINT_CHANGE: at the rail's safe point its point becomes the one that waits for it, or the one that the controller chooses within PWRCAP; the
rail's engines stall for at most 10 µs (R452, R453, R454). Choice: n, the rail; m, the point; k, the ticks of the stall. -/
def execRailPointChange (s : State) : Out :=
  .next (
    let p := s.dev.power
    if h : s.choice.n < 4 then
      if !atSafe p (railSeq s.choice.n) || p.off then s
      else
        let v : BitVec 3 := (p.pending.get ⟨s.choice.n, h⟩).getD (BitVec.ofNat 3 (min 7 s.choice.m))
        stallRail { s with dev := { s.dev with power := { p with rails := p.rails.set s.choice.n v h, pending := p.pending.set s.choice.n none h } } }
          s.choice.n (min 10000 s.choice.k)
    else s)

/-! ## Thermal sweeps (R454) -/

/-- A diode belongs to a cluster. -/
def thresh (t : Thermal) (i : Nat) : Nat × Nat × Nat :=
  if i < 32 then (t.warn.1, t.throttle.1, t.trip.1) else (t.warn.2, t.throttle.2, t.trip.2)

/-- A diode's state after a reading (R454). -/
def diodeNext (hyst : Nat) (th : Nat × Nat × Nat) (d : Diode) (r : Nat) : Diode :=
  let (w, t, trip) := th
  if trip ≤ r then .trip
  else if (d = .normal ∨ d = .warn) ∧ t ≤ r then .throttle
  else if d = .normal ∧ w ≤ r then .warn
  else if d = .throttle ∧ r + hyst ≤ t then (if r + hyst ≤ w then .normal else .warn)
  else if d = .warn ∧ r + hyst ≤ w then .normal
  else d

/-- The worst state, 0 NORMAL, 1 WARN, 2 THROTTLE or TRIP (R455). -/
def worstOf (l : List Diode) : BitVec 2 :=
  if l.any (fun d => d == .throttle || d == .trip) then 2 else if l.contains .warn then 1 else 0

/-- The hottest reading and the lowest-numbered diode that has it. -/
def hottest (l : List Nat) : Nat × Nat := (l.zipIdx).foldl (fun (b : Nat × Nat) (e : Nat × Nat) => if b.1 < e.1 then e else b) (listGet 0 l 0, 0)

/-- The point to which a rail is to move: the one that waits, else its own. -/
def railTarget (p : Power) (i : Nat) : BitVec 3 := (listGet none p.pending.toList i).getD (listGet 0 p.rails.toList i)

/-- Rails are to be lowered by one point where a diode throttles, else raised by one up to what PWRCAP allows. -/
def railsAfter (p : Power) (throttles : Bool) (caps : List Nat) : Vector (Option (BitVec 3)) 4 :=
  Vector.ofFn (fun i =>
    let v := (railTarget p i.val).toNat
    some (BitVec.ofNat 3 (if throttles then v - 1 else max v (min (v + 1) (min 7 (listGet 7 caps i.val))))))

/-- A trip switches the compute rails off: no context is saved and no record written; a suspend in progress is lost (R454, R459). -/
def tripOff (s : State) : State :=
  { s with
    cores := Vector.replicate 288 {}, launches := [], lqueue := [], acks := [], barCfg := [], barObj := [], wq := [], sendq := [], recvq := []
    ades := [], stopped := [], handovers := [], msgs := [], holds := []
    dev := { s.dev with power := { s.dev.power with off := true }, sus := {}, sec := { s.dev.sec with tripped := true } } }

/-- The thermal poller logs each diode that enters WARN (R451, R454). -/
def logWarns (s : State) (before after : List Diode) : State :=
  (List.range 80).foldl (fun s i => if listGet .normal before i != .warn && listGet .normal after i == .warn then logErr s 3 (.warn i) else s) s

/-- THERMAL_SWEEP: every 100 µs the 80 diodes are polled; one that enters WARN is logged (R454, R455). Choice: list, the readings in °C; list2, the points that PWRCAP
allows. -/
def execThermalSweep (s : State) : Out :=
  .next (
    let t := s.dev.therm
    if s.gtc.toNat / 100000 ≤ t.sweeps || s.dev.power.off then s
    else
      let rs := (List.range 80).map (fun i => listGet 0 s.choice.list i)
      let st := (List.range 80).map (fun i => diodeNext t.hyst (thresh t i) (listGet .normal t.st i) (listGet 0 rs i))
      let hot := hottest rs
      let t' := { t with st := st, temp := BitVec.ofNat 8 hot.1, diode := BitVec.ofNat 7 hot.2, worst := worstOf st, sweeps := t.sweeps + 1 }
      let s := logWarns { s with dev := { s.dev with therm := t' } } t.st st
      if st.contains .trip then tripOff s
      else { s with dev := { s.dev with power := { s.dev.power with pending := railsAfter s.dev.power (st.contains .throttle) s.choice.list2 } } })

end Sys2Proof.Machine
end

