-- ==== Sys2Proof/Machine/Scalar.lean ====
section
/-! DEFINITION. The integer, predicate and immediate control words (spec/14_control.md R289 to R291), NOP (spec/03 R54) and the
time words (R311). -/

namespace Sys2Proof.Machine

/-! ## Integer results (R289) -/

/-- Bits [127:64] of the signed product. -/
def mulhS (a b : W64) : W64 := BitVec.ofInt 64 ((a.toInt * b.toInt) / (2 ^ 64))
/-- Bits [127:64] of the unsigned product. -/
def mulhU (a b : W64) : W64 := BitVec.ofNat 64 (a.toNat * b.toNat / 2 ^ 64)
/-- The signed quotient, truncated toward zero; all ones for a zero divisor. −2^63 by −1 is −2^63. -/
def divS (a b : W64) : W64 := if b = 0 then BitVec.allOnes 64 else BitVec.ofInt 64 (a.toInt.tdiv b.toInt)
/-- The unsigned quotient; all ones for a zero divisor. -/
def divU (a b : W64) : W64 := if b = 0 then BitVec.allOnes 64 else BitVec.ofNat 64 (a.toNat / b.toNat)
/-- The signed remainder, which takes the sign of the dividend; the dividend for a zero divisor. −2^63 by −1 leaves 0. -/
def remS (a b : W64) : W64 := if b = 0 then a else BitVec.ofInt 64 (a.toInt.tmod b.toInt)
/-- The unsigned remainder; the dividend for a zero divisor. -/
def remU (a b : W64) : W64 := if b = 0 then a else BitVec.ofNat 64 (a.toNat % b.toNat)
/-- Shift left; zero for an amount of 64 or more. -/
def shlW (a b : W64) : W64 := if 64 ≤ b.toNat then 0 else a <<< b.toNat
/-- Shift right, zero-filled; zero for an amount of 64 or more. -/
def shrW (a b : W64) : W64 := if 64 ≤ b.toNat then 0 else a >>> b.toNat
/-- Shift right, sign-filled; 64 copies of the sign for an amount of 64 or more. -/
def sraW (a b : W64) : W64 := if 64 ≤ b.toNat then (if a.msb then BitVec.allOnes 64 else 0) else a.sshiftRight b.toNat
/-- Set bits among the low n bits. -/
def popcN (a : W64) : Nat → Nat
  | 0 => 0
  | n + 1 => popcN a n + (if a.getLsbD n then 1 else 0)
/-- Leading zeros of the low n bits. -/
def clzN (a : W64) : Nat → Nat
  | 0 => 0
  | n + 1 => if a.getLsbD n then 0 else 1 + clzN a n

/-! ## Shapes -/

/-- A word that writes s[D] with f of two sources. -/
def alu2 (g : Guard) (d a b : Reg) (s : State) (f : W64 → W64 → W64) : State :=
  guarded g s (fun s => retire (wr s d (f (rd s a) (rd s b))))
/-- A word that writes s[D] with f of two sources, which a word may read n cycles after its issue (R288). -/
def alu2Late (g : Guard) (d a b : Reg) (s : State) (n : Nat) (f : W64 → W64 → W64) : State :=
  guarded g s (fun s => retire (wrLate s d (f (rd s a) (rd s b)) n))
/-- A word that writes s[D] with f of one source. -/
def alu1 (g : Guard) (d a : Reg) (s : State) (f : W64 → W64) : State :=
  guarded g s (fun s => retire (wr s d (f (rd s a))))
/-- A word that writes s[D] with a value. -/
def alu0 (g : Guard) (d : Reg) (s : State) (v : State → W64) : State :=
  guarded g s (fun s => retire (wr s d (v s)))
/-- Write p[r] of the executor whose turn it is. -/
def wrPred (s : State) (r : BitVec 4) (v : Bool) : State := onCtl s (fun c => c.wrP r v)
/-- A word that writes p[D] with a value. -/
def cmp (g : Guard) (pd : BitVec 4) (s : State) (v : State → Bool) : State :=
  guarded g s (fun s => retire (wrPred s pd (v s)))

/-- NOP occupies one slot (R54). -/
def execNop (_ : Guard) (s : State) : Out := .next (retire s)
/-- ADD (R289). -/
def execAdd (g : Guard) (d a b : Reg) (s : State) : Out := .next (alu2 g d a b s (fun a b => a + b))
/-- SUB (R289). -/
def execSub (g : Guard) (d a b : Reg) (s : State) : Out := .next (alu2 g d a b s (fun a b => a - b))
/-- MUL (R289). -/
def execMul (g : Guard) (d a b : Reg) (s : State) : Out := .next (alu2Late g d a b s 3 (fun a b => a * b))
/-- MULH (R289). -/
def execMulh (g : Guard) (d a b : Reg) (s : State) : Out := .next (alu2Late g d a b s 3 (fun a b => mulhS a b))
/-- MULHU (R289). -/
def execMulhu (g : Guard) (d a b : Reg) (s : State) : Out := .next (alu2Late g d a b s 3 (fun a b => mulhU a b))
/-- DIV (R289). -/
def execDiv (g : Guard) (d a b : Reg) (s : State) : Out := .next (alu2Late g d a b s 24 (fun a b => divS a b))
/-- DIVU (R289). -/
def execDivu (g : Guard) (d a b : Reg) (s : State) : Out := .next (alu2Late g d a b s 24 (fun a b => divU a b))
/-- REM (R289). -/
def execRem (g : Guard) (d a b : Reg) (s : State) : Out := .next (alu2Late g d a b s 24 (fun a b => remS a b))
/-- REMU (R289). -/
def execRemu (g : Guard) (d a b : Reg) (s : State) : Out := .next (alu2Late g d a b s 24 (fun a b => remU a b))
/-- AND (R289). -/
def execAnd (g : Guard) (d a b : Reg) (s : State) : Out := .next (alu2 g d a b s (fun a b => a &&& b))
/-- OR (R289). -/
def execOr (g : Guard) (d a b : Reg) (s : State) : Out := .next (alu2 g d a b s (fun a b => a ||| b))
/-- XOR (R289). -/
def execXor (g : Guard) (d a b : Reg) (s : State) : Out := .next (alu2 g d a b s (fun a b => a ^^^ b))
/-- ANDN (R289). -/
def execAndn (g : Guard) (d a b : Reg) (s : State) : Out := .next (alu2 g d a b s (fun a b => a &&& ~~~b))
/-- SHL (R289). -/
def execShl (g : Guard) (d a b : Reg) (s : State) : Out := .next (alu2 g d a b s (fun a b => shlW a b))
/-- SHR (R289). -/
def execShr (g : Guard) (d a b : Reg) (s : State) : Out := .next (alu2 g d a b s (fun a b => shrW a b))
/-- SRA (R289). -/
def execSra (g : Guard) (d a b : Reg) (s : State) : Out := .next (alu2 g d a b s (fun a b => sraW a b))
/-- MIN (R289). -/
def execMin (g : Guard) (d a b : Reg) (s : State) : Out := .next (alu2 g d a b s (fun a b => if a.slt b then a else b))
/-- MAX (R289). -/
def execMax (g : Guard) (d a b : Reg) (s : State) : Out := .next (alu2 g d a b s (fun a b => if a.slt b then b else a))
/-- MINU (R289). -/
def execMinu (g : Guard) (d a b : Reg) (s : State) : Out := .next (alu2 g d a b s (fun a b => if a.ult b then a else b))
/-- MAXU (R289). -/
def execMaxu (g : Guard) (d a b : Reg) (s : State) : Out := .next (alu2 g d a b s (fun a b => if a.ult b then b else a))
/-- CLZ: leading zero bits, 0 to 64 (R289). -/
def execClz (g : Guard) (d a : Reg) (s : State) : Out := .next (alu1 g d a s (fun x => BitVec.ofNat 64 (clzN x 64)))
/-- POPC: set bits, 0 to 64 (R289). -/
def execPopc (g : Guard) (d a : Reg) (s : State) : Out := .next (alu1 g d a s (fun x => BitVec.ofNat 64 (popcN x 64)))

/-! ## Predicates (R290) -/

/-- SEL: s[D] ← if p[X] then s[A] else s[B] (R290). -/
def execSel (g : Guard) (d a b : Reg) (x : BitVec 4) (s : State) : Out :=
  .next (guarded g s (fun s => retire (wr s d (if (me s).ctl.rdP x then rd s a else rd s b))))
/-- CMPEQ (R290). -/
def execCmpeq (g : Guard) (pd : BitVec 4) (a b : Reg) (s : State) : Out :=
  .next (cmp g pd s (fun s => let a := rd s a; let b := rd s b; a == b))
/-- CMPNE (R290). -/
def execCmpne (g : Guard) (pd : BitVec 4) (a b : Reg) (s : State) : Out :=
  .next (cmp g pd s (fun s => let a := rd s a; let b := rd s b; a != b))
/-- CMPLT (R290). -/
def execCmplt (g : Guard) (pd : BitVec 4) (a b : Reg) (s : State) : Out :=
  .next (cmp g pd s (fun s => let a := rd s a; let b := rd s b; a.slt b))
/-- CMPLE (R290). -/
def execCmple (g : Guard) (pd : BitVec 4) (a b : Reg) (s : State) : Out :=
  .next (cmp g pd s (fun s => let a := rd s a; let b := rd s b; a.sle b))
/-- CMPLTU (R290). -/
def execCmpltu (g : Guard) (pd : BitVec 4) (a b : Reg) (s : State) : Out :=
  .next (cmp g pd s (fun s => let a := rd s a; let b := rd s b; a.ult b))
/-- CMPLEU (R290). -/
def execCmpleu (g : Guard) (pd : BitVec 4) (a b : Reg) (s : State) : Out :=
  .next (cmp g pd s (fun s => let a := rd s a; let b := rd s b; a.ule b))
/-- PLOG: p[D] ← bit ((p[A] << 1) OR p[B]) of the truth table X (R290). -/
def execPlog (g : Guard) (pd pa pb tt : BitVec 4) (s : State) : Out :=
  .next (cmp g pd s (fun s => tt.getLsbD ((if (me s).ctl.rdP pa then 2 else 0) + (if (me s).ctl.rdP pb then 1 else 0))))

/-- p15…p0 as bits [15:0], p15 as 1 (R290). -/
def predWord (c : Ctl) : Nat → W64
  | 0 => 0
  | n + 1 => predWord c n ||| (if c.rdP (BitVec.ofNat 4 n) then 1#64 <<< n else 0#64)
/-- p0 to p(n−1) ← the low bits of v. -/
def predLoad (c : Ctl) (v : W64) : Nat → Ctl
  | 0 => c
  | n + 1 => (predLoad c v n).wrP (BitVec.ofNat 4 n) (v.getLsbD n)
/-- PMOV: X = 0 reads all predicates, X = 1 writes p0 to p14 (R290). -/
def execPmov (g : Guard) (d a : Reg) (x : BitVec 4) (s : State) : Out :=
  .next (guarded g s (fun s =>
    if x = 0 then retire (wr s d (predWord (me s).ctl 16)) else retire (onCtl s (fun c => predLoad c (c.rd a) 15))))

/-! ## Immediates (R291) -/

/-- ADDI (R291). -/
def execAddi (g : Guard) (d a : Reg) (imm : BitVec 12) (s : State) : Out := .next (alu1 g d a s (fun x => x + imm12s imm))
/-- ANDI (R291). -/
def execAndi (g : Guard) (d a : Reg) (imm : BitVec 12) (s : State) : Out := .next (alu1 g d a s (fun x => x &&& imm12s imm))
/-- ORI (R291). -/
def execOri (g : Guard) (d a : Reg) (imm : BitVec 12) (s : State) : Out := .next (alu1 g d a s (fun x => x ||| imm12s imm))
/-- XORI (R291). -/
def execXori (g : Guard) (d a : Reg) (imm : BitVec 12) (s : State) : Out := .next (alu1 g d a s (fun x => x ^^^ imm12s imm))
/-- SHLI (R291). -/
def execShli (g : Guard) (d a : Reg) (imm : BitVec 12) (s : State) : Out := .next (alu1 g d a s (fun x => x <<< (imm.toNat % 64)))
/-- SHRI (R291). -/
def execShri (g : Guard) (d a : Reg) (imm : BitVec 12) (s : State) : Out := .next (alu1 g d a s (fun x => x >>> (imm.toNat % 64)))
/-- SRAI (R291). -/
def execSrai (g : Guard) (d a : Reg) (imm : BitVec 12) (s : State) : Out := .next (alu1 g d a s (fun x => x.sshiftRight (imm.toNat % 64)))
/-- SETHI: s[D] ← Sext(IMM20) × 2^12 (R291). -/
def execSethi (g : Guard) (d : Reg) (imm : BitVec 20) (s : State) : Out := .next (alu0 g d s (fun _ => imm20 imm))
/-- ADDPC: s[D] ← PC + Sext(IMM20) × 2^12 (R291). -/
def execAddpc (g : Guard) (d : Reg) (imm : BitVec 20) (s : State) : Out :=
  .next (alu0 g d s (fun s => (me s).ctl.pc + imm20 imm))
/-- MOVI: s[D] ← Sext(IMM32) (R291). -/
def execMovi (g : Guard) (d : Reg) (imm : BitVec 32) (s : State) : Out := .next (alu0 g d s (fun _ => sext64 imm))
/-- CMPEQI (R291). -/
def execCmpeqi (g : Guard) (pd : BitVec 4) (a : Reg) (imm : BitVec 12) (s : State) : Out :=
  .next (cmp g pd s (fun s => let x := rd s a; x == imm12s imm))
/-- CMPLTI (R291). -/
def execCmplti (g : Guard) (pd : BitVec 4) (a : Reg) (imm : BitVec 12) (s : State) : Out :=
  .next (cmp g pd s (fun s => let x := rd s a; x.slt (imm12s imm)))
/-- CMPLTUI (R291). -/
def execCmpltui (g : Guard) (pd : BitVec 4) (a : Reg) (imm : BitVec 12) (s : State) : Out :=
  .next (cmp g pd s (fun s => let x := rd s a; x.ult (imm12u imm)))

/-! ## Time (R311) -/

/-- RDTIME: the Global Time Counter at issue (R311). -/
def execRdtime (g : Guard) (d : Reg) (s : State) : Out := .next (alu0 g d s (fun s => s.gtc))
/-- RDCTIME: the context time counter at issue (R311). -/
def execRdctime (g : Guard) (d : Reg) (s : State) : Out := .next (alu0 g d s (fun s => (me s).ctc))

end Sys2Proof.Machine
end

