-- ==== Sys2Proof/Machine/Stem.lean ====
section
/-! DEFINITION. The attention decode engines (spec/07_stem.md R135 to R145, spec/02_numbers.md R39): dispatch and checks of a STEM node's command,
the chunks of its softmax, its completion. -/

namespace Sys2Proof.Machine

/-! ## The command (R137, R138) -/

def adK (c : List Byte) : W32 := BitVec.ofNat 32 (field c 8 4)
def adV (c : List Byte) : W32 := BitVec.ofNat 32 (field c 12 4)
def adHeads (c : List Byte) : Nat := field c 4 1 + 1
def adDim (c : List Byte) : Nat := if field c 5 1 = 0 then 64 else 128
def adKeys (c : List Byte) : Nat := field c 32 4
def adScale (c : List Byte) : W32 := BitVec.ofNat 32 (field c 72 4)
def adQ (c : List Byte) : W64 := field64 c 80 8
def adO (c : List Byte) : W64 := field64 c 88 8
def adSt (c : List Byte) : W64 := field64 c 96 8

/-- The bytes of one element of the keys (false) or values. -/
def adBytes (c : List Byte) (v : Bool) : Nat := if field c (if v then 3 else 2) 1 = 0 then 2 else 1

/-- The tensor byte of row j of head h of the keys (false) or values (R138). -/
def adAt (c : List Byte) (v : Bool) (h j : Nat) : Nat :=
  if v then field c 24 8 + h * field c 64 8 + j * field c 56 8 else field c 16 8 + h * field c 48 8 + j * field c 40 8

/-- The first byte past the extent of the keys or values. -/
def adEnd (c : List Byte) (v : Bool) : Nat := adAt c v (adHeads c - 1) (adKeys c - 1) + adDim c * adBytes c v

/-! ## Checks (R140) -/

/-- The first check. A head count above 128, which no row of the check table names, is taken as a byte outside its range (DESIGN CHOICE, log 112). -/
def adIllegal (c : List Byte) : Bool :=
  !(allZero ((c.drop 6).take 2) && allZero ((c.drop 36).take 4) && allZero ((c.drop 76).take 4) && allZero (c.drop 104) && field c 0 2 == 1 &&
    decide (field c 2 1 ≤ 1) && decide (field c 3 1 ≤ 1) && decide (field c 4 1 ≤ 127) && decide (field c 5 1 ≤ 1) && decide (1 ≤ adKeys c) &&
    decide (adKeys c ≤ 1048576) && ([16, 24, 40, 48, 56, 64, 80, 88] : List Nat).all (fun o => decide (field c o 8 % 64 = 0)) &&
    decide (field c 96 8 % 16 = 0))

/-- A key or value tensor that check 2 turns away. -/
def adForeign (s : State) (ctx : Nat) (h : W32) : Bool :=
  match ownTht s ctx h with
  | none => true
  | some t => t.enc == 0 && (t.stack.isNone || t.old != 2 || t.ms == 2)

/-- The pages that n bytes from va touch. -/
def pagesOf (va : W64) (n : Nat) : List W64 :=
  (List.range ((va.toNat % 65536 + n + 65535) / 65536)).map (fun i => va + BitVec.ofNat 64 (65536 * i))

/-- The leaf entry of an address from a table down, whatever access it permits; none where the address does not translate (R146 to R149). -/
def leafAt (m : MemSys) (va : W64) : Nat → Nat → Nat → Option W64
  | 0, _, _ => none
  | f + 1, level, table =>
      let shift := if level = 1 then 42 else if level = 2 then 29 else 16
      let e := BitVec.ofNat 64 (leNat (sliceRead m (table + 8 * (va.toNat / 2 ^ shift % 8192)) 8))
      if pteBad e level shift va then none
      else if pteLeaf e then some e
      else leafAt m va f (level + 1) (bits e 51 16 * 65536)

/-- The ENC of the page of an address of a context; none where the address does not translate. -/
def pageEnc (s : State) (ctx : Nat) (va : W64) : Option Nat :=
  if canonical va then (leafAt s.ms va 3 1 (rootOf s ctx)).map pteEnc else none

/-- An address that translates permits the access. -/
def pageRight (s : State) (ctx : Nat) (acc : Acc) (va : W64) : Bool :=
  match (ctxTranslate s ctx va acc).1 with | .ok _ => true | .error _ => false

/-- The cause of the first check that fails, 0 where all hold (R140). A page of q that translates without read permission, which no row of the check table
names, ends the command as row 5 (DESIGN CHOICE, log 112). The checks leave no mark in the page tables. -/
def adCheck (s : State) (ctx : Nat) (c : List Byte) : Nat :=
  let n := 4 * adDim c * adHeads c
  let reads := pagesOf (adQ c) n
  let writes := pagesOf (adO c) n ++ (if adSt c = 0 then [] else [adSt c])
  let encs := (reads ++ writes).map (pageEnc s ctx)
  let kt := (ownTht s ctx (adK c)).getD {}
  let vt := (ownTht s ctx (adV c)).getD {}
  if adIllegal c then 0x01
  else if adForeign s ctx (adK c) || adForeign s ctx (adV c) then 0x04
  else if kt.enc == 1 || vt.enc == 1 || encs.contains (some 1) then 0x09
  else if encs.contains none then 0x03
  else if kt.stack != vt.stack || decide (kt.size < adEnd c false) || decide (vt.size < adEnd c true) || !reads.all (pageRight s ctx .read) ||
      !writes.all (pageRight s ctx .write) then 0x04
  else 0

/-! ## Dispatch (R141) -/

/-- Write back the held lines of both views of a physical page. -/
def flushPage (m : MemSys) (page : Nat) : MemSys :=
  let ks := keysIn m (page * 512) 512 ++ keysIn m (page * 512 + viewBit / 128) 512
  ks.foldl writeBack m

/-- Write back the pages of a tensor's extent. -/
def flushExtent (m : MemSys) (t : Tht) (lo hi : Nat) : MemSys :=
  ((List.range (hi / 65536 + 1)).filter (fun p => decide (lo / 65536 ≤ p))).foldl (fun m p => flushPage m (listGet 0 t.oldp p)) m

/-- Read n bytes of an owning context page by page, poison apart: the bytes and, for each page, whether it was poisoned. -/
def qRead (ctx : Nat) : List W64 → State → Nat → List Byte × State
  | [], s, _ => ([], s)
  | va :: r, s, n =>
      let k := min n (65536 - va.toNat % 65536)
      match ctxTranslate s ctx va .read with
      | (.error _, s) => let (l, s) := qRead ctx r s (n - k); (zeros k ++ l, s)
      | (.ok x, s) =>
          let bs := sliceRead s.ms x.pa k
          let (l, s) := qRead ctx r { s with ms := sliceTouch s.ms x.pa k } (n - k)
          (bs ++ l, s)

/-- Page starts of a range: the address, then each later page's first byte. -/
def pieceStarts (va : W64) (n : Nat) : List W64 :=
  (List.range ((va.toNat % 65536 + n + 65535) / 65536)).map (fun i => if i = 0 then va else BitVec.ofNat 64 (va.toNat / 65536 * 65536 + 65536 * i))

/-- n bytes of an owning context hold poison. -/
def ctxPoison (s : State) (ctx : Nat) (va : W64) (n : Nat) : Bool :=
  (ctxRead s ctx va n).1.isNone && (pagesOf va n).all (pageRight s ctx .read)

/-- The engine of a command: that of its key tensor's stack, or the lowest-numbered free one where it has none. -/
def adeOf (s : State) (ctx : Nat) (c : List Byte) : Nat :=
  match ownTht s ctx (adK c) with
  | some t => t.stack.getD (((List.range 12).find? (fun n => (tblGet none s.ades n).isNone)).getD 0)
  | none => ((List.range 12).find? (fun n => (tblGet none s.ades n).isNone)).getD 0

/-- Begin a command on an engine. A head whose q holds poison is an affected head, as for a key or value line (R144; DESIGN CHOICE, log 96). -/
def adeBegin (s : State) (place node : Nat) (c : List Byte) (known : Option Nat) : State :=
  let ctx := (launchAt s place).ctx
  let n := adeOf s ctx c
  if (tblGet none s.ades n).isSome then s
  else
    let code := known.getD (adCheck s ctx c)
    let a : Ade := { launch := place, node := node, ctx := ctx, root := rootOf s ctx, key := keyOf s ctx, cmd := c, cause := code }
    let s := onNode s place node (fun x => { x with nextWid := 1, running := 1, part := none })
    let nd : Node := listGet {} (launchAt s place).nodes node
    let s := refill (demandOpnds nd.opnds s)
    if code = 0 then
      let kt := (ownTht s ctx (adK c)).getD {}
      let vt := (ownTht s ctx (adV c)).getD {}
      let s := { s with ms := flushExtent (flushExtent s.ms kt (field c 16 8) (adEnd c false - 1)) vt (field c 24 8) (adEnd c true - 1) }
      let len := 4 * adDim c
      let (q, s) := qRead ctx (pieceStarts (adQ c) (len * adHeads c)) s (len * adHeads c)
      let heads := (List.range (adHeads c)).map (fun h =>
        ({ o := List.replicate (adDim c) 0, poison := ctxPoison s ctx (adQ c + BitVec.ofNat 64 (len * h)) len } : AdeHead))
      { s with ades := tblSet none s.ades n (some { a with q := q, heads := heads }) }
    else { s with ades := tblSet none s.ades n (some a) }

/-- ADE_DISPATCH: the first ready STEM node whose engine is free is dispatched to it: the command is read and checked, dirty lines of its extents are
written back, and it begins (R140, R141, R374). A command that cannot be read ends XLATE or PROTECT, a poisoned one POISON (DESIGN CHOICE, log 31). -/
def execAdeDispatch (s : State) : Out :=
  .next (
    if !dispatchRuns s then s
    else
      let stem (c : Cand) : Bool := c.idx.isNone && (listGet {} (launchAt s c.place).nodes c.node).typ == 2
      let bytes (c : Cand) : Option (List Byte) := (ctxRead s (launchAt s c.place).ctx (listGet {} (launchAt s c.place).nodes c.node).argb 128).1
      let free (c : Cand) : Bool := (tblGet none s.ades (adeOf s (launchAt s c.place).ctx ((bytes c).getD (zeros 128)))).isNone
      match (candidates s).find? (fun c => stem c && free c) with
      | none => s
      | some c =>
          match bytes c with
          | some b => adeBegin s c.place c.node b none
          | none =>
              let va := (listGet {} (launchAt s c.place).nodes c.node).argb
              let code := match (ctxTranslate s (launchAt s c.place).ctx va .read).1 with | .error t => t.code | .ok _ => 7
              adeBegin s c.place c.node (zeros 128) (some code))

/-! ## A chunk (R39) -/

/-- n bytes of a tensor as the stack holds them, below the caches, with their poison. -/
def stackRead (m : MemSys) (t : Tht) (at_ n : Nat) : List Byte × Bool :=
  let byte (i : Nat) : Byte := cellByte m (tensorPa t (at_ + i))
  ((List.range n).map byte, (List.range n).any (fun i => memPoison m (tensorPa t (at_ + i))))

/-- The elements of a row, decoded exactly. -/
def rowElems (bs : List Byte) (w n : Nat) : List Fp :=
  (List.range n).map (fun i => if w = 2 then decBf16 (BitVec.ofNat 16 (field bs (2 * i) 2)) else decE4m3 (BitVec.ofNat 8 (field bs i 1)))

/-- TreeSum over 64 slots, absent ones −0.0 (R35, R39). -/
def treeSum (l : List W32) : W32 := tree f32Add 6 (l ++ List.replicate (64 - l.length) 0x80000000)

/-- One chunk of a head: the scores, the running maximum, sum and output (R39). `ks` and `vs` are the rows of the chunk's keys. -/
def adeChunk (scale : W32) (q : List Fp) (ks vs : List (List Fp)) (h : AdeHead) : AdeHead :=
  let score (k : List Fp) : W32 := f32Mul (encF32 (Fp.sum ((q.zip k).map (fun (p : Fp × Fp) => Fp.mul p.1 p.2)))) scale
  let sc := ks.map score
  let mn := sc.foldl f32Max h.m
  let inf : W32 := 0xFF800000
  let alpha : W32 := if mn = inf then 0x3F800000 else f32Exp2 (f32Sub h.m mn)
  let p : List W32 := if mn = inf then sc.map (fun _ => 0) else sc.map (fun x => f32Exp2 (f32Sub x mn))
  let l := f32Fma h.l alpha (treeSum p)
  let o := h.o.zipIdx.map (fun (e : W32 × Nat) =>
    f32Fma e.1 alpha (treeSum ((p.zip vs).map (fun (x : W32 × List Fp) => encF32 (Fp.mul (decF32 x.1) (listGet (.fin false 0 0) x.2 e.2))))))
  { h with m := mn, l := l, o := o }

/-- A command may take its next chunk: no suspend stops it (R145). -/
def adeMay (s : State) (a : Ade) : Bool := a.cause == 0 && !a.aborted && decide (a.head < adHeads a.cmd) && movesRun s

/-- The keys of the chunk in progress. -/
def chunkKeys (a : Ade) : List Nat :=
  (List.range 64).filterMap (fun i => if 64 * a.chunk + i < adKeys a.cmd then some (64 * a.chunk + i) else none)

/-- The 32-byte sectors of a row of the keys (false) or values. -/
def rowSectors (c : List Byte) (v : Bool) : Nat := adDim c * adBytes c v / 32

/-- The sectors that the chunk in progress reads, its rows of the keys before those of the values: of which of them each is, its tensor byte. -/
def chunkSectors (a : Ade) : List (Bool × Nat) :=
  ([false, true] : List Bool).flatMap (fun v => (chunkKeys a).flatMap (fun j =>
    (List.range (rowSectors a.cmd v)).map (fun i => (v, adAt a.cmd v a.head j + 32 * i))))

/-- Read one sector of the keys or values; of a tensor that is no longer registered the request is not performed, and supplies zeros (R102, R142, R469;
DESIGN CHOICE, log 111). -/
def sectorRead (s : State) (a : Ade) (e : Bool × Nat) : List Byte × Bool :=
  match ownTht s a.ctx (if e.1 then adV a.cmd else adK a.cmd) with
  | none => (zeros 32, false)
  | some t => stackRead s.ms t e.2 32

/-- How many of n sectors a turn takes: those of the choice's bytes, or all of them (R349). -/
def takeSectors (s : State) (n : Nat) : Nat := if 0 < s.choice.cut / 32 ∧ s.choice.cut / 32 < n then s.choice.cut / 32 else n

/-- Rows of the keys or values from their sectors, k each: the elements and whether one is poisoned. -/
def rowsOf (c : List Byte) (v : Bool) (n : Nat) (l : List (List Byte × Bool)) : List (List Fp) × Bool :=
  let k := rowSectors c v
  ((List.range n).map (fun i => rowElems (((l.drop (k * i)).take k).flatMap (fun x => x.1)) (adBytes c v) (adDim c)), (l.take (k * n)).any (fun x => x.2))

/-- The chunk in progress, whose sectors have all been read, takes its place in the head (R39, R144). -/
def chunkDone (a : Ade) (l : List (List Byte × Bool)) : Ade :=
  let c := a.cmd
  let n := (chunkKeys a).length
  let (ks, kbad) := rowsOf c false n l
  let (vs, vbad) := rowsOf c true n (l.drop (n * rowSectors c false))
  let q := (List.range (adDim c)).map (fun d => decF32 (BitVec.ofNat 32 (field a.q (4 * (a.head * adDim c + d)) 4)))
  let h := adeChunk (adScale c) q ks vs (listGet {} a.heads a.head)
  let last := decide (adKeys c ≤ 64 * (a.chunk + 1))
  { a with heads := listSet a.heads a.head { h with poison := h.poison || kbad || vbad }, got := []
           head := if last then a.head + 1 else a.head, chunk := if last then 0 else a.chunk + 1 }

/-- ADE_CHUNK_DONE: an engine reads the next sectors of the chunk in progress, and finishes it once it has them all (R39, R142, R144, R145, R349).
Choice: n, the stack; cut, the bytes that are read now where not all. -/
def execAdeChunkDone (s : State) : Out :=
  .next (
    match tblGet none s.ades s.choice.n with
    | none => s
    | some a =>
        if !adeMay s a then s
        else
          let left := (chunkSectors a).drop a.got.length
          let n := takeSectors s left.length
          let got := a.got ++ (left.take n).map (sectorRead s a)
          { s with ades := tblSet none s.ades s.choice.n (some (if n < left.length then { a with got := got } else chunkDone a got)) })

/-! ## Completion (R143, R144) -/

/-- Write bytes of a command's context within one line, with poison where it is to be left; the page table and keys are those of the dispatch, which a
context that has ended leaves to the record (R145). Where the page no longer translates at the completion, which no rule names, the write is dropped
(DESIGN CHOICE, log 113). -/
def adePut (s : State) (a : Ade) (va : W64) (bs : List Byte) (poison : Bool) : State :=
  match rootTranslate s a.root a.key va .write with
  | (.error _, s) => s
  | (.ok x, s) =>
      let m := sliceWrite s.ms x.pa bs
      { s with ms := if poison then slicePoisonMark m x.pa bs.length else m }

/-- The context of a head (R39). -/
def headOut (h : AdeHead) : List W32 := h.o.map (fun x => if h.l &&& 0x7FFFFFFF = 0 then 0 else f32Div x h.l)

/-- The 32-byte sectors of the contexts of every head. -/
def outSectors (a : Ade) : Nat := adHeads a.cmd * (adDim a.cmd / 8)

/-- Write n sectors of the contexts from sector k on, 8 elements each; those of an affected head with poison markers (R39, R143, R144, R349). -/
def writeHeads (s : State) (a : Ade) (k n : Nat) : State :=
  let per := adDim a.cmd / 8
  ((List.range n).map (fun i => k + i)).foldl (fun s i =>
    let hd := listGet {} a.heads (i / per)
    adePut s a (adO a.cmd + BitVec.ofNat 64 (32 * i)) (((headOut hd).drop (8 * (i % per))).take 8 |>.flatMap (fun w => leBytes 4 w.toNat)) hd.poison) s

/-- The status record (R143). -/
def adeRecord (st cause bad keys : Nat) (gtc : W64) : List Byte :=
  leBytes 1 st ++ leBytes 1 cause ++ leBytes 2 bad ++ leBytes 4 keys ++ leBytes 8 gtc.toNat

/-- The status record may be written: its address passes every check of R140. -/
def stOk (s : State) (a : Ade) : Bool :=
  adSt a.cmd != 0 && (adSt a.cmd).toNat % 16 == 0 &&
  (match (rootTranslate s a.root a.key (adSt a.cmd) .write).1 with | .ok x => x.enc != 1 | .error _ => false)

/-- The status of a command that ends (R143, R144, R145); one that fails a check of R140 is FAULTED, which no rule names (DESIGN CHOICE, log 93). -/
def adeStatus (a : Ade) : Nat :=
  if a.cause ≠ 0 then 6 else if a.aborted then 4 else if a.heads.any (fun h => h.poison) then 5 else 0

/-- The cause byte, and the launch's CAUSE: that of the check, 7 (POISON) of a command that met poison, else 0 (DESIGN CHOICE, log 94). -/
def adeCause (a : Ade) : Nat := if a.cause ≠ 0 then a.cause else if adeStatus a = 5 then 7 else 0

/-- The keys processed per head: all of them, or of a command that did not finish those of the head in progress (DESIGN CHOICE, log 95). -/
def adeKeys (a : Ade) : Nat := if a.cause ≠ 0 then 0 else if a.aborted then min (adKeys a.cmd) (64 * a.chunk) else adKeys a.cmd

/-- The command ends: its status record, then the completion that the Graph Unit alone sees (R143). -/
def adeEnd (s : State) (n : Nat) (a : Ade) : State :=
  let bad := (a.heads.filter (fun h => h.poison)).length
  let st := adeStatus a
  let s := if stOk s a then adePut s a (adSt a.cmd) (adeRecord st (adeCause a) bad (adeKeys a) s.gtc) false else s
  let s := { s with ades := tblSet none s.ades n none }
  let s := onNode s a.launch a.node (fun x => { x with running := 0 })
  if st = 0 then nodeDone s a.launch a.node else onLaunch s a.launch (fun l => nodeFault l a.node (adeCause a))

/-- ADE_COMPLETION: the command of a stack's engine has ended: it writes the next sectors of its contexts, and once they are written it is over (R143, R349).
Choice: n, the stack; cut, the bytes that are written now where not all. -/
def execAdeCompletion (s : State) : Out :=
  .next (
    match tblGet none s.ades s.choice.n with
    | none => s
    | some a =>
        if !((a.cause != 0 || a.aborted || decide (adHeads a.cmd ≤ a.head)) && movesRun s) then s
        else if adeStatus a = 0 ∨ adeStatus a = 5 then
          let left := outSectors a - a.out
          let n := takeSectors s left
          let s := writeHeads s a a.out n
          if n < left then { s with ades := tblSet none s.ades s.choice.n (some { a with out := a.out + n }) } else adeEnd s s.choice.n a
        else adeEnd s s.choice.n a)

end Sys2Proof.Machine
end

