-- ==== Sys2Proof/Machine/Dispatch.lean ====
section
/-! DEFINITION. The dispatch of every row of the opcode table to its meaning. -/

namespace Sys2Proof.Machine

def exec (i : Instr) (s : State) : Host.Outcome State Fault Refusal :=
  match i with
  | .nop g => Sys2Proof.Machine.execNop g s
  | .add g d a b => Sys2Proof.Machine.execAdd g d a b s
  | .sub g d a b => Sys2Proof.Machine.execSub g d a b s
  | .mul g d a b => Sys2Proof.Machine.execMul g d a b s
  | .mulh g d a b => Sys2Proof.Machine.execMulh g d a b s
  | .mulhu g d a b => Sys2Proof.Machine.execMulhu g d a b s
  | .div g d a b => Sys2Proof.Machine.execDiv g d a b s
  | .divu g d a b => Sys2Proof.Machine.execDivu g d a b s
  | .rem g d a b => Sys2Proof.Machine.execRem g d a b s
  | .remu g d a b => Sys2Proof.Machine.execRemu g d a b s
  | .and g d a b => Sys2Proof.Machine.execAnd g d a b s
  | .or g d a b => Sys2Proof.Machine.execOr g d a b s
  | .xor g d a b => Sys2Proof.Machine.execXor g d a b s
  | .andn g d a b => Sys2Proof.Machine.execAndn g d a b s
  | .shl g d a b => Sys2Proof.Machine.execShl g d a b s
  | .shr g d a b => Sys2Proof.Machine.execShr g d a b s
  | .sra g d a b => Sys2Proof.Machine.execSra g d a b s
  | .min g d a b => Sys2Proof.Machine.execMin g d a b s
  | .max g d a b => Sys2Proof.Machine.execMax g d a b s
  | .minu g d a b => Sys2Proof.Machine.execMinu g d a b s
  | .maxu g d a b => Sys2Proof.Machine.execMaxu g d a b s
  | .clz g d a => Sys2Proof.Machine.execClz g d a s
  | .popc g d a => Sys2Proof.Machine.execPopc g d a s
  | .sel g d a b x => Sys2Proof.Machine.execSel g d a b x s
  | .cmpeq g pd a b => Sys2Proof.Machine.execCmpeq g pd a b s
  | .cmpne g pd a b => Sys2Proof.Machine.execCmpne g pd a b s
  | .cmplt g pd a b => Sys2Proof.Machine.execCmplt g pd a b s
  | .cmple g pd a b => Sys2Proof.Machine.execCmple g pd a b s
  | .cmpltu g pd a b => Sys2Proof.Machine.execCmpltu g pd a b s
  | .cmpleu g pd a b => Sys2Proof.Machine.execCmpleu g pd a b s
  | .plog g pd pa pb tt => Sys2Proof.Machine.execPlog g pd pa pb tt s
  | .pmov g d a x => Sys2Proof.Machine.execPmov g d a x s
  | .addi g d a imm => Sys2Proof.Machine.execAddi g d a imm s
  | .andi g d a imm => Sys2Proof.Machine.execAndi g d a imm s
  | .ori g d a imm => Sys2Proof.Machine.execOri g d a imm s
  | .xori g d a imm => Sys2Proof.Machine.execXori g d a imm s
  | .shli g d a imm => Sys2Proof.Machine.execShli g d a imm s
  | .shri g d a imm => Sys2Proof.Machine.execShri g d a imm s
  | .srai g d a imm => Sys2Proof.Machine.execSrai g d a imm s
  | .sethi g d imm => Sys2Proof.Machine.execSethi g d imm s
  | .addpc g d imm => Sys2Proof.Machine.execAddpc g d imm s
  | .movi g d imm => Sys2Proof.Machine.execMovi g d imm s
  | .cmpeqi g pd a imm => Sys2Proof.Machine.execCmpeqi g pd a imm s
  | .cmplti g pd a imm => Sys2Proof.Machine.execCmplti g pd a imm s
  | .cmpltui g pd a imm => Sys2Proof.Machine.execCmpltui g pd a imm s
  | .ld g d a f => Sys2Proof.Machine.execLd g d a f s
  | .ldu g d a f => Sys2Proof.Machine.execLdu g d a f s
  | .st g a b f => Sys2Proof.Machine.execSt g a b f s
  | .ldfw g d a b c e off => Sys2Proof.Machine.execLdfw g d a b c e off s
  | .ldfe g d a b c e off => Sys2Proof.Machine.execLdfe g d a b c e off s
  | .stef g d a b c e off => Sys2Proof.Machine.execStef g d a b c e off s
  | .stff g a b off => Sys2Proof.Machine.execStff g a b off s
  | .purge g a off => Sys2Proof.Machine.execPurge g a off s
  | .tagrd g d a b off => Sys2Proof.Machine.execTagrd g d a b off s
  | .aadd g d a b f => Sys2Proof.Machine.execAadd g d a b f s
  | .amin g d a b f => Sys2Proof.Machine.execAmin g d a b f s
  | .amax g d a b f => Sys2Proof.Machine.execAmax g d a b f s
  | .aminu g d a b f => Sys2Proof.Machine.execAminu g d a b f s
  | .amaxu g d a b f => Sys2Proof.Machine.execAmaxu g d a b f s
  | .aand g d a b f => Sys2Proof.Machine.execAand g d a b f s
  | .aor g d a b f => Sys2Proof.Machine.execAor g d a b f s
  | .axor g d a b f => Sys2Proof.Machine.execAxor g d a b f s
  | .axchg g d a b f => Sys2Proof.Machine.execAxchg g d a b f s
  | .acas g d a b c f => Sys2Proof.Machine.execAcas g d a b c f s
  | .afadd g d a b f => Sys2Proof.Machine.execAfadd g d a b f s
  | .aincb g d a b c f => Sys2Proof.Machine.execAincb g d a b c f s
  | .fence g d b c e scope eng => Sys2Proof.Machine.execFence g d b c e scope eng s
  | .waitc g d c e ld st cp tl => Sys2Proof.Machine.execWaitc g d c e ld st cp tl s
  | .barr g d bar => Sys2Proof.Machine.execBarr g d bar s
  | .bwait g d c e bar => Sys2Proof.Machine.execBwait g d c e bar s
  | .bsync g d c e bar => Sys2Proof.Machine.execBsync g d c e bar s
  | .bwdr g d bar => Sys2Proof.Machine.execBwdr g d bar s
  | .bcfg g d b bar => Sys2Proof.Machine.execBcfg g d b bar s
  | .waitq g d a b c e off sz scope => Sys2Proof.Machine.execWaitq g d a b c e off sz scope s
  | .wake g d a b off sz scope => Sys2Proof.Machine.execWake g d a b off sz scope s
  | .qsend g d a b c e off scope => Sys2Proof.Machine.execQsend g d a b c e off scope s
  | .qrecv g d a b c e off scope => Sys2Proof.Machine.execQrecv g d a b c e off scope s
  | .ewait g d b c e fl => Sys2Proof.Machine.execEwait g d b c e fl s
  | .eadd g b fl => Sys2Proof.Machine.execEadd g b fl s
  | .evcfg g d a off rule => Sys2Proof.Machine.execEvcfg g d a off rule s
  | .fork g d a c mask rdv => Sys2Proof.Machine.execFork g d a c mask rdv s
  | .join g d c mask rdv => Sys2Proof.Machine.execJoin g d c mask rdv s
  | .epushRun g d a b c mask => Sys2Proof.Machine.execEpushRun g d a b c mask s
  | .epushSetf g d a b c mask => Sys2Proof.Machine.execEpushSetf g d a b c mask s
  | .epushWaitf g d a b c mask => Sys2Proof.Machine.execEpushWaitf g d a b c mask s
  | .sbind g d c e q t ch => Sys2Proof.Machine.execSbind g d c e q t ch s
  | .sfree g d q => Sys2Proof.Machine.execSfree g d q s
  | .halt g => Sys2Proof.Machine.execHalt g s
  | .br g disp => Sys2Proof.Machine.execBr g disp s
  | .call g disp => Sys2Proof.Machine.execCall g disp s
  | .callr g a => Sys2Proof.Machine.execCallr g a s
  | .jmpr g a => Sys2Proof.Machine.execJmpr g a s
  | .ret g => Sys2Proof.Machine.execRet g s
  | .loop g a lv len cnt => Sys2Proof.Machine.execLoop g a lv len cnt s
  | .loopq g k lv len => Sys2Proof.Machine.execLoopq g k lv len s
  | .lbrk g lv => Sys2Proof.Machine.execLbrk g lv s
  | .seam g d c e idx => Sys2Proof.Machine.execSeam g d c e idx s
  | .tlift g d a b x => Sys2Proof.Machine.execTlift g d a b x s
  | .tdrop g d a b x => Sys2Proof.Machine.execTdrop g d a b x s
  | .thome g d a => Sys2Proof.Machine.execThome g d a s
  | .spawn g d a => Sys2Proof.Machine.execSpawn g d a s
  | .rdcsr g d num => Sys2Proof.Machine.execRdcsr g d num s
  | .wrcsr g a num => Sys2Proof.Machine.execWrcsr g a num s
  | .frrctlCommit g a => Sys2Proof.Machine.execFrrctlCommit g a s
  | .frrselWrite g a => Sys2Proof.Machine.execFrrselWrite g a s
  | .xfinfoReplay g a => Sys2Proof.Machine.execXfinfoReplay g a s
  | .kqpush g a k => Sys2Proof.Machine.execKqpush g a k s
  | .tbctlEnableWrite g a => Sys2Proof.Machine.execTbctlEnableWrite g a s
  | .rdtime g d => Sys2Proof.Machine.execRdtime g d s
  | .rdctime g d => Sys2Proof.Machine.execRdctime g d s
  | .trap g num => Sys2Proof.Machine.execTrap g num s
  | .eret g => Sys2Proof.Machine.execEret g s
  | .tlbinv g a num => Sys2Proof.Machine.execTlbinv g a num s
  | .dcf g d a c e off => Sys2Proof.Machine.execDcf g d a c e off s
  | .cinv g a num => Sys2Proof.Machine.execCinv g a num s
  | .bkpt g num => Sys2Proof.Machine.execBkpt g num s
  | .snapbc g => Sys2Proof.Machine.execSnapbc g s
  | .vnop rpt => Sys2Proof.Machine.execVnop rpt s
  | .vaddI32 h vd va vb => Sys2Proof.Machine.execVaddI32 h vd va vb s
  | .vsubI32 h vd va vb => Sys2Proof.Machine.execVsubI32 h vd va vb s
  | .vmulI32 h vd va vb => Sys2Proof.Machine.execVmulI32 h vd va vb s
  | .vmulhI32 h vd va vb => Sys2Proof.Machine.execVmulhI32 h vd va vb s
  | .vminI32 h vd va vb => Sys2Proof.Machine.execVminI32 h vd va vb s
  | .vmaxI32 h vd va vb => Sys2Proof.Machine.execVmaxI32 h vd va vb s
  | .vminuI32 h vd va vb => Sys2Proof.Machine.execVminuI32 h vd va vb s
  | .vmaxuI32 h vd va vb => Sys2Proof.Machine.execVmaxuI32 h vd va vb s
  | .vand h vd va vb => Sys2Proof.Machine.execVand h vd va vb s
  | .vor h vd va vb => Sys2Proof.Machine.execVor h vd va vb s
  | .vxor h vd va vb => Sys2Proof.Machine.execVxor h vd va vb s
  | .vshl h vd va vb => Sys2Proof.Machine.execVshl h vd va vb s
  | .vshr h vd va vb => Sys2Proof.Machine.execVshr h vd va vb s
  | .vsra h vd va vb => Sys2Proof.Machine.execVsra h vd va vb s
  | .vaddsI32 h vd va vb => Sys2Proof.Machine.execVaddsI32 h vd va vb s
  | .vsubsI32 h vd va vb => Sys2Proof.Machine.execVsubsI32 h vd va vb s
  | .vaddI16x2 h vd va vb => Sys2Proof.Machine.execVaddI16x2 h vd va vb s
  | .vaddI8x4 h vd va vb => Sys2Proof.Machine.execVaddI8x4 h vd va vb s
  | .vdotI8x4 h vd va vb => Sys2Proof.Machine.execVdotI8x4 h vd va vb s
  | .vaddF32 h vd va vb => Sys2Proof.Machine.execVaddF32 h vd va vb s
  | .vsubF32 h vd va vb => Sys2Proof.Machine.execVsubF32 h vd va vb s
  | .vmulF32 h vd va vb => Sys2Proof.Machine.execVmulF32 h vd va vb s
  | .vfmaF32 h vd va vb => Sys2Proof.Machine.execVfmaF32 h vd va vb s
  | .vminF32 h vd va vb => Sys2Proof.Machine.execVminF32 h vd va vb s
  | .vmaxF32 h vd va vb => Sys2Proof.Machine.execVmaxF32 h vd va vb s
  | .vrcpF32 h vd va => Sys2Proof.Machine.execVrcpF32 h vd va s
  | .vrsqF32 h vd va => Sys2Proof.Machine.execVrsqF32 h vd va s
  | .vexp2F32 h vd va => Sys2Proof.Machine.execVexp2F32 h vd va s
  | .vlog2F32 h vd va => Sys2Proof.Machine.execVlog2F32 h vd va s
  | .vabsF32 h vd va => Sys2Proof.Machine.execVabsF32 h vd va s
  | .vnegF32 h vd va => Sys2Proof.Machine.execVnegF32 h vd va s
  | .vfmaBf16x2 h vd va vb => Sys2Proof.Machine.execVfmaBf16x2 h vd va vb s
  | .vmaxabsF32 h vd va vb => Sys2Proof.Machine.execVmaxabsF32 h vd va vb s
  | .vcmpeqI32 h md va vb => Sys2Proof.Machine.execVcmpeqI32 h md va vb s
  | .vcmpltI32 h md va vb => Sys2Proof.Machine.execVcmpltI32 h md va vb s
  | .vcmpltuI32 h md va vb => Sys2Proof.Machine.execVcmpltuI32 h md va vb s
  | .vcmpeqF32 h md va vb => Sys2Proof.Machine.execVcmpeqF32 h md va vb s
  | .vcmpltF32 h md va vb => Sys2Proof.Machine.execVcmpltF32 h md va vb s
  | .vcmpleF32 h md va vb => Sys2Proof.Machine.execVcmpleF32 h md va vb s
  | .vcmpunF32 h md va vb => Sys2Proof.Machine.execVcmpunF32 h md va vb s
  | .vmact md => Sys2Proof.Machine.execVmact md s
  | .vmlog h md tt ma mb => Sys2Proof.Machine.execVmlog h md tt ma mb s
  | .vsel h vd va vb => Sys2Proof.Machine.execVsel h vd va vb s
  | .vcvtF32I32 h vd va => Sys2Proof.Machine.execVcvtF32I32 h vd va s
  | .vcvtI32F32Rz h vd va => Sys2Proof.Machine.execVcvtI32F32Rz h vd va s
  | .vcvtI32F32Rne h vd va => Sys2Proof.Machine.execVcvtI32F32Rne h vd va s
  | .vcvtBf16F32 h vd va => Sys2Proof.Machine.execVcvtBf16F32 h vd va s
  | .vcvtF16F32 h vd va => Sys2Proof.Machine.execVcvtF16F32 h vd va s
  | .vcvtE4m3F32 h vd va => Sys2Proof.Machine.execVcvtE4m3F32 h vd va s
  | .vcvtE5m2F32 h vd va => Sys2Proof.Machine.execVcvtE5m2F32 h vd va s
  | .vcvtF32Bf16 h vd va => Sys2Proof.Machine.execVcvtF32Bf16 h vd va s
  | .vcvtF32F16 h vd va => Sys2Proof.Machine.execVcvtF32F16 h vd va s
  | .vcvtF32E4m3 h vd va => Sys2Proof.Machine.execVcvtF32E4m3 h vd va s
  | .vcvtF32E5m2 h vd va => Sys2Proof.Machine.execVcvtF32E5m2 h vd va s
  | .vcvtI8F32 h vd va => Sys2Proof.Machine.execVcvtI8F32 h vd va s
  | .vcvtF32I8 h vd va => Sys2Proof.Machine.execVcvtF32I8 h vd va s
  | .vqntE2m1 h vd va vb => Sys2Proof.Machine.execVqntE2m1 h vd va vb s
  | .vdqntE2m1 h vd va vb => Sys2Proof.Machine.execVdqntE2m1 h vd va vb s
  | .vredaddF32 h vd va => Sys2Proof.Machine.execVredaddF32 h vd va s
  | .vredmaxF32 h vd va => Sys2Proof.Machine.execVredmaxF32 h vd va s
  | .vredaddI32 h vd va => Sys2Proof.Machine.execVredaddI32 h vd va s
  | .vscanI32 h vd va => Sys2Proof.Machine.execVscanI32 h vd va s
  | .vperm h vd va vb => Sys2Proof.Machine.execVperm h vd va vb s
  | .vrot h vd va n => Sys2Proof.Machine.execVrot h vd va n s
  | .vbcast h vd va n => Sys2Proof.Machine.execVbcast h vd va n s
  | .viota h vd imm => Sys2Proof.Machine.execViota h vd imm s
  | .vmovi h vd imm => Sys2Proof.Machine.execVmovi h vd imm s
  | .vmov h vd va => Sys2Proof.Machine.execVmov h vd va s
  | .vld h vd ab off => Sys2Proof.Machine.execVld h vd ab off s
  | .vst h vd ab off => Sys2Proof.Machine.execVst h vd ab off s
  | .vldfw h vd ab off => Sys2Proof.Machine.execVldfw h vd ab off s
  | .vstef h vd ab off => Sys2Proof.Machine.execVstef h vd ab off s
  | .vgath h vd va => Sys2Proof.Machine.execVgath h vd va s
  | .vscat h vd va => Sys2Proof.Machine.execVscat h vd va s
  | .vdefer h va c => Sys2Proof.Machine.execVdefer h va c s
  | .vdrain h vd c => Sys2Proof.Machine.execVdrain h vd c s
  | .vseta n off => Sys2Proof.Machine.execVseta n off s
  | .vsetdl dl => Sys2Proof.Machine.execVsetdl dl s
  | .vsetf fl => Sys2Proof.Machine.execVsetf fl s
  | .vwaitf fl => Sys2Proof.Machine.execVwaitf fl s
  | .vrdv id => Sys2Proof.Machine.execVrdv id s
  | .vloop lev len trips => Sys2Proof.Machine.execVloop lev len trips s
  | .vloopq lev k len => Sys2Proof.Machine.execVloopq lev k len s
  | .mnop rpt => Sys2Proof.Machine.execMnop rpt s
  | .mlvl lv role trip => Sys2Proof.Machine.execMlvl lv role trip s
  | .mstra lv dim inc => Sys2Proof.Machine.execMstra lv dim inc s
  | .mstrb lv dim inc => Sys2Proof.Machine.execMstrb lv dim inc s
  | .mstrc lv dim inc => Sys2Proof.Machine.execMstrc lv dim inc s
  | .mbind opnd t unb => Sys2Proof.Machine.execMbind opnd t unb s
  | .mfmt fa fb mode spn blk acci bank => Sys2Proof.Machine.execMfmt fa fb mode spn blk acci bank s
  | .mhld hsz diag => Sys2Proof.Machine.execMhld hsz diag s
  | .mdrain rpt ch o dmode all => Sys2Proof.Machine.execMdrain rpt ch o dmode all s
  | .mzero z0 z1 => Sys2Proof.Machine.execMzero z0 z1 s
  | .msetf fl => Sys2Proof.Machine.execMsetf fl s
  | .mwaitf fl => Sys2Proof.Machine.execMwaitf fl s
  | .mrdv id => Sys2Proof.Machine.execMrdv id s
  | .msetdl dl => Sys2Proof.Machine.execMsetdl dl s
  | .xnop rpt => Sys2Proof.Machine.execXnop rpt s
  | .xcopy h td ts ch o tag => Sys2Proof.Machine.execXcopy h td ts ch o tag s
  | .xadd h td ts ch o => Sys2Proof.Machine.execXadd h td ts ch o s
  | .xgath h td ts ti ch o tag => Sys2Proof.Machine.execXgath h td ts ti ch o tag s
  | .xscat h td ts ti ch o => Sys2Proof.Machine.execXscat h td ts ti ch o s
  | .xfill h td ch o tag pw => Sys2Proof.Machine.execXfill h td ch o tag pw s
  | .xmove h t npg ch => Sys2Proof.Machine.execXmove h t npg ch s
  | .xstrm q t ch => Sys2Proof.Machine.execXstrm q t ch s
  | .xtsrld rpt t ch pw => Sys2Proof.Machine.execXtsrld rpt t ch pw s
  | .xpatch h t fld add ch pw => Sys2Proof.Machine.execXpatch h t fld add ch pw s
  | .xroute ts tq ch rat => Sys2Proof.Machine.execXroute ts tq ch rat s
  | .xrret h ts ring ch o => Sys2Proof.Machine.execXrret h ts ring ch o s
  | .xratRat n ch pw => Sys2Proof.Machine.execXratRat n ch pw s
  | .xratRing n ch pw => Sys2Proof.Machine.execXratRing n ch pw s
  | .xrcloseClose ring ch => Sys2Proof.Machine.execXrcloseClose ring ch s
  | .xrcloseRelease ring ch => Sys2Proof.Machine.execXrcloseRelease ring ch s
  | .xcoll rpt ch pw => Sys2Proof.Machine.execXcoll rpt ch pw s
  | .xdcf h t ch => Sys2Proof.Machine.execXdcf h t ch s
  | .xsetf fl => Sys2Proof.Machine.execXsetf fl s
  | .xwaitf fl => Sys2Proof.Machine.execXwaitf fl s
  | .xrdv id => Sys2Proof.Machine.execXrdv id s
  | .xsetdl dl => Sys2Proof.Machine.execXsetdl dl s
  | .xloop lev len trips => Sys2Proof.Machine.execXloop lev len trips s
  | .xloopq lev k len => Sys2Proof.Machine.execXloopq lev k len s
  | .illegalOpcode sq w => Sys2Proof.Machine.execIllegalOpcode sq w s
  | .vend => Sys2Proof.Machine.execVend s
  | .mgo => Sys2Proof.Machine.execMgo s
  | .mend => Sys2Proof.Machine.execMend s
  | .xend => Sys2Proof.Machine.execXend s
  | .loadReply => Sys2Proof.Machine.execLoadReply s
  | .sliceServiceEvent => Sys2Proof.Machine.execSliceServiceEvent s
  | .ruleFiring => Sys2Proof.Machine.execRuleFiring s
  | .loopqExpiry => Sys2Proof.Machine.execLoopqExpiry s
  | .seamInstant => Sys2Proof.Machine.execSeamInstant s
  | .ksrWriteDone => Sys2Proof.Machine.execKsrWriteDone s
  | .handoverCommit => Sys2Proof.Machine.execHandoverCommit s
  | .handoverPolicy => Sys2Proof.Machine.execHandoverPolicy s
  | .gatherLaneArrival => Sys2Proof.Machine.execGatherLaneArrival s
  | .irbLanding => Sys2Proof.Machine.execIrbLanding s
  | .streamRowArrival => Sys2Proof.Machine.execStreamRowArrival s
  | .streamTimeout => Sys2Proof.Machine.execStreamTimeout s
  | .tagWaitExpiry => Sys2Proof.Machine.execTagWaitExpiry s
  | .gatherWaitExpiry => Sys2Proof.Machine.execGatherWaitExpiry s
  | .vsetaExpiry => Sys2Proof.Machine.execVsetaExpiry s
  | .queueLoopExpiry => Sys2Proof.Machine.execQueueLoopExpiry s
  | .rendezvousStopExpiry => Sys2Proof.Machine.execRendezvousStopExpiry s
  | .reductionStart => Sys2Proof.Machine.execReductionStart s
  | .accumulatorRetirement => Sys2Proof.Machine.execAccumulatorRetirement s
  | .drainTileReadDone => Sys2Proof.Machine.execDrainTileReadDone s
  | .matrixWaitExpiry => Sys2Proof.Machine.execMatrixWaitExpiry s
  | .tileFetchReturn => Sys2Proof.Machine.execTileFetchReturn s
  | .addressQueueRequest => Sys2Proof.Machine.execAddressQueueRequest s
  | .copyCommandCompletion => Sys2Proof.Machine.execCopyCommandCompletion s
  | .commandWaitExpiry => Sys2Proof.Machine.execCommandWaitExpiry s
  | .engineRun => Sys2Proof.Machine.execEngineRun s
  | .setfCommand => Sys2Proof.Machine.execSetfCommand s
  | .waitfCommand => Sys2Proof.Machine.execWaitfCommand s
  | .waitfCommandExpiry => Sys2Proof.Machine.execWaitfCommandExpiry s
  | .deadlineExpiry => Sys2Proof.Machine.execDeadlineExpiry s
  | .moveClaim => Sys2Proof.Machine.execMoveClaim s
  | .pageCommit => Sys2Proof.Machine.execPageCommit s
  | .moveFinalCommit => Sys2Proof.Machine.execMoveFinalCommit s
  | .claimPass => Sys2Proof.Machine.execClaimPass s
  | .heldWriteExpiry => Sys2Proof.Machine.execHeldWriteExpiry s
  | .demandHalving => Sys2Proof.Machine.execDemandHalving s
  | .adeDispatch => Sys2Proof.Machine.execAdeDispatch s
  | .adeChunkDone => Sys2Proof.Machine.execAdeChunkDone s
  | .adeCompletion => Sys2Proof.Machine.execAdeCompletion s
  | .placementArrival => Sys2Proof.Machine.execPlacementArrival s
  | .answerArrival => Sys2Proof.Machine.execAnswerArrival s
  | .returnArrival => Sys2Proof.Machine.execReturnArrival s
  | .xrouteDeadlineExpiry => Sys2Proof.Machine.execXrouteDeadlineExpiry s
  | .windowAutoClose => Sys2Proof.Machine.execWindowAutoClose s
  | .wcFlush => Sys2Proof.Machine.execWcFlush s
  | .launchDoorbell => Sys2Proof.Machine.execLaunchDoorbell s
  | .launchAccept => Sys2Proof.Machine.execLaunchAccept s
  | .dispatch => Sys2Proof.Machine.execDispatch s
  | .overlayLoadDone => Sys2Proof.Machine.execOverlayLoadDone s
  | .kernelEntry => Sys2Proof.Machine.execKernelEntry s
  | .bootMailboxWrite => Sys2Proof.Machine.execBootMailboxWrite s
  | .preemptRequest => Sys2Proof.Machine.execPreemptRequest s
  | .preemptStop => Sys2Proof.Machine.execPreemptStop s
  | .imageSaveDone => Sys2Proof.Machine.execImageSaveDone s
  | .restore => Sys2Proof.Machine.execRestore s
  | .completionRecord => Sys2Proof.Machine.execCompletionRecord s
  | .gangArm => Sys2Proof.Machine.execGangArm s
  | .gangAckArrival => Sys2Proof.Machine.execGangAckArrival s
  | .gangDeadlineExpiry => Sys2Proof.Machine.execGangDeadlineExpiry s
  | .gangAbortMessage => Sys2Proof.Machine.execGangAbortMessage s
  | .interrupt => Sys2Proof.Machine.execInterrupt s
  | .uncorrectableError => Sys2Proof.Machine.execUncorrectableError s
  | .unitRetire => Sys2Proof.Machine.execUnitRetire s
  | .preciseStop => Sys2Proof.Machine.execPreciseStop s
  | .traceTrigger => Sys2Proof.Machine.execTraceTrigger s
  | .hostRead => Sys2Proof.Machine.execHostRead s
  | .hostWrite => Sys2Proof.Machine.execHostWrite s
  | .bar0RegisterWrite => Sys2Proof.Machine.execBar0RegisterWrite s
  | .hcqerrOverrunClear => Sys2Proof.Machine.execHcqerrOverrunClear s
  | .createContext => Sys2Proof.Machine.execCreateContext s
  | .destroyContext => Sys2Proof.Machine.execDestroyContext s
  | .register => Sys2Proof.Machine.execRegister s
  | .deregister => Sys2Proof.Machine.execDeregister s
  | .suspend => Sys2Proof.Machine.execSuspend s
  | .suspendStart => Sys2Proof.Machine.execSuspendStart s
  | .suspendMessage => Sys2Proof.Machine.execSuspendMessage s
  | .collectiveQuiesceExpiry => Sys2Proof.Machine.execCollectiveQuiesceExpiry s
  | .resume => Sys2Proof.Machine.execResume s
  | .attest => Sys2Proof.Machine.execAttest s
  | .lctoken => Sys2Proof.Machine.execLctoken s
  | .recover => Sys2Proof.Machine.execRecover s
  | .debugStop => Sys2Proof.Machine.execDebugStop s
  | .debugResume => Sys2Proof.Machine.execDebugResume s
  | .debugRead => Sys2Proof.Machine.execDebugRead s
  | .debugTrace => Sys2Proof.Machine.execDebugTrace s
  | .setdev => Sys2Proof.Machine.execSetdev s
  | .readst => Sys2Proof.Machine.execReadst s
  | .flitArrival => Sys2Proof.Machine.execFlitArrival s
  | .collectivePieceArrival => Sys2Proof.Machine.execCollectivePieceArrival s
  | .portTraining => Sys2Proof.Machine.execPortTraining s
  | .timeSync => Sys2Proof.Machine.execTimeSync s
  | .powerWindow => Sys2Proof.Machine.execPowerWindow s
  | .railPointChange => Sys2Proof.Machine.execRailPointChange s
  | .thermalSweep => Sys2Proof.Machine.execThermalSweep s
  | .reset => Sys2Proof.Machine.execReset s
  | .flagWaitExpiry => Sys2Proof.Machine.execFlagWaitExpiry s
  | .slotLoadCompletion => Sys2Proof.Machine.execSlotLoadCompletion s
  | .slotWriteExpiry => Sys2Proof.Machine.execSlotWriteExpiry s
  | .parameterWordArrival => Sys2Proof.Machine.execParameterWordArrival s
  | .streamBindExpiry => Sys2Proof.Machine.execStreamBindExpiry s
  | .ratBusyWaitExpiry => Sys2Proof.Machine.execRatBusyWaitExpiry s
  | .countQueueRoomExpiry => Sys2Proof.Machine.execCountQueueRoomExpiry s
  | .l2LineEviction => Sys2Proof.Machine.execL2LineEviction s
  | .hostWriteAcknowledgement => Sys2Proof.Machine.execHostWriteAcknowledgement s
  | .imagePublication => Sys2Proof.Machine.execImagePublication s
  | .imageUnload => Sys2Proof.Machine.execImageUnload s

end Sys2Proof.Machine
end

