-- ==== Sys2Proof/Machine/Sched.lean ====
section
/-! DEFINITION. What one turn does: the fetch, the decoding and the issue of a sequencer's next word (spec/03 R44, R55, R57, spec/14
R288, spec/04 R92), an event, a tick of time (spec/01 R13); and the activities the machine takes up where no turn is listed (DESIGN CHOICE, log 1). -/

namespace Sys2Proof.Machine

/-- One tick of an executor (R13). -/
def tickCore (c : Core) : Core := if clockRuns c then { c with ctc := c.ctc + 1 } else c

/-- The registers that a register-only word names, for the words that may issue while a reply is outstanding (R472); none for a
word with another effect, which waits for the reply. -/
def heldRegs : Instr → Option (List Reg)
  | .nop _ => some []
  | .add _ d a b => some [d, a, b]
  | .sub _ d a b => some [d, a, b]
  | .mul _ d a b => some [d, a, b]
  | .mulh _ d a b => some [d, a, b]
  | .mulhu _ d a b => some [d, a, b]
  | .div _ d a b => some [d, a, b]
  | .divu _ d a b => some [d, a, b]
  | .rem _ d a b => some [d, a, b]
  | .remu _ d a b => some [d, a, b]
  | .and _ d a b => some [d, a, b]
  | .or _ d a b => some [d, a, b]
  | .xor _ d a b => some [d, a, b]
  | .andn _ d a b => some [d, a, b]
  | .shl _ d a b => some [d, a, b]
  | .shr _ d a b => some [d, a, b]
  | .sra _ d a b => some [d, a, b]
  | .min _ d a b => some [d, a, b]
  | .max _ d a b => some [d, a, b]
  | .minu _ d a b => some [d, a, b]
  | .maxu _ d a b => some [d, a, b]
  | .clz _ d a => some [d, a]
  | .popc _ d a => some [d, a]
  | .sel _ d a b _ => some [d, a, b]
  | .cmpeq _ _ a b => some [a, b]
  | .cmpne _ _ a b => some [a, b]
  | .cmplt _ _ a b => some [a, b]
  | .cmple _ _ a b => some [a, b]
  | .cmpltu _ _ a b => some [a, b]
  | .cmpleu _ _ a b => some [a, b]
  | .plog _ _ _ _ _ => some []
  | .pmov _ d a _ => some [d, a]
  | .addi _ d a _ => some [d, a]
  | .andi _ d a _ => some [d, a]
  | .ori _ d a _ => some [d, a]
  | .xori _ d a _ => some [d, a]
  | .shli _ d a _ => some [d, a]
  | .shri _ d a _ => some [d, a]
  | .srai _ d a _ => some [d, a]
  | .sethi _ d _ => some [d]
  | .addpc _ d _ => some [d]
  | .movi _ d _ => some [d]
  | .cmpeqi _ _ a _ => some [a]
  | .cmplti _ _ a _ => some [a]
  | .cmpltui _ _ a _ => some [a]
  | .rdtime _ d => some [d]
  | .rdctime _ d => some [d]
  | _ => none

/-- A control word stalls while a reply is outstanding, unless it is a register-only word that does not name the reply's
destination (R288, R472). -/
def stalls (c : Core) (i : Instr) : Bool :=
  match c.pend with
  | none => false
  | some p => (match heldRegs i with | none => true | some rs => rs.any (fun r => r == p.d))

/-- The scalar registers that a word reads where its guard holds. -/
def regReads : Instr → List Reg
  | .add _ _ a b => [a, b]
  | .sub _ _ a b => [a, b]
  | .mul _ _ a b => [a, b]
  | .mulh _ _ a b => [a, b]
  | .mulhu _ _ a b => [a, b]
  | .div _ _ a b => [a, b]
  | .divu _ _ a b => [a, b]
  | .rem _ _ a b => [a, b]
  | .remu _ _ a b => [a, b]
  | .and _ _ a b => [a, b]
  | .or _ _ a b => [a, b]
  | .xor _ _ a b => [a, b]
  | .andn _ _ a b => [a, b]
  | .shl _ _ a b => [a, b]
  | .shr _ _ a b => [a, b]
  | .sra _ _ a b => [a, b]
  | .min _ _ a b => [a, b]
  | .max _ _ a b => [a, b]
  | .minu _ _ a b => [a, b]
  | .maxu _ _ a b => [a, b]
  | .clz _ _ a => [a]
  | .popc _ _ a => [a]
  | .sel _ _ a b _ => [a, b]
  | .cmpeq _ _ a b => [a, b]
  | .cmpne _ _ a b => [a, b]
  | .cmplt _ _ a b => [a, b]
  | .cmple _ _ a b => [a, b]
  | .cmpltu _ _ a b => [a, b]
  | .cmpleu _ _ a b => [a, b]
  | .pmov _ _ a x => if x = 0 then [] else [a]
  | .addi _ _ a _ => [a]
  | .andi _ _ a _ => [a]
  | .ori _ _ a _ => [a]
  | .xori _ _ a _ => [a]
  | .shli _ _ a _ => [a]
  | .shri _ _ a _ => [a]
  | .srai _ _ a _ => [a]
  | .cmpeqi _ _ a _ => [a]
  | .cmplti _ _ a _ => [a]
  | .cmpltui _ _ a _ => [a]
  | .ld _ _ a _ => [a]
  | .ldu _ _ a _ => [a]
  | .st _ a b _ => [a, b]
  | .ldfw _ _ a _ c _ _ => [a, c]
  | .ldfe _ _ a _ c _ _ => [a, c]
  | .stef _ _ a b c _ _ => [a, b, c]
  | .stff _ a b _ => [a, b]
  | .purge _ a _ => [a]
  | .tagrd _ _ a _ _ => [a]
  | .aadd _ _ a b _ => [a, b]
  | .amin _ _ a b _ => [a, b]
  | .amax _ _ a b _ => [a, b]
  | .aminu _ _ a b _ => [a, b]
  | .amaxu _ _ a b _ => [a, b]
  | .aand _ _ a b _ => [a, b]
  | .aor _ _ a b _ => [a, b]
  | .axor _ _ a b _ => [a, b]
  | .axchg _ _ a b _ => [a, b]
  | .acas _ _ a b c _ => [a, b, c]
  | .afadd _ _ a b _ => [a, b]
  | .aincb _ _ a b c _ => [a, b, c]
  | .fence _ _ _ c _ _ _ => [c]
  | .waitc _ _ c _ _ _ _ _ => [c]
  | .bwait _ _ c _ _ => [c]
  | .bsync _ _ c _ _ => [c]
  | .bcfg _ _ b _ => [b]
  | .waitq _ _ a b c _ _ _ _ => [a, b, c]
  | .wake _ _ a b _ _ _ => [a, b]
  | .qsend _ _ a b c _ _ _ => [a, b, c]
  | .qrecv _ _ a _ c _ _ _ => [a, c]
  | .ewait _ _ b c _ _ => [b, c]
  | .eadd _ b _ => [b]
  | .evcfg _ _ a _ _ => [a]
  | .fork _ _ a c _ _ => [a, c]
  | .join _ _ c _ _ => [c]
  | .epushRun _ _ a b c _ => [a, b, c]
  | .epushSetf _ _ a b c _ => [a, b, c]
  | .epushWaitf _ _ a b c _ => [a, b, c]
  | .sbind _ _ c _ _ _ _ => [c]
  | .callr _ a => [a]
  | .jmpr _ a => [a]
  | .ret _ => [lk]
  | .loop _ a _ _ _ => [a]
  | .seam _ _ c _ _ => [c]
  | .tlift _ _ a b _ => [a, b]
  | .tdrop _ _ a b _ => [a, b]
  | .thome _ _ a => [a]
  | .spawn _ _ a => [a]
  | .wrcsr _ a _ => [a]
  | .frrctlCommit _ a => [a]
  | .frrselWrite _ a => [a]
  | .xfinfoReplay _ a => [a]
  | .kqpush _ a _ => [a]
  | .tbctlEnableWrite _ a => [a]
  | .tlbinv _ a _ => [a]
  | .dcf _ _ a c _ _ => [a, c]
  | .cinv _ a _ => [a]
  | _ => []

/-- The predicates that a word reads where its guard holds, its guard's own apart. -/
def predReads : Instr → List (BitVec 4)
  | .sel _ _ _ _ x => [x]
  | .plog _ _ pa pb _ => [pa, pb]
  | .pmov _ _ _ x => if x = 0 then (List.range 15).map (BitVec.ofNat 4) else []
  | _ => []

/-- A scalar register is poisoned; s0 is not a register that can be. -/
def sBad (c : Ctl) (r : Reg) : Bool := r != 0 && c.bad.getLsbD r.toNat

/-- A predicate is poisoned; p15 is not a register that can be. -/
def pBad (c : Ctl) (p : BitVec 4) : Bool := p != 15 && c.badp.getLsbD p.toNat

/-- The word with guard g reads a poisoned register: its guard's predicate, or an operand where the guard holds (R406). -/
def meetsPoison (c : Ctl) (g : Guard) (i : Instr) : Bool :=
  pBad c g.pr || (guardOk c g && ((regReads i).any (sBad c) || (predReads i).any (pBad c)))

/-- The trap of a fetch at a pc outside every CTRL section (R92, R293). -/
def fetchTrap (pc : W64) : Trap := xlFault 2 pc .control .fetch 0

/-- The word at the pc issues: the debug trigger on its address (R439). -/
def issuing (s : State) : State := if trcOn (me s) then onMe s (fun c => trigger c 1 c.ctl.pc) else s

/-- The cycles for which a word that reads registers rs waits for their results. -/
def lateFor (c : Ctl) (rs : List Reg) : Nat := (c.late.filter (fun e => rs.contains e.1)).foldl (fun n e => max n e.2) 0

/-- A cycle has passed since the last word issued, and a word with guard g that reads a result which is not available yet stalls until it is: a STALL
record of REASON 1 with the stall's length (R288, R436; log 32). -/
def interlock (g : Guard) (i : Instr) (s : State) : State :=
  onMe s (fun c =>
    let c := { c with ctl := c.ctl.passes 1 }
    let n := if guardOk c.ctl g then lateFor c.ctl (regReads i) else 0
    if n = 0 then c else let c := slogAt s.ex.val c .control 2 1 c.ccycle (BitVec.ofNat 64 n); { c with ctl := c.ctl.passes n })

/-- The state in which a word that does not wait already issues. -/
def atIssue (g : Guard) (i : Instr) (s : State) : State := if waits s then issuing s else issuing (interlock g i s)

/-- Issue a decoded control word: it stalls behind a reply (R472), and until the results that it reads are available (R288); it traps POISON, TVAL zero,
where it reads a poisoned register and does not wait already (R406); else it executes. -/
def issueWord (w : W64) (i : Instr) (s : State) : Out :=
  let c := me s
  if stalls c i then .next s
  else if c.cwait.isNone && meetsPoison c.ctl (Dec.fG w) i then .next (if c.pend.isSome then s else trapControl (atIssue (Dec.fG w) i s) (.poison 0))
  else exec (epushRow c i) (atIssue (Dec.fG w) i s)

/-! ## Stalls in the schedule log (R288, R436; DESIGN CHOICE, log 32) -/

/-- The stall of a sequencer that has begun: its REASON and slot. -/
def stallOf (c : Core) (sq : Seq) : Option (Nat × Nat) := (c.dbg.stall.find? (fun x => x.1 == sq)).map (fun x => x.2)

/-- A sequencer stalls, or stalls no more. -/
def setStall (c : Core) (sq : Seq) (x : Option (Nat × Nat)) : Core :=
  { c with dbg := { c.dbg with stall := c.dbg.stall.filter (fun y => y.1 != sq) ++ (x.map (fun y => (sq, y))).toList } }

/-- The STALL record at the end of a stall; its length is open. -/
def stallEnds (ex : Nat) (c : Core) (sq : Seq) (x : Nat × Nat) : Core :=
  let c := slogAt ex (setStall c sq none) sq 2 x.1 x.2 (Config.stallCycles ex c.dbg.stalled)
  { c with dbg := { c.dbg with stalled := c.dbg.stalled + 1 } }

/-- After a turn of a sequencer: it stalls for this REASON, in the slot of the stall it has begun where it has. -/
def stallsOn (s : State) (sq : Seq) (r : Nat) : State :=
  onMe s (fun c => setStall c sq (some ((stallOf c sq).getD (r, cycleOf c sq))))

/-- Run a sequencer's turn, its stalls noted while the schedule log is on: a stall goes on while `held` gives a REASON for it after the turn, and its
record stands before what the turn does where it ends. -/
def noting (sq : Seq) (held : State → State → Option Nat) (run : State → Out) (s : State) : Out :=
  if !slogOn (me s) then run s
  else
    match run s with
    | .next t =>
        match held s t with
        | some r => .next (stallsOn t sq r)
        | none =>
            match stallOf (me s) sq with
            | none => .next t
            | some x => run (onMe s (fun c => stallEnds s.ex.val c sq x))
    | o => o

/-- The REASON of a control word's wait; an EWAIT's is a flag wait (R436). -/
def waitReason (k : WKind) : Option Nat :=
  match k with
  | .tagged _ _ _ => some 3
  | .push _ _ _ _ => some 6
  | .ewait _ _ => none
  | _ => some 10

/-- The control sequencer stalls after its turn: its word waits, or waits for a reply. -/
def controlHeld (t : State) : Option Nat :=
  let c := me t
  match c.cwait with
  | some w => waitReason w.kind
  | none =>
      if c.pend.isNone ∨ !controlRuns c then none
      else match imemWord c c.ctl.pc with
        | none => some 1
        | some w => match decodeControl w with
          | .error _ => some 1
          | .ok i => if stalls c i then some 1 else none

/-- The REASON for which an engine's word stalls; a flag word's stall is a flag wait (R436). -/
def engineReason (c : Core) (sq : Seq) (i : Instr) : Option Nat :=
  match i with
  | .vsetf _ => none
  | .msetf _ => none
  | .xsetf _ => none
  | .vwaitf _ => none
  | .mwaitf _ => none
  | .xwaitf _ => none
  | .vloopq _ _ _ => some 1
  | .xloopq _ _ _ => some 1
  | .xtsrld _ _ _ _ => some 1
  | .xpatch _ _ _ _ _ _ => some 1
  | .vgath _ _ _ => some 4
  | .vscat _ _ _ => some 4
  | .mdrain _ _ _ _ _ => some (if (oldestHeld c.mx).isSome then 6 else 8)
  | _ =>
      match sq with
      | .matrix => some 8
      | .copy => some 6
      | _ =>
          if (engOf c sq).wait.isNone then some 1
          else match (engOf c sq).wfor with
            | .stream _ => some 2
            | .tag => some 3
            | .gather _ _ => some 4
            | .param => some 9
            | .other => some 1

/-- An engine waits at its pacing: a change of its rail's point stalls it, or it is idle, a command waits and its gap has not passed (R299, R453). -/
def pacing (s : State) (sq : Seq) : Bool :=
  engineRuns (me s) && (pointStalls s sq || ((engOf (me s) sq).st == .idle && !(queueOf (me s) sq).isEmpty && paced s sq))

/-- An engine sequencer stalls after its turn: at its pacing, or the same repeat of the same word is still to issue. -/
def engineHeld (sq : Seq) (s t : State) : Option Nat :=
  let a := engOf (me s) sq
  let b := engOf (me t) sq
  if pacing t sq then some 7
  else if a.st = .running ∧ b.st = .running ∧ a.seg = b.seg ∧ a.widx = b.widx ∧ a.rep = b.rep ∧ engineRuns (me t) then
    match ememWord (me t) b.seg b.widx with
    | none => none
    | some w => match decodeEngine sq w with
      | .error _ => none
      | .ok i => engineReason (me t) sq i
  else none

/-- The word at the pc: fetch, decode, issue (R44, R73, R288). -/
def controlWord (s : State) : Out :=
  let c := me s
  match imemWord c c.ctl.pc with
  | none => if c.pend.isSome then .next s else .next (trapControl s (fetchTrap c.ctl.pc))
  | some w =>
      match decodeControl w with
      | .error _ => if c.pend.isSome then .next s else exec (.illegalOpcode .control w) s
      | .ok i => issueWord w i s

/-- A turn of the control sequencer has ended in a synchronous trap. -/
def trapped (s : State) (o : Out) : Bool := match o with | .next t => !(me s).csr.sup && (me t).csr.sup | _ => false

/-- The next control word of the executor. At a boundary, the trap at which an engine is frozen is taken first, then a synchronous trap of the word, and then
the interrupt (R395, R396, R409). -/
def controlTurn (s : State) : Out :=
  let c := me s
  if (frozenEngine c).isSome && !holdsTraps c then .next (takeFrozen s)
  else if irqDue c then
    let o := controlWord s
    if trapped s o then o else exec .interrupt s
  else controlWord s

/-- An instance that is being killed is gone once each of its channels stands at a chunk boundary (R399, R409). -/
def killTurn (s : State) : State :=
  let c := me s
  if !c.run.dstop && chanStops c 0 && chanStops c 1 && chanStops c 2 && chanStops c 3 then killNow s c.run.cause else s

/-- The turn of the control sequencer. -/
def stepControl (s : State) : Out :=
  if (me s).run.live && (me s).run.st == .killing then .next (killTurn s)
  else if !controlRuns (me s) then .next s
  else noting .control (fun _ t => controlHeld t) controlTurn s

/-- The next repeat of a running engine sequencer: fetch, decode, issue (R55, R57, R73). A fetch past the engine's section raises ILLEGAL with TVAL 0,
as no word stands there (DESIGN CHOICE, log 100). -/
def engineWord (sq : Seq) (s : State) : Out :=
  let e := engOf (me s) sq
  match ememWord (me s) e.seg e.widx with
  | none => exec (.illegalOpcode sq 0) s
  | some w =>
      match decodeEngine sq w with
      | .error _ => exec (.illegalOpcode sq (w.setWidth 64)) s
      | .ok i => exec i s

/-- What an engine sequencer does at its turn: nothing while a change of its rail's point stalls it, the trap at which it is frozen, its next repeat, a
rendezvous stop, the end of an abandoned segment, a WAITF command (R298, R305, R306, R327, R397, R453). -/
def engineTurn (sq : Seq) (s : State) : Out :=
  if pointStalls s sq then .next s
  else if (engOf (me s) sq).trap.isSome then .next (takeFrozen s)
  else
  match (engOf (me s) sq).st with
  | .idle => .next s
  | .running => engineWord sq s
  | .stopped => .next (stoppedTurn s sq)
  | .ending => .next (endingTurn s sq)
  | .waitf fl => .next (waitfTurn s sq fl)

/-- The turn of an engine sequencer. -/
def stepEngine (sq : Seq) (s : State) : Out :=
  if sq = .control ∨ !engineRuns (me s) then .next s else noting sq (engineHeld sq) (engineTurn sq) s

/-- The rows by which a wait's deadline passes: they are taken as a tick ends, after every event of the tick (R317). -/
def isExpiry (i : Instr) : Bool :=
  match i with
  | .deadlineExpiry => true
  | .loopqExpiry => true
  | .tagWaitExpiry => true
  | .gatherWaitExpiry => true
  | .vsetaExpiry => true
  | .queueLoopExpiry => true
  | .rendezvousStopExpiry => true
  | .matrixWaitExpiry => true
  | .commandWaitExpiry => true
  | .waitfCommandExpiry => true
  | .heldWriteExpiry => true
  | .xrouteDeadlineExpiry => true
  | .flagWaitExpiry => true
  | .slotWriteExpiry => true
  | .streamBindExpiry => true
  | .ratBusyWaitExpiry => true
  | .countQueueRoomExpiry => true
  | _ => false

/-- The row is an event that a turn can be, not a word that a sequencer fetches, nor the effect of an illegal one, nor an expiry. -/
def isEvent (i : Instr) : Bool :=
  match i with
  | .illegalOpcode _ _ => false
  | i => !isExpiry i && (match encode i with | .event => true | _ => false)

/-- The sequencers of an executor that wait test their conditions once more as the tick ends, and expire (R317, R319). -/
def closeWaits (s : State) : State :=
  let s := if waits s then after s (stepControl s) else s
  ([.vector, .matrix, .copy] : List Seq).foldl (fun s sq => if (engOf (me s) sq).wait.isSome then after s (stepEngine sq s) else s) s

/-- The expiry rows of the nest, the slot loads, the channels and the reassembly tables of an executor. -/
def closeRows (s : State) : State :=
  let run (s : State) (i : Instr) (n : Nat) : State := after s (exec i { s with choice := { n := n } })
  let s := run (run s .matrixWaitExpiry 0) .slotWriteExpiry 0
  let s := (List.range 4).foldl (fun s n => run (run (run (run s .commandWaitExpiry n) .heldWriteExpiry n) .ratBusyWaitExpiry n) .countQueueRoomExpiry n) s
  (List.range 16).foldl (fun s n => run s .xrouteDeadlineExpiry n) s

/-- The tick ends at executor n. -/
def closeEx (s : State) (n : Nat) : State :=
  let s := { s with ex := Fin.ofNat 288 n }
  if (me s).run.live then closeRows (closeWaits s) else s

/-- The claims of the copy channels whose wait for an unpin is over pass (R116, R317). -/
def closeClaims (s : State) : State := s.tht.foldl (fun t (e : Nat × Option Tht) => after t (exec .claimPass { t with choice := { n := e.1 } })) s

/-- One tick of the Global Time Counter: what waits is judged after every event of the tick, then the clocks go on (R13, R317). -/
def tick (s : State) : State :=
  let t := asTickEnds s (fun s => closeClaims ((List.range 288).foldl closeEx s))
  { t with ex := s.ex, choice := s.choice, gtc := s.gtc + 1, cores := t.cores.map tickCore }

/-- Drain the oldest schedule-log record to the ring at SLBASE (R436, R437). -/
def drainLog (s : State) : State :=
  let c := me s
  match c.dbg.slbuf with
  | [] => s
  | r :: rest =>
      let size := 2 ^ (bits c.csrd.slctl 3 0) * 4096
      let va := sext64 (c.csrd.slbase.extractLsb' 0 55) + BitVec.ofNat 64 (c.csrd.slhead.toNat * 16 % size)
      let s := onMe s (fun c => { c with dbg := { c.dbg with slbuf := rest }, csrd := { c.csrd with slhead := c.csrd.slhead + 1 } })
      (writeVa s va r .control).2

/-- The bank of a scratchpad byte: A[10:6] (R222). -/
def bankOfByte (a : Nat) : Nat := a / 64 % 32

/-- A waiter of an access waits for the tag of a word in a bank. -/
def tagLost (c : Core) (op : Nat → Bool) (bank : Nat) : Bool :=
  c.spad.waiters.any (fun t => op t.op && t.done.isNone && t.words.any (fun w => bankOfByte (8 * w) == bank && spTag c w != (t.op != 2 && t.op != 4)))

/-- The next reads of a core's copy commands and streams: the slot and the byte in it. -/
def copyReads (c : Core) : List (List Byte × Nat) :=
  ([0, 1, 2, 3] : List (Fin 4)).flatMap (fun i => (c.cp.ch.get i).flatMap (fun x =>
    if alone x || isDrain x || decide (unitsOf x ≤ x.rd) then []
    else match x.kind with
      | .fill _ _ => []
      | .xdcf => []
      | _ => (match (listGet [] (unitList x) x.rd)[x.run]? with
          | some r => [(x.ts, (srcOf x r (x.idx.getD (0, 0))).1)]
          | none => []))) ++
  (List.range 16).flatMap (fun q => match strmAt c q with
    | none => []
    | some x => if strmInFlight x = 0 then [] else (let (g, r) := strmRow x.slot (strmArrived x); [(x.slot, rowAddr x.slot g r 0)]))

/-- A tile fetch of operand x is ready at a bank of the own scratchpad. -/
def tileReady (c : Core) (x bank : Nat) : Bool :=
  match c.mx.red with
  | none => false
  | some r => tSpace (redSlot r x) == 2 && (match missingUnit c.mx r r.step with
      | none => false
      | some (y, u) => y == x && (match (tileRuns c.mx r x r.step)[u]? with
          | none => false
          | some run =>
              let g := originOf c.mx.active (redSlot r x) x (idxAt c.mx r.step)
              bankOfByte (elemN (redSlot r x) g run.row (coordAt (redSlot r x) g 0 run.e) / 2) == bank))

/-- A request of executor k, not yet served, that requester r of port 1 of a bank of executor ex is. -/
def reqReady (s : State) (k ex r bank : Nat) : Bool :=
  (coreAt s k).reqs.any (fun q => q.spad == some ex && bankOfByte q.pa == bank && portOf k ex q == r)

/-- Requester r of port 1 is ready at a bank of the executor (R225, R429). -/
def portReady (s : State) (r bank : Nat) : Bool :=
  let c := me s
  let ex := s.ex.val
  match r with
  | 0 => reqReady s ex ex 0 bank || (match c.pend with | some { kind := .load a _ _ _ _ true, .. } => bankOfByte a == bank | _ => false) ||
      c.spad.waiters.any (fun t => decide (t.op ≤ 2) && t.done.isNone && t.words.any (fun w => bankOfByte (8 * w) == bank) &&
        t.words.all (fun w => spTag c w == (t.op != 2)))
  | 3 => reqReady s ex ex 3 bank
  | 4 => (copyReads c).any (fun e => tSpace e.1 == 2 && bankOfByte e.2 == bank)
  | 5 => tileReady c 0 bank
  | 6 => tileReady c 1 bank
  | 7 => reqReady s ex ex 7 bank
  | 8 => (List.range 8).any (fun i =>
      let k := ex / 8 * 8 + i
      decide (ex < 256) && k != ex && (reqReady s k ex 8 bank ||
        (copyReads (coreAt s k)).any (fun e => tSpace e.1 == 3 && bankOfByte e.2 == bank && siblingOf { s with ex := Fin.ofNat 288 k } (tSib e.1) == some ex)))
  | _ => false

/-- The requester that port 1 of a bank serves next: the first that is ready after the one that it served last (R429). -/
def portNext (s : State) (bank : Nat) : Option Nat :=
  ((List.range 10).map (fun i => (tblGet 9 (me s).dbg.last bank + 1 + i) % 10)).find? (fun r => portReady s r bank)

/-- The requesters that lose a cycle at port 1 of a bank: those that are ready and not served. -/
def portLosers (s : State) (bank : Nat) : List Nat := (List.range 10).filter (fun r => portReady s r bank && portNext s bank != some r)

/-- One more lost cycle in a cell, saturating. -/
def loseAt (c : Core) (n : Nat) : Core := { c with dbg := { c.dbg with cells := tblSet 0 c.dbg.cells n (min (cell c n + 1) 0xFFFFFFFF) } }

/-- A cycle that a cell counts, none while a precise stop holds (R225, R429, R430): VLDFW, VSTEF and the tag waiters lose those in which they wait for a tag;
at port 1 every requester that is ready and not served loses the cycle, and the round goes on from the one that is. -/
def conflict (s : State) (n : Nat) : State :=
  let bank := n % 32
  let tags (op : Nat → Bool) : State := onMe s (fun c => if tagLost c op bank then loseAt c n else c)
  if !(me s).run.live || (me s).run.dstop then s
  else match n / 32 with
    | 1 => tags (fun o => o == 3)
    | 2 => tags (fun o => o == 4)
    | 9 => tags (fun o => decide (o ≤ 2))
    | r =>
        let l := portLosers s bank
        if l.contains r then
          let next := (portNext s bank).getD r
          onMe s (fun c => let c := l.foldl (fun c k => loseAt c (32 * k + bank)) c; { c with dbg := { c.dbg with last := tblSet 9 c.dbg.last bank next } })
        else s

/-- The supervisor reserves the executor for the host's direct launches, or gives it back to dispatch (R378; DESIGN CHOICE, log 92). -/
def hostReserve (s : State) (on : Bool) : State :=
  let l := s.dev.hostEx.filter (fun k => k != s.ex.val)
  { s with dev := { s.dev with hostEx := if on then l ++ [s.ex.val] else l } }

/-- An engine that has stalled at its pacing goes on: the record of the stall stands before what the event does (R436). -/
def pacingEnds (s : State) (sq : Seq) : State :=
  match stallOf (me s) sq with
  | none => s
  | some x => if slogOn (me s) && x.1 == 7 && !pacing s sq then onMe s (fun c => stallEnds s.ex.val c sq x) else s

/-- The engine that an event row gives a command. -/
def gives (s : State) (i : Instr) : Option Seq :=
  match i with
  | .engineRun => some s.choice.sq
  | .setfCommand => some s.choice.sq
  | .waitfCommand => some s.choice.sq
  | _ => none

/-- What a turn does. -/
def runAct (a : Act) (s : State) : Out :=
  match a with
  | .control => stepControl s
  | .engine sq => stepEngine sq s
  | .event i => if isEvent i then exec i (match gives s i with | some sq => pacingEnds s sq | none => s) else .next s
  | .tick => .next (tick s)
  | .dropL1 k => .next (onMe s (fun c => { c with l1 := tblSet none c.l1 k none }))
  | .dropTlb n => .next (onMe s (fun c => { c with tlb := c.tlb.eraseIdx n }))
  | .drainLog => .next (drainLog s)
  | .aoRing n => .next { s with ms := { s.ms with aocap := n } }
  | .aoFree n => .next { s with ms := aoFree s.ms n }
  | .reserve on => .next (hostReserve s on)
  | .supervisor i image => .next (submitImage s i image)
  | .conflict n => .next (conflict s n)

/-! ## The rotation (DESIGN CHOICE, log 1) -/

/-- Member t of a list, counted round and round. -/
def pick {α : Type} (d : α) (l : List α) (t : Nat) : α := listGet d l (t % l.length)

/-- The lanes of gathers on their way: gather and lane. -/
def lanesOut (c : Core) : List (Nat × Nat) :=
  c.vec.gathers.flatMap (fun (g : Gather) => g.sent.map (fun (x : Nat × Nat × Bool) => (g.id, x.1)))

/-- The next request of the tile fetch unit: operand, request, steps ahead. -/
def nextFetch (c : Core) : Choice :=
  match c.mx.red with
  | none => {}
  | some r =>
      match missingUnit c.mx r r.step with
      | none => {}
      | some (x, u) => { n := x, m := u }

/-- Where the queue of a channel stands: the first command that has not sent every request. -/
def chanPlace (c : Core) (ch : Nat) : Nat := ((chanOf c (chNo ch)).takeWhile sent).length

/-- The event rows that the machine takes up by itself at executor s.ex, with what each acts on in pass t; an event whose condition does not hold
changes nothing (DESIGN CHOICE, log 2). -/
def ownEvents (s : State) (t : Nat) : List (Instr × Choice) :=
  let c := me s
  let msg := pick 0 (s.msgs.map (fun (m : Msg) => m.id)) t
  let handle := pick 0 (s.tht.map (fun (e : Nat × Option Tht) => e.1)) t
  let place := pick 0 (s.launches.map (fun (e : Nat × Option Launch) => e.1)) t
  let stack := pick 0 (s.ades.map (fun (e : Nat × Option Ade) => e.1)) t
  let lane := pick (0, 0) (lanesOut c) t
  let eng : Seq := pick .vector [.vector, .matrix, .copy] t
  let ch := t % 4
  [(.sliceServiceEvent, { n := pick 0 (c.reqs.map (fun (r : Req) => r.id)) t }), (.loadReply, {}),
   (.engineRun, { sq := eng }), (.setfCommand, { sq := eng }), (.waitfCommand, { sq := eng }), (.ruleFiring, { n := t % 16 }),
   (.wcFlush, { sq := pick .control [.control, .vector, .matrix, .copy] t }), (.irbLanding, {}),
   (.gatherLaneArrival, { n := lane.1, m := lane.2 }), (.parameterWordArrival, {}), (.slotLoadCompletion, {}),
   (.streamRowArrival, { n := t % 16 }),
   (.reductionStart, {}), (.tileFetchReturn, nextFetch c), (.accumulatorRetirement, {}), (.drainTileReadDone, { n := ch }),
   (.addressQueueRequest, { n := ch, m := chanPlace c ch }), (.addressQueueRequest, { n := ch, m := chanPlace c ch, flag := true }),
   (.copyCommandCompletion, { n := ch }), 
   (.placementArrival, { n := msg }), (.answerArrival, { n := msg }), (.returnArrival, { n := msg }), (.windowAutoClose, { n := t % 16 }),
   (.handoverPolicy, {}), (.seamInstant, {}), (.ksrWriteDone, {}), (.handoverCommit, { n := s.ex.val }),
   (.overlayLoadDone, {}), (.kernelEntry, {}), (.preemptStop, {}), (.imageSaveDone, {}), (.restore, {}), (.preciseStop, {}),
   (.launchAccept, {}), (.dispatch, {}), (.adeDispatch, {}), (.adeChunkDone, { n := stack }), (.adeCompletion, { n := stack }),
   (.gangArm, { n := place }), (.gangDeadlineExpiry, { n := place }), (.completionRecord, { n := place }), (.preemptRequest, {}),
   (.moveClaim, {}), (.pageCommit, { n := handle }), (.moveFinalCommit, { n := handle }), (.claimPass, { n := handle }),
   (.suspendStart, {}), (.collectiveQuiesceExpiry, {}), (.demandHalving, {}),
   (.createContext, {}), (.destroyContext, {}), (.register, {}), (.deregister, {}), (.hostWriteAcknowledgement, { n := pick 0 (s.acks.map (fun (a : Ack) => a.id)) t })]

/-- The activities of executor s.ex in pass t: its sequencers, the event rows it takes up by itself, the schedule log, a tick. -/
def rotation (s : State) (t : Nat) : List (Act × Choice) :=
  let c0 : Choice := {}
  [(.control, c0), (.engine .copy, c0), (.engine .matrix, c0), (.engine .vector, c0)] ++
  (ownEvents s t).map (fun (e : Instr × Choice) => (Act.event e.1, e.2)) ++ [(.drainLog, c0), (.tick, c0)]

/-- The activities of one executor in one pass. -/
def passLen : Nat := 64

/-- Activity rr of the rotation: pass rr / (288 × 64), executor rr / 64 of the pass, activity rr mod 64; none past the end of its list. -/
def rotated (s : State) : Option (Act × Choice) × State :=
  let s := { s with rr := s.rr + 1, ex := Fin.ofNat 288 (s.rr / passLen) }
  ((rotation s ((s.rr - 1) / passLen / 288))[(s.rr - 1) % passLen]?, s)

/-- One step: the next listed turn, or the next activity of the rotation (DESIGN CHOICE, log 1). -/
def turn (s : State) : Out :=
  match s.agenda with
  | t :: r => runAct t.act { s with agenda := r, ex := t.ex, choice := t.choice }
  | [] =>
      match rotated s with
      | (none, s) => .next s
      | (some (a, ch), s) => runAct a { s with choice := ch }

/-! ## Placing one word (DESIGN CHOICE, log 5) -/

/-- The executor running, with one control word at its pc and nothing outstanding. -/
def coreWithControl (c : Core) (bytes : List Byte) : Core :=
  { c with run := { c.run with st := .running, live := true, preq := false, dstop := false, res := some { ctrl := [{ base := c.ctl.pc, bytes := bytes }] } },
           cwait := none, pend := none, irq := [], ve := { c.ve with trap := none }, me := { c.me with trap := none }, xe := { c.xe with trap := none } }

/-- The executor running, with one engine word at the start of a running segment. -/
def coreWithEngine (c : Core) (sq : Seq) (bytes : List Byte) : Core :=
  setEng { c with run := { c.run with st := .running, live := true, preq := false, dstop := false, res := some { eng := [{ base := 0, bytes := bytes }] } },
                  frozen := false } sq
    { engOf c sq with st := .running, seg := 0, widx := 0, rep := 0, wait := none, abandoned := false, trap := none, stall := none }

/-- The state whose next step is a turn of executor 0 that runs the word (DESIGN CHOICE, log 5, log 13). -/
def placeWord (s : State) (nbits w : Nat) : State :=
  let s := { s with ex := 0 }
  if 48 < nbits then
    { onMe s (fun c => coreWithControl c (natToBytes 8 w)) with agenda := [{ ex := 0, act := .control }] }
  else
    let sq := tableSeq (BitVec.ofNat 48 w)
    { onMe s (fun c => coreWithEngine c sq (natToBytes 6 w)) with agenda := [{ ex := 0, act := .engine sq }] }

end Sys2Proof.Machine
end

