-- ==== Sys2Proof/Machine/Step.lean ====
section
/-! DEFINITION. The step of the machine, and the placing of one word where the next step fetches it. -/

namespace Sys2Proof.Machine

/-- One step: one turn of one agent (DESIGN CHOICE, log 1). -/
def step (s : State) : Host.Outcome State Fault Refusal := turn s

/-- The state with a word placed where the next step fetches it (DESIGN CHOICE, log 5). -/
def State.withFetchWord (s : State) (nbits w : Nat) : State := placeWord s nbits w

end Sys2Proof.Machine
end

