-- ==== Sys2Proof/Laws/Bits.lean ====
section
/-! SUPPORT. Reading a field of a word that is written as a concatenation of fields. -/

namespace Sys2Proof.Laws

open Sys2Proof

set_option linter.unusedSimpArgs false

/-- A field above the last part of a concatenation. -/
theorem ext_hi {n m : Nat} (x : BitVec n) (y : BitVec m) (k l : Nat) (h : m ≤ k) :
    (x ++ y).extractLsb' k l = x.extractLsb' (k - m) l := by
  ext i hi
  simp only [BitVec.getElem_extractLsb', BitVec.getLsbD_append]
  rw [if_neg (by omega), show k + i - m = k - m + i by omega]

/-- A field within the last part of a concatenation. -/
theorem ext_lo {n m : Nat} (x : BitVec n) (y : BitVec m) (k l : Nat) (h : k + l ≤ m) :
    (x ++ y).extractLsb' k l = y.extractLsb' k l := by
  ext i hi
  simp only [BitVec.getElem_extractLsb', BitVec.getLsbD_append]
  rw [if_pos (by omega)]

/-- The whole of a word as a field. -/
theorem ext_all {n : Nat} (x : BitVec n) : x.extractLsb' 0 n = x := by
  ext i hi; simp

/-- A field of a field. -/
theorem ext_ext {n : Nat} (x : BitVec n) (a m b l : Nat) (h : b + l ≤ m) :
    (x.extractLsb' a m).extractLsb' b l = x.extractLsb' (a + b) l := by
  ext i hi
  simp only [BitVec.getElem_extractLsb', BitVec.getLsbD_extractLsb']
  simp only [show b + i < m by omega, decide_true, Bool.true_and, Nat.add_assoc]

/-- The low bits of a field. -/
theorem wide_ext {n : Nat} (x : BitVec n) (a m l : Nat) (h : l ≤ m) :
    (x.extractLsb' a m).setWidth l = x.extractLsb' a l := by
  ext i hi
  simp [show i < m by omega]

/-- The low bits of a widened number. -/
theorem ext_wide {n m : Nat} (x : BitVec n) (h : n ≤ m) : (x.setWidth m).extractLsb' 0 n = x := by
  ext i hi
  simp [show i < m by omega, BitVec.getLsbD_eq_getElem hi]

/-- Widening and narrowing back. -/
theorem wide_wide {n m : Nat} (x : BitVec n) (h : n ≤ m) : (x.setWidth m).setWidth n = x := by
  ext i hi
  simp [show i < m by omega, BitVec.getLsbD_eq_getElem hi]

/-- Narrowing a concatenation to its last part. -/
theorem wide_lo {n m : Nat} (x : BitVec n) (y : BitVec m) : (x ++ y).setWidth m = y := by
  ext i hi
  simp [BitVec.getLsbD_append, hi, BitVec.getLsbD_eq_getElem hi]

/-- A bit above the last part of a concatenation. -/
theorem bit_hi {n m : Nat} (x : BitVec n) (y : BitVec m) (k : Nat) (h : m ≤ k) : (x ++ y).getLsbD k = x.getLsbD (k - m) := by
  rw [BitVec.getLsbD_append, if_neg (by omega)]

/-- A bit within the last part of a concatenation. -/
theorem bit_lo {n m : Nat} (x : BitVec n) (y : BitVec m) (k : Nat) (h : k < m) : (x ++ y).getLsbD k = y.getLsbD k := by
  rw [BitVec.getLsbD_append, if_pos h]

/-- The one bit of a truth value. -/
theorem bit_one (b : Bool) : (BitVec.ofBool b).getLsbD 0 = b := by
  cases b <;> rfl

/-- A bit of a field. -/
theorem bit_ext {n : Nat} (x : BitVec n) (a m b : Nat) (h : b < m) : (x.extractLsb' a m).getLsbD b = x.getLsbD (a + b) := by
  rw [BitVec.getLsbD_extractLsb']
  simp [h]

/-! Opcodes. -/

theorem op_ctl (op : BitVec 8) (g : Guard) (d a : Reg) (p : BitVec 39) : (Enc.ctl op g d a p).extractLsb' 56 8 = op :=
  (ext_hi _ _ _ _ (by decide)).trans ((ext_hi _ _ _ _ (by decide)).trans ((ext_hi _ _ _ _ (by decide)).trans
    ((ext_hi _ _ _ _ (by decide)).trans ((ext_hi _ _ _ _ (by decide)).trans (ext_all op)))))

theorem op_vw (op : BitVec 7) (h : VH) (p : BitVec 30) : (Enc.vw op h p).extractLsb' 40 7 = op :=
  (ext_hi _ _ _ _ (by decide)).trans ((ext_hi _ _ _ _ (by decide)).trans ((ext_hi _ _ _ _ (by decide)).trans
    ((ext_lo _ _ _ _ (by decide)).trans (ext_all op))))

theorem op_mw (op : BitVec 8) (step : BitVec 4) (rpt : BitVec 6) (p : BitVec 30) : (Enc.mw op step rpt p).extractLsb' 40 8 = op :=
  (ext_hi _ _ _ _ (by decide)).trans ((ext_hi _ _ _ _ (by decide)).trans ((ext_hi _ _ _ _ (by decide)).trans (ext_all op)))

/-! The common fields of a control word, and its format part. -/

theorem fG_ctl (op : BitVec 8) (g : Guard) (d a : Reg) (p : BitVec 39) : Dec.fG (Enc.ctl op g d a p) = g := by
  simp (disch := decide) only [Dec.fG, Enc.ctl, ext_all, bit_one, ext_hi, ext_lo, bit_hi, bit_lo, Nat.reduceSub]

theorem fD_ctl (op : BitVec 8) (g : Guard) (d a : Reg) (p : BitVec 39) : Dec.fD (Enc.ctl op g d a p) = d := by
  simp (disch := decide) only [Dec.fD, Enc.ctl, ext_all, ext_hi, ext_lo, Nat.reduceSub]

theorem fA_ctl (op : BitVec 8) (g : Guard) (d a : Reg) (p : BitVec 39) : Dec.fA (Enc.ctl op g d a p) = a := by
  simp (disch := decide) only [Dec.fA, Enc.ctl, ext_all, ext_hi, ext_lo, Nat.reduceSub]

theorem low_ctl (op : BitVec 8) (g : Guard) (d a : Reg) (p : BitVec 39) (k l : Nat) (h : k + l ≤ 39) :
    (Enc.ctl op g d a p).extractLsb' k l = p.extractLsb' k l := ext_lo _ _ _ _ h

theorem bit_ctl (op : BitVec 8) (g : Guard) (d a : Reg) (p : BitVec 39) (k : Nat) (h : k < 39) :
    (Enc.ctl op g d a p).getLsbD k = p.getLsbD k := bit_lo _ _ _ h

/-! Format CT. -/

theorem fB_ct (op : BitVec 8) (g : Guard) (d a b c : Reg) (e : Bool) (tgt : BitVec 14) (off : BitVec 12) :
    Dec.fB (Enc.ctl op g d a (Enc.fCt b c e tgt off)) = b := by
  simp (disch := decide) only [Dec.fB, low_ctl, bit_ctl]
  simp (disch := decide) only [Enc.fCt, ext_all, bit_one, ext_hi, ext_lo, bit_hi, bit_lo, Nat.reduceSub]

theorem fC_ct (op : BitVec 8) (g : Guard) (d a b c : Reg) (e : Bool) (tgt : BitVec 14) (off : BitVec 12) :
    Dec.fC (Enc.ctl op g d a (Enc.fCt b c e tgt off)) = c := by
  simp (disch := decide) only [Dec.fC, low_ctl, bit_ctl]
  simp (disch := decide) only [Enc.fCt, ext_all, bit_one, ext_hi, ext_lo, bit_hi, bit_lo, Nat.reduceSub]

theorem fE_ct (op : BitVec 8) (g : Guard) (d a b c : Reg) (e : Bool) (tgt : BitVec 14) (off : BitVec 12) :
    Dec.fE (Enc.ctl op g d a (Enc.fCt b c e tgt off)) = e := by
  simp (disch := decide) only [Dec.fE, low_ctl, bit_ctl]
  simp (disch := decide) only [Enc.fCt, ext_all, bit_one, ext_hi, ext_lo, bit_hi, bit_lo, Nat.reduceSub]

theorem fTgt_ct (op : BitVec 8) (g : Guard) (d a b c : Reg) (e : Bool) (tgt : BitVec 14) (off : BitVec 12) :
    Dec.fTgt (Enc.ctl op g d a (Enc.fCt b c e tgt off)) = tgt := by
  simp (disch := decide) only [Dec.fTgt, low_ctl, bit_ctl]
  simp (disch := decide) only [Enc.fCt, ext_all, bit_one, ext_hi, ext_lo, bit_hi, bit_lo, Nat.reduceSub]

theorem fImm12_ct (op : BitVec 8) (g : Guard) (d a b c : Reg) (e : Bool) (tgt : BitVec 14) (off : BitVec 12) :
    Dec.fImm12 (Enc.ctl op g d a (Enc.fCt b c e tgt off)) = off := by
  simp (disch := decide) only [Dec.fImm12, low_ctl, bit_ctl]
  simp (disch := decide) only [Enc.fCt, ext_all, bit_one, ext_hi, ext_lo, bit_hi, bit_lo, Nat.reduceSub]

/-! The common fields of an engine word, and its format part. -/

theorem vH_vw (op : BitVec 7) (h : VH) (p : BitVec 30) : Dec.vH (Enc.vw op h p) = h := by
  simp (disch := decide) only [Dec.vH, Enc.vw, ext_all, bit_one, ext_hi, ext_lo, bit_hi, bit_lo, Nat.reduceSub]

theorem eRpt_vw (op : BitVec 7) (h : VH) (p : BitVec 30) : Dec.eRpt (Enc.vw op h p) = h.rpt := by
  simp (disch := decide) only [Dec.eRpt, Enc.vw, ext_all, bit_one, ext_hi, ext_lo, bit_hi, bit_lo, Nat.reduceSub]

theorem low_vw (op : BitVec 7) (h : VH) (p : BitVec 30) (k l : Nat) (hk : k + l ≤ 30) :
    (Enc.vw op h p).extractLsb' k l = p.extractLsb' k l := ext_lo _ _ _ _ hk

theorem bit_vw (op : BitVec 7) (h : VH) (p : BitVec 30) (k : Nat) (hk : k < 30) :
    (Enc.vw op h p).getLsbD k = p.getLsbD k := bit_lo _ _ _ hk

theorem xH_mw (op : BitVec 8) (st : BitVec 4) (r : BitVec 6) (p : BitVec 30) : Dec.xH (Enc.mw op st r p) = ⟨st, r⟩ := by
  simp (disch := decide) only [Dec.xH, Enc.mw, ext_all, bit_one, ext_hi, ext_lo, bit_hi, bit_lo, Nat.reduceSub]

theorem eRpt_mw (op : BitVec 8) (st : BitVec 4) (r : BitVec 6) (p : BitVec 30) : Dec.eRpt (Enc.mw op st r p) = r := by
  simp (disch := decide) only [Dec.eRpt, Enc.mw, ext_all, bit_one, ext_hi, ext_lo, bit_hi, bit_lo, Nat.reduceSub]

theorem low_mw (op : BitVec 8) (st : BitVec 4) (r : BitVec 6) (p : BitVec 30) (k l : Nat) (hk : k + l ≤ 30) :
    (Enc.mw op st r p).extractLsb' k l = p.extractLsb' k l := ext_lo _ _ _ _ hk

theorem bit_mw (op : BitVec 8) (st : BitVec 4) (r : BitVec 6) (p : BitVec 30) (k : Nat) (hk : k < 30) :
    (Enc.mw op st r p).getLsbD k = p.getLsbD k := bit_lo _ _ _ hk

theorem sel_vc (sel : BitVec 6) (imm : BitVec 24) : (Enc.fVc sel imm).extractLsb' 24 6 = sel := by
  simp (disch := decide) only [Enc.fVc, ext_all, bit_one, ext_hi, ext_lo, bit_hi, bit_lo, Nat.reduceSub]

theorem imm_vc (sel : BitVec 6) (imm : BitVec 24) : (Enc.fVc sel imm).extractLsb' 0 24 = imm := by
  simp (disch := decide) only [Enc.fVc, ext_all, bit_one, ext_hi, ext_lo, bit_hi, bit_lo, Nat.reduceSub]

/-! The transfer layout. -/

theorem td_x (td ts : BitVec 6) (ch : BitVec 2) (o : Order) (low : BitVec 11) : (Enc.fX td ts ch o low).extractLsb' 24 6 = td := by
  simp (disch := decide) only [Enc.fX, ext_all, bit_one, ext_hi, ext_lo, bit_hi, bit_lo, Nat.reduceSub]

theorem ts_x (td ts : BitVec 6) (ch : BitVec 2) (o : Order) (low : BitVec 11) : (Enc.fX td ts ch o low).extractLsb' 18 6 = ts := by
  simp (disch := decide) only [Enc.fX, ext_all, bit_one, ext_hi, ext_lo, bit_hi, bit_lo, Nat.reduceSub]

theorem ring_x (td ts : BitVec 6) (ch : BitVec 2) (o : Order) (low : BitVec 11) : (Enc.fX td ts ch o low).extractLsb' 20 4 = ts.extractLsb' 2 4 := by
  simp (disch := decide) only [Enc.fX, ext_all, bit_one, ext_hi, ext_lo, bit_hi, bit_lo, Nat.reduceSub]

theorem ch_x (td ts : BitVec 6) (ch : BitVec 2) (o : Order) (low : BitVec 11) : (Enc.fX td ts ch o low).extractLsb' 16 2 = ch := by
  simp (disch := decide) only [Enc.fX, ext_all, bit_one, ext_hi, ext_lo, bit_hi, bit_lo, Nat.reduceSub]

theorem low_x (td ts : BitVec 6) (ch : BitVec 2) (o : Order) (low : BitVec 11) (k l : Nat) (h : k + l ≤ 11) :
    (Enc.fX td ts ch o low).extractLsb' k l = low.extractLsb' k l := ext_lo _ _ _ _ h

theorem lowb_x (td ts : BitVec 6) (ch : BitVec 2) (o : Order) (low : BitVec 11) (k : Nat) (h : k < 11) :
    (Enc.fX td ts ch o low).getLsbD k = low.getLsbD k := bit_lo _ _ _ h

theorem order_x (td ts : BitVec 6) (ch : BitVec 2) (o : Order) (low : BitVec 11) (op : BitVec 8) (st : BitVec 4) (r : BitVec 6) :
    Dec.eOrder (Enc.mw op st r (Enc.fX td ts ch o low)) = o := by
  simp (disch := decide) only [Dec.eOrder, low_mw, bit_mw]
  simp (disch := decide) only [Enc.fX, Enc.fOrder, ext_all, bit_one, ext_hi, ext_lo, bit_hi, bit_lo, Nat.reduceSub]

/-! The rows of WRCSR. -/

theorem candidate_kq (g : Guard) (a : Reg) (k : BitVec 3) : Dec.candidateWrcsr g a (0x61#13 ++ k) = .kqpush g a k := by
  have h : ∀ k : BitVec 3, (0x61#13 ++ k).toNat = 0x308 + k.toNat := by decide
  have h2 : ∀ k : BitVec 3, (0x61#13 ++ k).setWidth 3 = k := by decide
  have h3 := k.isLt
  unfold Dec.candidateWrcsr
  rw [h, h2]
  split <;> first | omega | skip
  rw [if_pos (by omega)]

theorem candidate_other (g : Guard) (a : Reg) (n : BitVec 16) (h : Wf.csrOwnRow n = false) : Dec.candidateWrcsr g a n = .wrcsr g a n := by
  simp only [Wf.csrOwnRow, Bool.or_eq_false_iff, Bool.and_eq_false_iff, decide_eq_false_iff_not] at h
  unfold Dec.candidateWrcsr
  split <;> first | omega | skip
  rw [if_neg (by omega)]

end Sys2Proof.Laws
end

