-- ==== Sys2Proof/Laws/PerInstr.lean ====
section
/-! SUPPORT. Encoding round trips, one lemma per constructor: the word that the encoder writes for a well-formed instruction
decodes to that instruction (spec/03_encoding.md R44 to R72). -/

namespace Sys2Proof.Laws.Fields

open Sys2Proof Sys2Proof.Laws

set_option linter.unusedSimpArgs false


/-- Decoding the encoded word of a well-formed instruction gives the row as which the word is read, every field as it was; an
event row has no word. -/
def Statement (i : Instr) : Prop := wf i = true → encode i = .event ∨ decodeCode (encode i) = .ok (wordRow i)

/-- A candidate that encodes to the word stands. -/
theorem check_self (i : Instr) (h : wf i = true) : Dec.check (some i) (encode i) = .ok i := by
  simp [Dec.check, h]

/-- The round trip from the candidate that the decoding tables name. -/
theorem of_control {i : Instr} {w : W64} (he : encode (wordRow i) = .control w) (hw : wf (wordRow i) = true)
    (hc : Dec.control w = some (wordRow i)) (hi : encode i = .control w) : encode i = .event ∨ decodeCode (encode i) = .ok (wordRow i) := by
  rw [hi]; right
  show Dec.check (Dec.control w) (.control w) = _
  rw [hc, ← he]; exact check_self _ hw

theorem of_vector {i : Instr} {w : W48} (he : encode i = .vector w) (hw : wf i = true)
    (hc : Dec.vector w = some i) : encode i = .event ∨ decodeCode (encode i) = .ok i := by
  right; rw [he]
  show Dec.check (Dec.vector w) (.vector w) = _
  rw [hc, ← he]; exact check_self _ hw

theorem of_matrix {i : Instr} {w : W48} (he : encode i = .matrix w) (hw : wf i = true)
    (hc : Dec.matrix w = some i) : encode i = .event ∨ decodeCode (encode i) = .ok i := by
  right; rw [he]
  show Dec.check (Dec.matrix w) (.matrix w) = _
  rw [hc, ← he]; exact check_self _ hw

theorem of_copy {i : Instr} {w : W48} (he : encode i = .copy w) (hw : wf i = true)
    (hc : Dec.copy w = some i) : encode i = .event ∨ decodeCode (encode i) = .ok i := by
  right; rw [he]
  show Dec.check (Dec.copy w) (.copy w) = _
  rw [hc, ← he]; exact check_self _ hw

theorem nop (g : Guard) : Statement (.nop g) := by
  intro w
  refine of_control rfl w ?_ rfl
  unfold Dec.control
  rw [op_ctl]
  show some (Instr.nop _) = some (.nop g)
  simp (disch := decide) only [fG_ctl, fD_ctl, fA_ctl, low_ctl, bit_ctl, Enc.fCr, ext_all, bit_one, ext_wide, ext_ext, bit_ext, wide_ext, ext_hi, ext_lo, bit_hi, bit_lo, wide_wide, wide_lo, Nat.reduceSub]

theorem add (g : Guard) (d : Reg) (a : Reg) (b : Reg) : Statement (.add g d a b) := by
  intro w
  refine of_control rfl w ?_ rfl
  unfold Dec.control
  rw [op_ctl]
  show some (Instr.add _ _ _ _) = some (.add g d a b)
  simp (disch := decide) only [fG_ctl, fD_ctl, fA_ctl, low_ctl, bit_ctl, Enc.fCr, Dec.fB, ext_all, bit_one, ext_wide, ext_ext, bit_ext, wide_ext, ext_hi, ext_lo, bit_hi, bit_lo, wide_wide, wide_lo, Nat.reduceSub]

theorem sub (g : Guard) (d : Reg) (a : Reg) (b : Reg) : Statement (.sub g d a b) := by
  intro w
  refine of_control rfl w ?_ rfl
  unfold Dec.control
  rw [op_ctl]
  show some (Instr.sub _ _ _ _) = some (.sub g d a b)
  simp (disch := decide) only [fG_ctl, fD_ctl, fA_ctl, low_ctl, bit_ctl, Enc.fCr, Dec.fB, ext_all, bit_one, ext_wide, ext_ext, bit_ext, wide_ext, ext_hi, ext_lo, bit_hi, bit_lo, wide_wide, wide_lo, Nat.reduceSub]

theorem mul (g : Guard) (d : Reg) (a : Reg) (b : Reg) : Statement (.mul g d a b) := by
  intro w
  refine of_control rfl w ?_ rfl
  unfold Dec.control
  rw [op_ctl]
  show some (Instr.mul _ _ _ _) = some (.mul g d a b)
  simp (disch := decide) only [fG_ctl, fD_ctl, fA_ctl, low_ctl, bit_ctl, Enc.fCr, Dec.fB, ext_all, bit_one, ext_wide, ext_ext, bit_ext, wide_ext, ext_hi, ext_lo, bit_hi, bit_lo, wide_wide, wide_lo, Nat.reduceSub]

theorem mulh (g : Guard) (d : Reg) (a : Reg) (b : Reg) : Statement (.mulh g d a b) := by
  intro w
  refine of_control rfl w ?_ rfl
  unfold Dec.control
  rw [op_ctl]
  show some (Instr.mulh _ _ _ _) = some (.mulh g d a b)
  simp (disch := decide) only [fG_ctl, fD_ctl, fA_ctl, low_ctl, bit_ctl, Enc.fCr, Dec.fB, ext_all, bit_one, ext_wide, ext_ext, bit_ext, wide_ext, ext_hi, ext_lo, bit_hi, bit_lo, wide_wide, wide_lo, Nat.reduceSub]

theorem mulhu (g : Guard) (d : Reg) (a : Reg) (b : Reg) : Statement (.mulhu g d a b) := by
  intro w
  refine of_control rfl w ?_ rfl
  unfold Dec.control
  rw [op_ctl]
  show some (Instr.mulhu _ _ _ _) = some (.mulhu g d a b)
  simp (disch := decide) only [fG_ctl, fD_ctl, fA_ctl, low_ctl, bit_ctl, Enc.fCr, Dec.fB, ext_all, bit_one, ext_wide, ext_ext, bit_ext, wide_ext, ext_hi, ext_lo, bit_hi, bit_lo, wide_wide, wide_lo, Nat.reduceSub]

theorem div (g : Guard) (d : Reg) (a : Reg) (b : Reg) : Statement (.div g d a b) := by
  intro w
  refine of_control rfl w ?_ rfl
  unfold Dec.control
  rw [op_ctl]
  show some (Instr.div _ _ _ _) = some (.div g d a b)
  simp (disch := decide) only [fG_ctl, fD_ctl, fA_ctl, low_ctl, bit_ctl, Enc.fCr, Dec.fB, ext_all, bit_one, ext_wide, ext_ext, bit_ext, wide_ext, ext_hi, ext_lo, bit_hi, bit_lo, wide_wide, wide_lo, Nat.reduceSub]

theorem divu (g : Guard) (d : Reg) (a : Reg) (b : Reg) : Statement (.divu g d a b) := by
  intro w
  refine of_control rfl w ?_ rfl
  unfold Dec.control
  rw [op_ctl]
  show some (Instr.divu _ _ _ _) = some (.divu g d a b)
  simp (disch := decide) only [fG_ctl, fD_ctl, fA_ctl, low_ctl, bit_ctl, Enc.fCr, Dec.fB, ext_all, bit_one, ext_wide, ext_ext, bit_ext, wide_ext, ext_hi, ext_lo, bit_hi, bit_lo, wide_wide, wide_lo, Nat.reduceSub]

theorem rem (g : Guard) (d : Reg) (a : Reg) (b : Reg) : Statement (.rem g d a b) := by
  intro w
  refine of_control rfl w ?_ rfl
  unfold Dec.control
  rw [op_ctl]
  show some (Instr.rem _ _ _ _) = some (.rem g d a b)
  simp (disch := decide) only [fG_ctl, fD_ctl, fA_ctl, low_ctl, bit_ctl, Enc.fCr, Dec.fB, ext_all, bit_one, ext_wide, ext_ext, bit_ext, wide_ext, ext_hi, ext_lo, bit_hi, bit_lo, wide_wide, wide_lo, Nat.reduceSub]

theorem remu (g : Guard) (d : Reg) (a : Reg) (b : Reg) : Statement (.remu g d a b) := by
  intro w
  refine of_control rfl w ?_ rfl
  unfold Dec.control
  rw [op_ctl]
  show some (Instr.remu _ _ _ _) = some (.remu g d a b)
  simp (disch := decide) only [fG_ctl, fD_ctl, fA_ctl, low_ctl, bit_ctl, Enc.fCr, Dec.fB, ext_all, bit_one, ext_wide, ext_ext, bit_ext, wide_ext, ext_hi, ext_lo, bit_hi, bit_lo, wide_wide, wide_lo, Nat.reduceSub]

theorem and (g : Guard) (d : Reg) (a : Reg) (b : Reg) : Statement (.and g d a b) := by
  intro w
  refine of_control rfl w ?_ rfl
  unfold Dec.control
  rw [op_ctl]
  show some (Instr.and _ _ _ _) = some (.and g d a b)
  simp (disch := decide) only [fG_ctl, fD_ctl, fA_ctl, low_ctl, bit_ctl, Enc.fCr, Dec.fB, ext_all, bit_one, ext_wide, ext_ext, bit_ext, wide_ext, ext_hi, ext_lo, bit_hi, bit_lo, wide_wide, wide_lo, Nat.reduceSub]

theorem or (g : Guard) (d : Reg) (a : Reg) (b : Reg) : Statement (.or g d a b) := by
  intro w
  refine of_control rfl w ?_ rfl
  unfold Dec.control
  rw [op_ctl]
  show some (Instr.or _ _ _ _) = some (.or g d a b)
  simp (disch := decide) only [fG_ctl, fD_ctl, fA_ctl, low_ctl, bit_ctl, Enc.fCr, Dec.fB, ext_all, bit_one, ext_wide, ext_ext, bit_ext, wide_ext, ext_hi, ext_lo, bit_hi, bit_lo, wide_wide, wide_lo, Nat.reduceSub]

theorem xor (g : Guard) (d : Reg) (a : Reg) (b : Reg) : Statement (.xor g d a b) := by
  intro w
  refine of_control rfl w ?_ rfl
  unfold Dec.control
  rw [op_ctl]
  show some (Instr.xor _ _ _ _) = some (.xor g d a b)
  simp (disch := decide) only [fG_ctl, fD_ctl, fA_ctl, low_ctl, bit_ctl, Enc.fCr, Dec.fB, ext_all, bit_one, ext_wide, ext_ext, bit_ext, wide_ext, ext_hi, ext_lo, bit_hi, bit_lo, wide_wide, wide_lo, Nat.reduceSub]

theorem andn (g : Guard) (d : Reg) (a : Reg) (b : Reg) : Statement (.andn g d a b) := by
  intro w
  refine of_control rfl w ?_ rfl
  unfold Dec.control
  rw [op_ctl]
  show some (Instr.andn _ _ _ _) = some (.andn g d a b)
  simp (disch := decide) only [fG_ctl, fD_ctl, fA_ctl, low_ctl, bit_ctl, Enc.fCr, Dec.fB, ext_all, bit_one, ext_wide, ext_ext, bit_ext, wide_ext, ext_hi, ext_lo, bit_hi, bit_lo, wide_wide, wide_lo, Nat.reduceSub]

theorem shl (g : Guard) (d : Reg) (a : Reg) (b : Reg) : Statement (.shl g d a b) := by
  intro w
  refine of_control rfl w ?_ rfl
  unfold Dec.control
  rw [op_ctl]
  show some (Instr.shl _ _ _ _) = some (.shl g d a b)
  simp (disch := decide) only [fG_ctl, fD_ctl, fA_ctl, low_ctl, bit_ctl, Enc.fCr, Dec.fB, ext_all, bit_one, ext_wide, ext_ext, bit_ext, wide_ext, ext_hi, ext_lo, bit_hi, bit_lo, wide_wide, wide_lo, Nat.reduceSub]

theorem shr (g : Guard) (d : Reg) (a : Reg) (b : Reg) : Statement (.shr g d a b) := by
  intro w
  refine of_control rfl w ?_ rfl
  unfold Dec.control
  rw [op_ctl]
  show some (Instr.shr _ _ _ _) = some (.shr g d a b)
  simp (disch := decide) only [fG_ctl, fD_ctl, fA_ctl, low_ctl, bit_ctl, Enc.fCr, Dec.fB, ext_all, bit_one, ext_wide, ext_ext, bit_ext, wide_ext, ext_hi, ext_lo, bit_hi, bit_lo, wide_wide, wide_lo, Nat.reduceSub]

theorem sra (g : Guard) (d : Reg) (a : Reg) (b : Reg) : Statement (.sra g d a b) := by
  intro w
  refine of_control rfl w ?_ rfl
  unfold Dec.control
  rw [op_ctl]
  show some (Instr.sra _ _ _ _) = some (.sra g d a b)
  simp (disch := decide) only [fG_ctl, fD_ctl, fA_ctl, low_ctl, bit_ctl, Enc.fCr, Dec.fB, ext_all, bit_one, ext_wide, ext_ext, bit_ext, wide_ext, ext_hi, ext_lo, bit_hi, bit_lo, wide_wide, wide_lo, Nat.reduceSub]

theorem min (g : Guard) (d : Reg) (a : Reg) (b : Reg) : Statement (.min g d a b) := by
  intro w
  refine of_control rfl w ?_ rfl
  unfold Dec.control
  rw [op_ctl]
  show some (Instr.min _ _ _ _) = some (.min g d a b)
  simp (disch := decide) only [fG_ctl, fD_ctl, fA_ctl, low_ctl, bit_ctl, Enc.fCr, Dec.fB, ext_all, bit_one, ext_wide, ext_ext, bit_ext, wide_ext, ext_hi, ext_lo, bit_hi, bit_lo, wide_wide, wide_lo, Nat.reduceSub]

theorem max (g : Guard) (d : Reg) (a : Reg) (b : Reg) : Statement (.max g d a b) := by
  intro w
  refine of_control rfl w ?_ rfl
  unfold Dec.control
  rw [op_ctl]
  show some (Instr.max _ _ _ _) = some (.max g d a b)
  simp (disch := decide) only [fG_ctl, fD_ctl, fA_ctl, low_ctl, bit_ctl, Enc.fCr, Dec.fB, ext_all, bit_one, ext_wide, ext_ext, bit_ext, wide_ext, ext_hi, ext_lo, bit_hi, bit_lo, wide_wide, wide_lo, Nat.reduceSub]

theorem minu (g : Guard) (d : Reg) (a : Reg) (b : Reg) : Statement (.minu g d a b) := by
  intro w
  refine of_control rfl w ?_ rfl
  unfold Dec.control
  rw [op_ctl]
  show some (Instr.minu _ _ _ _) = some (.minu g d a b)
  simp (disch := decide) only [fG_ctl, fD_ctl, fA_ctl, low_ctl, bit_ctl, Enc.fCr, Dec.fB, ext_all, bit_one, ext_wide, ext_ext, bit_ext, wide_ext, ext_hi, ext_lo, bit_hi, bit_lo, wide_wide, wide_lo, Nat.reduceSub]

theorem maxu (g : Guard) (d : Reg) (a : Reg) (b : Reg) : Statement (.maxu g d a b) := by
  intro w
  refine of_control rfl w ?_ rfl
  unfold Dec.control
  rw [op_ctl]
  show some (Instr.maxu _ _ _ _) = some (.maxu g d a b)
  simp (disch := decide) only [fG_ctl, fD_ctl, fA_ctl, low_ctl, bit_ctl, Enc.fCr, Dec.fB, ext_all, bit_one, ext_wide, ext_ext, bit_ext, wide_ext, ext_hi, ext_lo, bit_hi, bit_lo, wide_wide, wide_lo, Nat.reduceSub]

theorem clz (g : Guard) (d : Reg) (a : Reg) : Statement (.clz g d a) := by
  intro w
  refine of_control rfl w ?_ rfl
  unfold Dec.control
  rw [op_ctl]
  show some (Instr.clz _ _ _) = some (.clz g d a)
  simp (disch := decide) only [fG_ctl, fD_ctl, fA_ctl, low_ctl, bit_ctl, Enc.fCr, ext_all, bit_one, ext_wide, ext_ext, bit_ext, wide_ext, ext_hi, ext_lo, bit_hi, bit_lo, wide_wide, wide_lo, Nat.reduceSub]

theorem popc (g : Guard) (d : Reg) (a : Reg) : Statement (.popc g d a) := by
  intro w
  refine of_control rfl w ?_ rfl
  unfold Dec.control
  rw [op_ctl]
  show some (Instr.popc _ _ _) = some (.popc g d a)
  simp (disch := decide) only [fG_ctl, fD_ctl, fA_ctl, low_ctl, bit_ctl, Enc.fCr, ext_all, bit_one, ext_wide, ext_ext, bit_ext, wide_ext, ext_hi, ext_lo, bit_hi, bit_lo, wide_wide, wide_lo, Nat.reduceSub]

theorem sel (g : Guard) (d : Reg) (a : Reg) (b : Reg) (x : BitVec 4) : Statement (.sel g d a b x) := by
  intro w
  refine of_control rfl w ?_ rfl
  unfold Dec.control
  rw [op_ctl]
  show some (Instr.sel _ _ _ _ _) = some (.sel g d a b x)
  simp (disch := decide) only [fG_ctl, fD_ctl, fA_ctl, low_ctl, bit_ctl, Enc.fCr, Dec.fB, Dec.fX, ext_all, bit_one, ext_wide, ext_ext, bit_ext, wide_ext, ext_hi, ext_lo, bit_hi, bit_lo, wide_wide, wide_lo, Nat.reduceSub]

theorem cmpeq (g : Guard) (pd : BitVec 4) (a : Reg) (b : Reg) : Statement (.cmpeq g pd a b) := by
  intro w
  refine of_control rfl w ?_ rfl
  unfold Dec.control
  rw [op_ctl]
  show some (Instr.cmpeq _ _ _ _) = some (.cmpeq g pd a b)
  simp (disch := decide) only [fG_ctl, fD_ctl, fA_ctl, low_ctl, bit_ctl, Enc.fCr, Dec.fB, ext_all, bit_one, ext_wide, ext_ext, bit_ext, wide_ext, ext_hi, ext_lo, bit_hi, bit_lo, wide_wide, wide_lo, Nat.reduceSub]

theorem cmpne (g : Guard) (pd : BitVec 4) (a : Reg) (b : Reg) : Statement (.cmpne g pd a b) := by
  intro w
  refine of_control rfl w ?_ rfl
  unfold Dec.control
  rw [op_ctl]
  show some (Instr.cmpne _ _ _ _) = some (.cmpne g pd a b)
  simp (disch := decide) only [fG_ctl, fD_ctl, fA_ctl, low_ctl, bit_ctl, Enc.fCr, Dec.fB, ext_all, bit_one, ext_wide, ext_ext, bit_ext, wide_ext, ext_hi, ext_lo, bit_hi, bit_lo, wide_wide, wide_lo, Nat.reduceSub]

theorem cmplt (g : Guard) (pd : BitVec 4) (a : Reg) (b : Reg) : Statement (.cmplt g pd a b) := by
  intro w
  refine of_control rfl w ?_ rfl
  unfold Dec.control
  rw [op_ctl]
  show some (Instr.cmplt _ _ _ _) = some (.cmplt g pd a b)
  simp (disch := decide) only [fG_ctl, fD_ctl, fA_ctl, low_ctl, bit_ctl, Enc.fCr, Dec.fB, ext_all, bit_one, ext_wide, ext_ext, bit_ext, wide_ext, ext_hi, ext_lo, bit_hi, bit_lo, wide_wide, wide_lo, Nat.reduceSub]

theorem cmple (g : Guard) (pd : BitVec 4) (a : Reg) (b : Reg) : Statement (.cmple g pd a b) := by
  intro w
  refine of_control rfl w ?_ rfl
  unfold Dec.control
  rw [op_ctl]
  show some (Instr.cmple _ _ _ _) = some (.cmple g pd a b)
  simp (disch := decide) only [fG_ctl, fD_ctl, fA_ctl, low_ctl, bit_ctl, Enc.fCr, Dec.fB, ext_all, bit_one, ext_wide, ext_ext, bit_ext, wide_ext, ext_hi, ext_lo, bit_hi, bit_lo, wide_wide, wide_lo, Nat.reduceSub]

theorem cmpltu (g : Guard) (pd : BitVec 4) (a : Reg) (b : Reg) : Statement (.cmpltu g pd a b) := by
  intro w
  refine of_control rfl w ?_ rfl
  unfold Dec.control
  rw [op_ctl]
  show some (Instr.cmpltu _ _ _ _) = some (.cmpltu g pd a b)
  simp (disch := decide) only [fG_ctl, fD_ctl, fA_ctl, low_ctl, bit_ctl, Enc.fCr, Dec.fB, ext_all, bit_one, ext_wide, ext_ext, bit_ext, wide_ext, ext_hi, ext_lo, bit_hi, bit_lo, wide_wide, wide_lo, Nat.reduceSub]

theorem cmpleu (g : Guard) (pd : BitVec 4) (a : Reg) (b : Reg) : Statement (.cmpleu g pd a b) := by
  intro w
  refine of_control rfl w ?_ rfl
  unfold Dec.control
  rw [op_ctl]
  show some (Instr.cmpleu _ _ _ _) = some (.cmpleu g pd a b)
  simp (disch := decide) only [fG_ctl, fD_ctl, fA_ctl, low_ctl, bit_ctl, Enc.fCr, Dec.fB, ext_all, bit_one, ext_wide, ext_ext, bit_ext, wide_ext, ext_hi, ext_lo, bit_hi, bit_lo, wide_wide, wide_lo, Nat.reduceSub]

theorem plog (g : Guard) (pd : BitVec 4) (pa : BitVec 4) (pb : BitVec 4) (tt : BitVec 4) : Statement (.plog g pd pa pb tt) := by
  intro w
  refine of_control rfl w ?_ rfl
  unfold Dec.control
  rw [op_ctl]
  show some (Instr.plog _ _ _ _ _) = some (.plog g pd pa pb tt)
  simp (disch := decide) only [fG_ctl, fD_ctl, fA_ctl, low_ctl, bit_ctl, Enc.fCr, Dec.fB, Dec.fX, ext_all, bit_one, ext_wide, ext_ext, bit_ext, wide_ext, ext_hi, ext_lo, bit_hi, bit_lo, wide_wide, wide_lo, Nat.reduceSub]

theorem pmov (g : Guard) (d : Reg) (a : Reg) (x : BitVec 4) : Statement (.pmov g d a x) := by
  intro w
  refine of_control rfl w ?_ rfl
  unfold Dec.control
  rw [op_ctl]
  show some (Instr.pmov _ _ _ _) = some (.pmov g d a x)
  simp (disch := decide) only [fG_ctl, fD_ctl, fA_ctl, low_ctl, bit_ctl, Enc.fCr, Dec.fX, ext_all, bit_one, ext_wide, ext_ext, bit_ext, wide_ext, ext_hi, ext_lo, bit_hi, bit_lo, wide_wide, wide_lo, Nat.reduceSub]

theorem addi (g : Guard) (d : Reg) (a : Reg) (imm : BitVec 12) : Statement (.addi g d a imm) := by
  intro w
  refine of_control rfl w ?_ rfl
  unfold Dec.control
  rw [op_ctl]
  show some (Instr.addi _ _ _ _) = some (.addi g d a imm)
  simp (disch := decide) only [fG_ctl, fD_ctl, fA_ctl, low_ctl, bit_ctl, Enc.fCi12, Dec.fImm12, ext_all, bit_one, ext_wide, ext_ext, bit_ext, wide_ext, ext_hi, ext_lo, bit_hi, bit_lo, wide_wide, wide_lo, Nat.reduceSub]

theorem andi (g : Guard) (d : Reg) (a : Reg) (imm : BitVec 12) : Statement (.andi g d a imm) := by
  intro w
  refine of_control rfl w ?_ rfl
  unfold Dec.control
  rw [op_ctl]
  show some (Instr.andi _ _ _ _) = some (.andi g d a imm)
  simp (disch := decide) only [fG_ctl, fD_ctl, fA_ctl, low_ctl, bit_ctl, Enc.fCi12, Dec.fImm12, ext_all, bit_one, ext_wide, ext_ext, bit_ext, wide_ext, ext_hi, ext_lo, bit_hi, bit_lo, wide_wide, wide_lo, Nat.reduceSub]

theorem ori (g : Guard) (d : Reg) (a : Reg) (imm : BitVec 12) : Statement (.ori g d a imm) := by
  intro w
  refine of_control rfl w ?_ rfl
  unfold Dec.control
  rw [op_ctl]
  show some (Instr.ori _ _ _ _) = some (.ori g d a imm)
  simp (disch := decide) only [fG_ctl, fD_ctl, fA_ctl, low_ctl, bit_ctl, Enc.fCi12, Dec.fImm12, ext_all, bit_one, ext_wide, ext_ext, bit_ext, wide_ext, ext_hi, ext_lo, bit_hi, bit_lo, wide_wide, wide_lo, Nat.reduceSub]

theorem xori (g : Guard) (d : Reg) (a : Reg) (imm : BitVec 12) : Statement (.xori g d a imm) := by
  intro w
  refine of_control rfl w ?_ rfl
  unfold Dec.control
  rw [op_ctl]
  show some (Instr.xori _ _ _ _) = some (.xori g d a imm)
  simp (disch := decide) only [fG_ctl, fD_ctl, fA_ctl, low_ctl, bit_ctl, Enc.fCi12, Dec.fImm12, ext_all, bit_one, ext_wide, ext_ext, bit_ext, wide_ext, ext_hi, ext_lo, bit_hi, bit_lo, wide_wide, wide_lo, Nat.reduceSub]

theorem shli (g : Guard) (d : Reg) (a : Reg) (imm : BitVec 12) : Statement (.shli g d a imm) := by
  intro w
  refine of_control rfl w ?_ rfl
  unfold Dec.control
  rw [op_ctl]
  show some (Instr.shli _ _ _ _) = some (.shli g d a imm)
  simp (disch := decide) only [fG_ctl, fD_ctl, fA_ctl, low_ctl, bit_ctl, Enc.fCi12, Dec.fImm12, ext_all, bit_one, ext_wide, ext_ext, bit_ext, wide_ext, ext_hi, ext_lo, bit_hi, bit_lo, wide_wide, wide_lo, Nat.reduceSub]

theorem shri (g : Guard) (d : Reg) (a : Reg) (imm : BitVec 12) : Statement (.shri g d a imm) := by
  intro w
  refine of_control rfl w ?_ rfl
  unfold Dec.control
  rw [op_ctl]
  show some (Instr.shri _ _ _ _) = some (.shri g d a imm)
  simp (disch := decide) only [fG_ctl, fD_ctl, fA_ctl, low_ctl, bit_ctl, Enc.fCi12, Dec.fImm12, ext_all, bit_one, ext_wide, ext_ext, bit_ext, wide_ext, ext_hi, ext_lo, bit_hi, bit_lo, wide_wide, wide_lo, Nat.reduceSub]

theorem srai (g : Guard) (d : Reg) (a : Reg) (imm : BitVec 12) : Statement (.srai g d a imm) := by
  intro w
  refine of_control rfl w ?_ rfl
  unfold Dec.control
  rw [op_ctl]
  show some (Instr.srai _ _ _ _) = some (.srai g d a imm)
  simp (disch := decide) only [fG_ctl, fD_ctl, fA_ctl, low_ctl, bit_ctl, Enc.fCi12, Dec.fImm12, ext_all, bit_one, ext_wide, ext_ext, bit_ext, wide_ext, ext_hi, ext_lo, bit_hi, bit_lo, wide_wide, wide_lo, Nat.reduceSub]

theorem sethi (g : Guard) (d : Reg) (imm : BitVec 20) : Statement (.sethi g d imm) := by
  intro w
  refine of_control rfl w ?_ rfl
  unfold Dec.control
  rw [op_ctl]
  show some (Instr.sethi _ _ _) = some (.sethi g d imm)
  simp (disch := decide) only [fG_ctl, fD_ctl, fA_ctl, low_ctl, bit_ctl, Enc.fCi20, Dec.fImm20, ext_all, bit_one, ext_wide, ext_ext, bit_ext, wide_ext, ext_hi, ext_lo, bit_hi, bit_lo, wide_wide, wide_lo, Nat.reduceSub]

theorem addpc (g : Guard) (d : Reg) (imm : BitVec 20) : Statement (.addpc g d imm) := by
  intro w
  refine of_control rfl w ?_ rfl
  unfold Dec.control
  rw [op_ctl]
  show some (Instr.addpc _ _ _) = some (.addpc g d imm)
  simp (disch := decide) only [fG_ctl, fD_ctl, fA_ctl, low_ctl, bit_ctl, Enc.fCi20, Dec.fImm20, ext_all, bit_one, ext_wide, ext_ext, bit_ext, wide_ext, ext_hi, ext_lo, bit_hi, bit_lo, wide_wide, wide_lo, Nat.reduceSub]

theorem movi (g : Guard) (d : Reg) (imm : BitVec 32) : Statement (.movi g d imm) := by
  intro w
  refine of_control rfl w ?_ rfl
  unfold Dec.control
  rw [op_ctl]
  show some (Instr.movi _ _ _) = some (.movi g d imm)
  simp (disch := decide) only [fG_ctl, fD_ctl, fA_ctl, low_ctl, bit_ctl, Enc.fCi32, Dec.fImm32, ext_all, bit_one, ext_wide, ext_ext, bit_ext, wide_ext, ext_hi, ext_lo, bit_hi, bit_lo, wide_wide, wide_lo, Nat.reduceSub]

theorem cmpeqi (g : Guard) (pd : BitVec 4) (a : Reg) (imm : BitVec 12) : Statement (.cmpeqi g pd a imm) := by
  intro w
  refine of_control rfl w ?_ rfl
  unfold Dec.control
  rw [op_ctl]
  show some (Instr.cmpeqi _ _ _ _) = some (.cmpeqi g pd a imm)
  simp (disch := decide) only [fG_ctl, fD_ctl, fA_ctl, low_ctl, bit_ctl, Enc.fCi12, Dec.fImm12, ext_all, bit_one, ext_wide, ext_ext, bit_ext, wide_ext, ext_hi, ext_lo, bit_hi, bit_lo, wide_wide, wide_lo, Nat.reduceSub]

theorem cmplti (g : Guard) (pd : BitVec 4) (a : Reg) (imm : BitVec 12) : Statement (.cmplti g pd a imm) := by
  intro w
  refine of_control rfl w ?_ rfl
  unfold Dec.control
  rw [op_ctl]
  show some (Instr.cmplti _ _ _ _) = some (.cmplti g pd a imm)
  simp (disch := decide) only [fG_ctl, fD_ctl, fA_ctl, low_ctl, bit_ctl, Enc.fCi12, Dec.fImm12, ext_all, bit_one, ext_wide, ext_ext, bit_ext, wide_ext, ext_hi, ext_lo, bit_hi, bit_lo, wide_wide, wide_lo, Nat.reduceSub]

theorem cmpltui (g : Guard) (pd : BitVec 4) (a : Reg) (imm : BitVec 12) : Statement (.cmpltui g pd a imm) := by
  intro w
  refine of_control rfl w ?_ rfl
  unfold Dec.control
  rw [op_ctl]
  show some (Instr.cmpltui _ _ _ _) = some (.cmpltui g pd a imm)
  simp (disch := decide) only [fG_ctl, fD_ctl, fA_ctl, low_ctl, bit_ctl, Enc.fCi12, Dec.fImm12, ext_all, bit_one, ext_wide, ext_ext, bit_ext, wide_ext, ext_hi, ext_lo, bit_hi, bit_lo, wide_wide, wide_lo, Nat.reduceSub]

theorem ld (g : Guard) (d : Reg) (a : Reg) (f : MemF) : Statement (.ld g d a f) := by
  intro w
  refine of_control rfl w ?_ rfl
  unfold Dec.control
  rw [op_ctl]
  show some (Instr.ld _ _ _ _) = some (.ld g d a f)
  simp (disch := decide) only [fG_ctl, fD_ctl, fA_ctl, low_ctl, bit_ctl, Enc.fCm, Dec.fMem, ext_all, bit_one, ext_wide, ext_ext, bit_ext, wide_ext, ext_hi, ext_lo, bit_hi, bit_lo, wide_wide, wide_lo, Nat.reduceSub]

theorem ldu (g : Guard) (d : Reg) (a : Reg) (f : MemF) : Statement (.ldu g d a f) := by
  intro w
  refine of_control rfl w ?_ rfl
  unfold Dec.control
  rw [op_ctl]
  show some (Instr.ldu _ _ _ _) = some (.ldu g d a f)
  simp (disch := decide) only [fG_ctl, fD_ctl, fA_ctl, low_ctl, bit_ctl, Enc.fCm, Dec.fMem, ext_all, bit_one, ext_wide, ext_ext, bit_ext, wide_ext, ext_hi, ext_lo, bit_hi, bit_lo, wide_wide, wide_lo, Nat.reduceSub]

theorem st (g : Guard) (a : Reg) (b : Reg) (f : MemF) : Statement (.st g a b f) := by
  intro w
  refine of_control rfl w ?_ rfl
  unfold Dec.control
  rw [op_ctl]
  show some (Instr.st _ _ _ _) = some (.st g a b f)
  simp (disch := decide) only [fG_ctl, fD_ctl, fA_ctl, low_ctl, bit_ctl, Enc.fCm, Dec.fB, Dec.fMem, ext_all, bit_one, ext_wide, ext_ext, bit_ext, wide_ext, ext_hi, ext_lo, bit_hi, bit_lo, wide_wide, wide_lo, Nat.reduceSub]

theorem ldfw (g : Guard) (d : Reg) (a : Reg) (b : Reg) (c : Reg) (e : Bool) (off : BitVec 12) : Statement (.ldfw g d a b c e off) := by
  intro w
  refine of_control rfl w ?_ rfl
  unfold Dec.control
  rw [op_ctl]
  show some (Instr.ldfw _ _ _ _ _ _ _) = some (.ldfw g d a b c e off)
  simp (disch := decide) only [fG_ctl, fD_ctl, fA_ctl, low_ctl, bit_ctl, fB_ct, fC_ct, fE_ct, fTgt_ct, fImm12_ct, ext_all, bit_one, ext_wide, ext_ext, bit_ext, wide_ext, ext_hi, ext_lo, bit_hi, bit_lo, wide_wide, wide_lo, Nat.reduceSub]

theorem ldfe (g : Guard) (d : Reg) (a : Reg) (b : Reg) (c : Reg) (e : Bool) (off : BitVec 12) : Statement (.ldfe g d a b c e off) := by
  intro w
  refine of_control rfl w ?_ rfl
  unfold Dec.control
  rw [op_ctl]
  show some (Instr.ldfe _ _ _ _ _ _ _) = some (.ldfe g d a b c e off)
  simp (disch := decide) only [fG_ctl, fD_ctl, fA_ctl, low_ctl, bit_ctl, fB_ct, fC_ct, fE_ct, fTgt_ct, fImm12_ct, ext_all, bit_one, ext_wide, ext_ext, bit_ext, wide_ext, ext_hi, ext_lo, bit_hi, bit_lo, wide_wide, wide_lo, Nat.reduceSub]

theorem stef (g : Guard) (d : Reg) (a : Reg) (b : Reg) (c : Reg) (e : Bool) (off : BitVec 12) : Statement (.stef g d a b c e off) := by
  intro w
  refine of_control rfl w ?_ rfl
  unfold Dec.control
  rw [op_ctl]
  show some (Instr.stef _ _ _ _ _ _ _) = some (.stef g d a b c e off)
  simp (disch := decide) only [fG_ctl, fD_ctl, fA_ctl, low_ctl, bit_ctl, fB_ct, fC_ct, fE_ct, fTgt_ct, fImm12_ct, ext_all, bit_one, ext_wide, ext_ext, bit_ext, wide_ext, ext_hi, ext_lo, bit_hi, bit_lo, wide_wide, wide_lo, Nat.reduceSub]

theorem stff (g : Guard) (a : Reg) (b : Reg) (off : BitVec 12) : Statement (.stff g a b off) := by
  intro w
  refine of_control rfl w ?_ rfl
  unfold Dec.control
  rw [op_ctl]
  show some (Instr.stff _ _ _ _) = some (.stff g a b off)
  simp (disch := decide) only [fG_ctl, fD_ctl, fA_ctl, low_ctl, bit_ctl, fB_ct, fC_ct, fE_ct, fTgt_ct, fImm12_ct, ext_all, bit_one, ext_wide, ext_ext, bit_ext, wide_ext, ext_hi, ext_lo, bit_hi, bit_lo, wide_wide, wide_lo, Nat.reduceSub]

theorem purge (g : Guard) (a : Reg) (off : BitVec 12) : Statement (.purge g a off) := by
  intro w
  refine of_control rfl w ?_ rfl
  unfold Dec.control
  rw [op_ctl]
  show some (Instr.purge _ _ _) = some (.purge g a off)
  simp (disch := decide) only [fG_ctl, fD_ctl, fA_ctl, low_ctl, bit_ctl, fB_ct, fC_ct, fE_ct, fTgt_ct, fImm12_ct, ext_all, bit_one, ext_wide, ext_ext, bit_ext, wide_ext, ext_hi, ext_lo, bit_hi, bit_lo, wide_wide, wide_lo, Nat.reduceSub]

theorem tagrd (g : Guard) (d : Reg) (a : Reg) (b : Reg) (off : BitVec 12) : Statement (.tagrd g d a b off) := by
  intro w
  refine of_control rfl w ?_ rfl
  unfold Dec.control
  rw [op_ctl]
  show some (Instr.tagrd _ _ _ _ _) = some (.tagrd g d a b off)
  simp (disch := decide) only [fG_ctl, fD_ctl, fA_ctl, low_ctl, bit_ctl, fB_ct, fC_ct, fE_ct, fTgt_ct, fImm12_ct, ext_all, bit_one, ext_wide, ext_ext, bit_ext, wide_ext, ext_hi, ext_lo, bit_hi, bit_lo, wide_wide, wide_lo, Nat.reduceSub]

theorem aadd (g : Guard) (d : Reg) (a : Reg) (b : Reg) (f : AtomF) : Statement (.aadd g d a b f) := by
  intro w
  refine of_control rfl w ?_ rfl
  unfold Dec.control
  rw [op_ctl]
  show some (Instr.aadd _ _ _ _ _) = some (.aadd g d a b f)
  simp (disch := decide) only [fG_ctl, fD_ctl, fA_ctl, low_ctl, bit_ctl, Enc.fCa, Dec.fB, Dec.fAtom, ext_all, bit_one, ext_wide, ext_ext, bit_ext, wide_ext, ext_hi, ext_lo, bit_hi, bit_lo, wide_wide, wide_lo, Nat.reduceSub]

theorem amin (g : Guard) (d : Reg) (a : Reg) (b : Reg) (f : AtomF) : Statement (.amin g d a b f) := by
  intro w
  refine of_control rfl w ?_ rfl
  unfold Dec.control
  rw [op_ctl]
  show some (Instr.amin _ _ _ _ _) = some (.amin g d a b f)
  simp (disch := decide) only [fG_ctl, fD_ctl, fA_ctl, low_ctl, bit_ctl, Enc.fCa, Dec.fB, Dec.fAtom, ext_all, bit_one, ext_wide, ext_ext, bit_ext, wide_ext, ext_hi, ext_lo, bit_hi, bit_lo, wide_wide, wide_lo, Nat.reduceSub]

theorem amax (g : Guard) (d : Reg) (a : Reg) (b : Reg) (f : AtomF) : Statement (.amax g d a b f) := by
  intro w
  refine of_control rfl w ?_ rfl
  unfold Dec.control
  rw [op_ctl]
  show some (Instr.amax _ _ _ _ _) = some (.amax g d a b f)
  simp (disch := decide) only [fG_ctl, fD_ctl, fA_ctl, low_ctl, bit_ctl, Enc.fCa, Dec.fB, Dec.fAtom, ext_all, bit_one, ext_wide, ext_ext, bit_ext, wide_ext, ext_hi, ext_lo, bit_hi, bit_lo, wide_wide, wide_lo, Nat.reduceSub]

theorem aminu (g : Guard) (d : Reg) (a : Reg) (b : Reg) (f : AtomF) : Statement (.aminu g d a b f) := by
  intro w
  refine of_control rfl w ?_ rfl
  unfold Dec.control
  rw [op_ctl]
  show some (Instr.aminu _ _ _ _ _) = some (.aminu g d a b f)
  simp (disch := decide) only [fG_ctl, fD_ctl, fA_ctl, low_ctl, bit_ctl, Enc.fCa, Dec.fB, Dec.fAtom, ext_all, bit_one, ext_wide, ext_ext, bit_ext, wide_ext, ext_hi, ext_lo, bit_hi, bit_lo, wide_wide, wide_lo, Nat.reduceSub]

theorem amaxu (g : Guard) (d : Reg) (a : Reg) (b : Reg) (f : AtomF) : Statement (.amaxu g d a b f) := by
  intro w
  refine of_control rfl w ?_ rfl
  unfold Dec.control
  rw [op_ctl]
  show some (Instr.amaxu _ _ _ _ _) = some (.amaxu g d a b f)
  simp (disch := decide) only [fG_ctl, fD_ctl, fA_ctl, low_ctl, bit_ctl, Enc.fCa, Dec.fB, Dec.fAtom, ext_all, bit_one, ext_wide, ext_ext, bit_ext, wide_ext, ext_hi, ext_lo, bit_hi, bit_lo, wide_wide, wide_lo, Nat.reduceSub]

theorem aand (g : Guard) (d : Reg) (a : Reg) (b : Reg) (f : AtomF) : Statement (.aand g d a b f) := by
  intro w
  refine of_control rfl w ?_ rfl
  unfold Dec.control
  rw [op_ctl]
  show some (Instr.aand _ _ _ _ _) = some (.aand g d a b f)
  simp (disch := decide) only [fG_ctl, fD_ctl, fA_ctl, low_ctl, bit_ctl, Enc.fCa, Dec.fB, Dec.fAtom, ext_all, bit_one, ext_wide, ext_ext, bit_ext, wide_ext, ext_hi, ext_lo, bit_hi, bit_lo, wide_wide, wide_lo, Nat.reduceSub]

theorem aor (g : Guard) (d : Reg) (a : Reg) (b : Reg) (f : AtomF) : Statement (.aor g d a b f) := by
  intro w
  refine of_control rfl w ?_ rfl
  unfold Dec.control
  rw [op_ctl]
  show some (Instr.aor _ _ _ _ _) = some (.aor g d a b f)
  simp (disch := decide) only [fG_ctl, fD_ctl, fA_ctl, low_ctl, bit_ctl, Enc.fCa, Dec.fB, Dec.fAtom, ext_all, bit_one, ext_wide, ext_ext, bit_ext, wide_ext, ext_hi, ext_lo, bit_hi, bit_lo, wide_wide, wide_lo, Nat.reduceSub]

theorem axor (g : Guard) (d : Reg) (a : Reg) (b : Reg) (f : AtomF) : Statement (.axor g d a b f) := by
  intro w
  refine of_control rfl w ?_ rfl
  unfold Dec.control
  rw [op_ctl]
  show some (Instr.axor _ _ _ _ _) = some (.axor g d a b f)
  simp (disch := decide) only [fG_ctl, fD_ctl, fA_ctl, low_ctl, bit_ctl, Enc.fCa, Dec.fB, Dec.fAtom, ext_all, bit_one, ext_wide, ext_ext, bit_ext, wide_ext, ext_hi, ext_lo, bit_hi, bit_lo, wide_wide, wide_lo, Nat.reduceSub]

theorem axchg (g : Guard) (d : Reg) (a : Reg) (b : Reg) (f : AtomF) : Statement (.axchg g d a b f) := by
  intro w
  refine of_control rfl w ?_ rfl
  unfold Dec.control
  rw [op_ctl]
  show some (Instr.axchg _ _ _ _ _) = some (.axchg g d a b f)
  simp (disch := decide) only [fG_ctl, fD_ctl, fA_ctl, low_ctl, bit_ctl, Enc.fCa, Dec.fB, Dec.fAtom, ext_all, bit_one, ext_wide, ext_ext, bit_ext, wide_ext, ext_hi, ext_lo, bit_hi, bit_lo, wide_wide, wide_lo, Nat.reduceSub]

theorem acas (g : Guard) (d : Reg) (a : Reg) (b : Reg) (c : Reg) (f : AtomF) : Statement (.acas g d a b c f) := by
  intro w
  refine of_control rfl w ?_ rfl
  unfold Dec.control
  rw [op_ctl]
  show some (Instr.acas _ _ _ _ _ _) = some (.acas g d a b c f)
  simp (disch := decide) only [fG_ctl, fD_ctl, fA_ctl, low_ctl, bit_ctl, Enc.fCa, Dec.fB, Dec.fC, Dec.fAtom, ext_all, bit_one, ext_wide, ext_ext, bit_ext, wide_ext, ext_hi, ext_lo, bit_hi, bit_lo, wide_wide, wide_lo, Nat.reduceSub]

theorem afadd (g : Guard) (d : Reg) (a : Reg) (b : Reg) (f : AtomF) : Statement (.afadd g d a b f) := by
  intro w
  refine of_control rfl w ?_ rfl
  unfold Dec.control
  rw [op_ctl]
  show some (Instr.afadd _ _ _ _ _) = some (.afadd g d a b f)
  simp (disch := decide) only [fG_ctl, fD_ctl, fA_ctl, low_ctl, bit_ctl, Enc.fCa, Dec.fB, Dec.fAtom, ext_all, bit_one, ext_wide, ext_ext, bit_ext, wide_ext, ext_hi, ext_lo, bit_hi, bit_lo, wide_wide, wide_lo, Nat.reduceSub]

theorem aincb (g : Guard) (d : Reg) (a : Reg) (b : Reg) (c : Reg) (f : AtomF) : Statement (.aincb g d a b c f) := by
  intro w
  refine of_control rfl w ?_ rfl
  unfold Dec.control
  rw [op_ctl]
  show some (Instr.aincb _ _ _ _ _ _) = some (.aincb g d a b c f)
  simp (disch := decide) only [fG_ctl, fD_ctl, fA_ctl, low_ctl, bit_ctl, Enc.fCa, Dec.fB, Dec.fC, Dec.fAtom, ext_all, bit_one, ext_wide, ext_ext, bit_ext, wide_ext, ext_hi, ext_lo, bit_hi, bit_lo, wide_wide, wide_lo, Nat.reduceSub]

theorem fence (g : Guard) (d : Reg) (b : Reg) (c : Reg) (e : Bool) (scope : BitVec 3) (eng : Bool) : Statement (.fence g d b c e scope eng) := by
  intro w
  refine of_control rfl w ?_ rfl
  unfold Dec.control
  rw [op_ctl]
  show some (Instr.fence _ _ _ _ _ _ _) = some (.fence g d b c e scope eng)
  simp (disch := decide) only [fG_ctl, fD_ctl, fA_ctl, low_ctl, bit_ctl, fB_ct, fC_ct, fE_ct, fTgt_ct, fImm12_ct, ext_all, bit_one, ext_wide, ext_ext, bit_ext, wide_ext, ext_hi, ext_lo, bit_hi, bit_lo, wide_wide, wide_lo, Nat.reduceSub]

theorem waitc (g : Guard) (d : Reg) (c : Reg) (e : Bool) (ld : BitVec 3) (st : BitVec 3) (cp : BitVec 3) (tl : BitVec 3) : Statement (.waitc g d c e ld st cp tl) := by
  intro w
  refine of_control rfl w ?_ rfl
  unfold Dec.control
  rw [op_ctl]
  show some (Instr.waitc _ _ _ _ _ _ _ _) = some (.waitc g d c e ld st cp tl)
  simp (disch := decide) only [fG_ctl, fD_ctl, fA_ctl, low_ctl, bit_ctl, fB_ct, fC_ct, fE_ct, fTgt_ct, fImm12_ct, ext_all, bit_one, ext_wide, ext_ext, bit_ext, wide_ext, ext_hi, ext_lo, bit_hi, bit_lo, wide_wide, wide_lo, Nat.reduceSub]

theorem barr (g : Guard) (d : Reg) (bar : BitVec 10) : Statement (.barr g d bar) := by
  intro w
  refine of_control rfl w ?_ rfl
  unfold Dec.control
  rw [op_ctl]
  show some (Instr.barr _ _ _) = some (.barr g d bar)
  simp (disch := decide) only [fG_ctl, fD_ctl, fA_ctl, low_ctl, bit_ctl, fB_ct, fC_ct, fE_ct, fTgt_ct, fImm12_ct, ext_all, bit_one, ext_wide, ext_ext, bit_ext, wide_ext, ext_hi, ext_lo, bit_hi, bit_lo, wide_wide, wide_lo, Nat.reduceSub]

theorem bwait (g : Guard) (d : Reg) (c : Reg) (e : Bool) (bar : BitVec 10) : Statement (.bwait g d c e bar) := by
  intro w
  refine of_control rfl w ?_ rfl
  unfold Dec.control
  rw [op_ctl]
  show some (Instr.bwait _ _ _ _ _) = some (.bwait g d c e bar)
  simp (disch := decide) only [fG_ctl, fD_ctl, fA_ctl, low_ctl, bit_ctl, fB_ct, fC_ct, fE_ct, fTgt_ct, fImm12_ct, ext_all, bit_one, ext_wide, ext_ext, bit_ext, wide_ext, ext_hi, ext_lo, bit_hi, bit_lo, wide_wide, wide_lo, Nat.reduceSub]

theorem bsync (g : Guard) (d : Reg) (c : Reg) (e : Bool) (bar : BitVec 10) : Statement (.bsync g d c e bar) := by
  intro w
  refine of_control rfl w ?_ rfl
  unfold Dec.control
  rw [op_ctl]
  show some (Instr.bsync _ _ _ _ _) = some (.bsync g d c e bar)
  simp (disch := decide) only [fG_ctl, fD_ctl, fA_ctl, low_ctl, bit_ctl, fB_ct, fC_ct, fE_ct, fTgt_ct, fImm12_ct, ext_all, bit_one, ext_wide, ext_ext, bit_ext, wide_ext, ext_hi, ext_lo, bit_hi, bit_lo, wide_wide, wide_lo, Nat.reduceSub]

theorem bwdr (g : Guard) (d : Reg) (bar : BitVec 10) : Statement (.bwdr g d bar) := by
  intro w
  refine of_control rfl w ?_ rfl
  unfold Dec.control
  rw [op_ctl]
  show some (Instr.bwdr _ _ _) = some (.bwdr g d bar)
  simp (disch := decide) only [fG_ctl, fD_ctl, fA_ctl, low_ctl, bit_ctl, fB_ct, fC_ct, fE_ct, fTgt_ct, fImm12_ct, ext_all, bit_one, ext_wide, ext_ext, bit_ext, wide_ext, ext_hi, ext_lo, bit_hi, bit_lo, wide_wide, wide_lo, Nat.reduceSub]

theorem bcfg (g : Guard) (d : Reg) (b : Reg) (bar : BitVec 10) : Statement (.bcfg g d b bar) := by
  intro w
  refine of_control rfl w ?_ rfl
  unfold Dec.control
  rw [op_ctl]
  show some (Instr.bcfg _ _ _ _) = some (.bcfg g d b bar)
  simp (disch := decide) only [fG_ctl, fD_ctl, fA_ctl, low_ctl, bit_ctl, fB_ct, fC_ct, fE_ct, fTgt_ct, fImm12_ct, ext_all, bit_one, ext_wide, ext_ext, bit_ext, wide_ext, ext_hi, ext_lo, bit_hi, bit_lo, wide_wide, wide_lo, Nat.reduceSub]

theorem waitq (g : Guard) (d : Reg) (a : Reg) (b : Reg) (c : Reg) (e : Bool) (off : BitVec 12) (sz : Bool) (scope : BitVec 3) : Statement (.waitq g d a b c e off sz scope) := by
  intro w
  refine of_control rfl w ?_ rfl
  unfold Dec.control
  rw [op_ctl]
  show some (Instr.waitq _ _ _ _ _ _ _ _ _) = some (.waitq g d a b c e off sz scope)
  simp (disch := decide) only [fG_ctl, fD_ctl, fA_ctl, low_ctl, bit_ctl, fB_ct, fC_ct, fE_ct, fTgt_ct, fImm12_ct, ext_all, bit_one, ext_wide, ext_ext, bit_ext, wide_ext, ext_hi, ext_lo, bit_hi, bit_lo, wide_wide, wide_lo, Nat.reduceSub]

theorem wake (g : Guard) (d : Reg) (a : Reg) (b : Reg) (off : BitVec 12) (sz : Bool) (scope : BitVec 3) : Statement (.wake g d a b off sz scope) := by
  intro w
  refine of_control rfl w ?_ rfl
  unfold Dec.control
  rw [op_ctl]
  show some (Instr.wake _ _ _ _ _ _ _) = some (.wake g d a b off sz scope)
  simp (disch := decide) only [fG_ctl, fD_ctl, fA_ctl, low_ctl, bit_ctl, fB_ct, fC_ct, fE_ct, fTgt_ct, fImm12_ct, ext_all, bit_one, ext_wide, ext_ext, bit_ext, wide_ext, ext_hi, ext_lo, bit_hi, bit_lo, wide_wide, wide_lo, Nat.reduceSub]

theorem qsend (g : Guard) (d : Reg) (a : Reg) (b : Reg) (c : Reg) (e : Bool) (off : BitVec 12) (scope : BitVec 3) : Statement (.qsend g d a b c e off scope) := by
  intro w
  refine of_control rfl w ?_ rfl
  unfold Dec.control
  rw [op_ctl]
  show some (Instr.qsend _ _ _ _ _ _ _ _) = some (.qsend g d a b c e off scope)
  simp (disch := decide) only [fG_ctl, fD_ctl, fA_ctl, low_ctl, bit_ctl, fB_ct, fC_ct, fE_ct, fTgt_ct, fImm12_ct, ext_all, bit_one, ext_wide, ext_ext, bit_ext, wide_ext, ext_hi, ext_lo, bit_hi, bit_lo, wide_wide, wide_lo, Nat.reduceSub]

theorem qrecv (g : Guard) (d : Reg) (a : Reg) (b : Reg) (c : Reg) (e : Bool) (off : BitVec 12) (scope : BitVec 3) : Statement (.qrecv g d a b c e off scope) := by
  intro w
  refine of_control rfl w ?_ rfl
  unfold Dec.control
  rw [op_ctl]
  show some (Instr.qrecv _ _ _ _ _ _ _ _) = some (.qrecv g d a b c e off scope)
  simp (disch := decide) only [fG_ctl, fD_ctl, fA_ctl, low_ctl, bit_ctl, fB_ct, fC_ct, fE_ct, fTgt_ct, fImm12_ct, ext_all, bit_one, ext_wide, ext_ext, bit_ext, wide_ext, ext_hi, ext_lo, bit_hi, bit_lo, wide_wide, wide_lo, Nat.reduceSub]

theorem ewait (g : Guard) (d : Reg) (b : Reg) (c : Reg) (e : Bool) (fl : BitVec 6) : Statement (.ewait g d b c e fl) := by
  intro w
  refine of_control rfl w ?_ rfl
  unfold Dec.control
  rw [op_ctl]
  show some (Instr.ewait _ _ _ _ _ _) = some (.ewait g d b c e fl)
  simp (disch := decide) only [fG_ctl, fD_ctl, fA_ctl, low_ctl, bit_ctl, fB_ct, fC_ct, fE_ct, fTgt_ct, fImm12_ct, ext_all, bit_one, ext_wide, ext_ext, bit_ext, wide_ext, ext_hi, ext_lo, bit_hi, bit_lo, wide_wide, wide_lo, Nat.reduceSub]

theorem eadd (g : Guard) (b : Reg) (fl : BitVec 6) : Statement (.eadd g b fl) := by
  intro w
  refine of_control rfl w ?_ rfl
  unfold Dec.control
  rw [op_ctl]
  show some (Instr.eadd _ _ _) = some (.eadd g b fl)
  simp (disch := decide) only [fG_ctl, fD_ctl, fA_ctl, low_ctl, bit_ctl, fB_ct, fC_ct, fE_ct, fTgt_ct, fImm12_ct, ext_all, bit_one, ext_wide, ext_ext, bit_ext, wide_ext, ext_hi, ext_lo, bit_hi, bit_lo, wide_wide, wide_lo, Nat.reduceSub]

theorem evcfg (g : Guard) (d : Reg) (a : Reg) (off : BitVec 12) (rule : BitVec 4) : Statement (.evcfg g d a off rule) := by
  intro w
  refine of_control rfl w ?_ rfl
  unfold Dec.control
  rw [op_ctl]
  show some (Instr.evcfg _ _ _ _ _) = some (.evcfg g d a off rule)
  simp (disch := decide) only [fG_ctl, fD_ctl, fA_ctl, low_ctl, bit_ctl, fB_ct, fC_ct, fE_ct, fTgt_ct, fImm12_ct, ext_all, bit_one, ext_wide, ext_ext, bit_ext, wide_ext, ext_hi, ext_lo, bit_hi, bit_lo, wide_wide, wide_lo, Nat.reduceSub]

theorem fork (g : Guard) (d : Reg) (a : Reg) (c : Reg) (mask : BitVec 3) (rdv : BitVec 10) : Statement (.fork g d a c mask rdv) := by
  intro w
  refine of_control rfl w ?_ rfl
  unfold Dec.control
  rw [op_ctl]
  show some (Instr.fork _ _ _ _ _ _) = some (.fork g d a c mask rdv)
  simp (disch := decide) only [fG_ctl, fD_ctl, fA_ctl, low_ctl, bit_ctl, Enc.fCe, Dec.fC, Dec.fMask, Dec.fRdv, ext_all, bit_one, ext_wide, ext_ext, bit_ext, wide_ext, ext_hi, ext_lo, bit_hi, bit_lo, wide_wide, wide_lo, Nat.reduceSub]

theorem join (g : Guard) (d : Reg) (c : Reg) (mask : BitVec 3) (rdv : BitVec 10) : Statement (.join g d c mask rdv) := by
  intro w
  refine of_control rfl w ?_ rfl
  unfold Dec.control
  rw [op_ctl]
  show some (Instr.join _ _ _ _ _) = some (.join g d c mask rdv)
  simp (disch := decide) only [fG_ctl, fD_ctl, fA_ctl, low_ctl, bit_ctl, Enc.fCe, Dec.fC, Dec.fMask, Dec.fRdv, ext_all, bit_one, ext_wide, ext_ext, bit_ext, wide_ext, ext_hi, ext_lo, bit_hi, bit_lo, wide_wide, wide_lo, Nat.reduceSub]

theorem epushRun (g : Guard) (d : Reg) (a : Reg) (b : Reg) (c : Reg) (mask : BitVec 3) : Statement (.epushRun g d a b c mask) := by
  intro w
  refine of_control rfl w ?_ rfl
  unfold Dec.control
  rw [op_ctl]
  show some (Instr.epushRun _ _ _ _ _ _) = some (.epushRun g d a b c mask)
  simp (disch := decide) only [fG_ctl, fD_ctl, fA_ctl, low_ctl, bit_ctl, Enc.fCe, Dec.fB, Dec.fC, Dec.fMask, ext_all, bit_one, ext_wide, ext_ext, bit_ext, wide_ext, ext_hi, ext_lo, bit_hi, bit_lo, wide_wide, wide_lo, Nat.reduceSub]

theorem epushSetf (g : Guard) (d : Reg) (a : Reg) (b : Reg) (c : Reg) (mask : BitVec 3) : Statement (.epushSetf g d a b c mask) := by
  intro w
  refine of_control rfl w ?_ rfl
  unfold Dec.control
  rw [op_ctl]
  show some (Instr.epushRun _ _ _ _ _ _) = some (.epushRun g d a b c mask)
  simp (disch := decide) only [fG_ctl, fD_ctl, fA_ctl, low_ctl, bit_ctl, Enc.fCe, Dec.fB, Dec.fC, Dec.fMask, ext_all, bit_one, ext_wide, ext_ext, bit_ext, wide_ext, ext_hi, ext_lo, bit_hi, bit_lo, wide_wide, wide_lo, Nat.reduceSub]

theorem epushWaitf (g : Guard) (d : Reg) (a : Reg) (b : Reg) (c : Reg) (mask : BitVec 3) : Statement (.epushWaitf g d a b c mask) := by
  intro w
  refine of_control rfl w ?_ rfl
  unfold Dec.control
  rw [op_ctl]
  show some (Instr.epushRun _ _ _ _ _ _) = some (.epushRun g d a b c mask)
  simp (disch := decide) only [fG_ctl, fD_ctl, fA_ctl, low_ctl, bit_ctl, Enc.fCe, Dec.fB, Dec.fC, Dec.fMask, ext_all, bit_one, ext_wide, ext_ext, bit_ext, wide_ext, ext_hi, ext_lo, bit_hi, bit_lo, wide_wide, wide_lo, Nat.reduceSub]

theorem sbind (g : Guard) (d : Reg) (c : Reg) (e : Bool) (q : BitVec 4) (t : BitVec 6) (ch : BitVec 2) : Statement (.sbind g d c e q t ch) := by
  intro w
  refine of_control rfl w ?_ rfl
  unfold Dec.control
  rw [op_ctl]
  show some (Instr.sbind _ _ _ _ _ _ _) = some (.sbind g d c e q t ch)
  simp (disch := decide) only [fG_ctl, fD_ctl, fA_ctl, low_ctl, bit_ctl, fB_ct, fC_ct, fE_ct, fTgt_ct, fImm12_ct, ext_all, bit_one, ext_wide, ext_ext, bit_ext, wide_ext, ext_hi, ext_lo, bit_hi, bit_lo, wide_wide, wide_lo, Nat.reduceSub]

theorem sfree (g : Guard) (d : Reg) (q : BitVec 4) : Statement (.sfree g d q) := by
  intro w
  refine of_control rfl w ?_ rfl
  unfold Dec.control
  rw [op_ctl]
  show some (Instr.sfree _ _ _) = some (.sfree g d q)
  simp (disch := decide) only [fG_ctl, fD_ctl, fA_ctl, low_ctl, bit_ctl, fB_ct, fC_ct, fE_ct, fTgt_ct, fImm12_ct, ext_all, bit_one, ext_wide, ext_ext, bit_ext, wide_ext, ext_hi, ext_lo, bit_hi, bit_lo, wide_wide, wide_lo, Nat.reduceSub]

theorem halt (g : Guard) : Statement (.halt g) := by
  intro w
  refine of_control rfl w ?_ rfl
  unfold Dec.control
  rw [op_ctl]
  show some (Instr.halt _) = some (.halt g)
  simp (disch := decide) only [fG_ctl, fD_ctl, fA_ctl, low_ctl, bit_ctl, Enc.fCr, ext_all, bit_one, ext_wide, ext_ext, bit_ext, wide_ext, ext_hi, ext_lo, bit_hi, bit_lo, wide_wide, wide_lo, Nat.reduceSub]

theorem br (g : Guard) (disp : BitVec 32) : Statement (.br g disp) := by
  intro w
  refine of_control rfl w ?_ rfl
  unfold Dec.control
  rw [op_ctl]
  show some (Instr.br _ _) = some (.br g disp)
  simp (disch := decide) only [fG_ctl, fD_ctl, fA_ctl, low_ctl, bit_ctl, Enc.fCb, Dec.fImm32, ext_all, bit_one, ext_wide, ext_ext, bit_ext, wide_ext, ext_hi, ext_lo, bit_hi, bit_lo, wide_wide, wide_lo, Nat.reduceSub]

theorem call (g : Guard) (disp : BitVec 32) : Statement (.call g disp) := by
  intro w
  refine of_control rfl w ?_ rfl
  unfold Dec.control
  rw [op_ctl]
  show some (Instr.call _ _) = some (.call g disp)
  simp (disch := decide) only [fG_ctl, fD_ctl, fA_ctl, low_ctl, bit_ctl, Enc.fCb, Dec.fImm32, ext_all, bit_one, ext_wide, ext_ext, bit_ext, wide_ext, ext_hi, ext_lo, bit_hi, bit_lo, wide_wide, wide_lo, Nat.reduceSub]

theorem callr (g : Guard) (a : Reg) : Statement (.callr g a) := by
  intro w
  refine of_control rfl w ?_ rfl
  unfold Dec.control
  rw [op_ctl]
  show some (Instr.callr _ _) = some (.callr g a)
  simp (disch := decide) only [fG_ctl, fD_ctl, fA_ctl, low_ctl, bit_ctl, Enc.fCr, ext_all, bit_one, ext_wide, ext_ext, bit_ext, wide_ext, ext_hi, ext_lo, bit_hi, bit_lo, wide_wide, wide_lo, Nat.reduceSub]

theorem jmpr (g : Guard) (a : Reg) : Statement (.jmpr g a) := by
  intro w
  refine of_control rfl w ?_ rfl
  unfold Dec.control
  rw [op_ctl]
  show some (Instr.jmpr _ _) = some (.jmpr g a)
  simp (disch := decide) only [fG_ctl, fD_ctl, fA_ctl, low_ctl, bit_ctl, Enc.fCr, ext_all, bit_one, ext_wide, ext_ext, bit_ext, wide_ext, ext_hi, ext_lo, bit_hi, bit_lo, wide_wide, wide_lo, Nat.reduceSub]

theorem ret (g : Guard) : Statement (.ret g) := by
  intro w
  refine of_control rfl w ?_ rfl
  unfold Dec.control
  rw [op_ctl]
  show some (Instr.ret _) = some (.ret g)
  simp (disch := decide) only [fG_ctl, fD_ctl, fA_ctl, low_ctl, bit_ctl, Enc.fCr, ext_all, bit_one, ext_wide, ext_ext, bit_ext, wide_ext, ext_hi, ext_lo, bit_hi, bit_lo, wide_wide, wide_lo, Nat.reduceSub]

theorem loop (g : Guard) (a : Reg) (lv : BitVec 3) (len : BitVec 16) (cnt : BitVec 20) : Statement (.loop g a lv len cnt) := by
  intro w
  refine of_control rfl w ?_ rfl
  unfold Dec.control
  rw [op_ctl]
  show some (Instr.loop _ _ _ _ _) = some (.loop g a lv len cnt)
  simp (disch := decide) only [fG_ctl, fD_ctl, fA_ctl, low_ctl, bit_ctl, Enc.fCl, Dec.fLv, Dec.fLen, Dec.fImm20, ext_all, bit_one, ext_wide, ext_ext, bit_ext, wide_ext, ext_hi, ext_lo, bit_hi, bit_lo, wide_wide, wide_lo, Nat.reduceSub]

theorem loopq (g : Guard) (k : BitVec 3) (lv : BitVec 3) (len : BitVec 16) : Statement (.loopq g k lv len) := by
  intro w
  refine of_control rfl w ?_ rfl
  unfold Dec.control
  rw [op_ctl]
  show some (Instr.loopq _ _ _ _) = some (.loopq g k lv len)
  simp (disch := decide) only [fG_ctl, fD_ctl, fA_ctl, low_ctl, bit_ctl, Enc.fCl, Dec.fLv, Dec.fLen, ext_all, bit_one, ext_wide, ext_ext, bit_ext, wide_ext, ext_hi, ext_lo, bit_hi, bit_lo, wide_wide, wide_lo, Nat.reduceSub]

theorem lbrk (g : Guard) (lv : BitVec 3) : Statement (.lbrk g lv) := by
  intro w
  refine of_control rfl w ?_ rfl
  unfold Dec.control
  rw [op_ctl]
  show some (Instr.lbrk _ _) = some (.lbrk g lv)
  simp (disch := decide) only [fG_ctl, fD_ctl, fA_ctl, low_ctl, bit_ctl, Enc.fCl, Dec.fLv, ext_all, bit_one, ext_wide, ext_ext, bit_ext, wide_ext, ext_hi, ext_lo, bit_hi, bit_lo, wide_wide, wide_lo, Nat.reduceSub]

theorem seam (g : Guard) (d : Reg) (c : Reg) (e : Bool) (idx : BitVec 14) : Statement (.seam g d c e idx) := by
  intro w
  refine of_control rfl w ?_ rfl
  unfold Dec.control
  rw [op_ctl]
  show some (Instr.seam _ _ _ _ _) = some (.seam g d c e idx)
  simp (disch := decide) only [fG_ctl, fD_ctl, fA_ctl, low_ctl, bit_ctl, fB_ct, fC_ct, fE_ct, fTgt_ct, fImm12_ct, ext_all, bit_one, ext_wide, ext_ext, bit_ext, wide_ext, ext_hi, ext_lo, bit_hi, bit_lo, wide_wide, wide_lo, Nat.reduceSub]

theorem tlift (g : Guard) (d : Reg) (a : Reg) (b : Reg) (x : BitVec 4) : Statement (.tlift g d a b x) := by
  intro w
  refine of_control rfl w ?_ rfl
  unfold Dec.control
  rw [op_ctl]
  show some (Instr.tlift _ _ _ _ _) = some (.tlift g d a b x)
  simp (disch := decide) only [fG_ctl, fD_ctl, fA_ctl, low_ctl, bit_ctl, Enc.fCr, Dec.fB, Dec.fX, ext_all, bit_one, ext_wide, ext_ext, bit_ext, wide_ext, ext_hi, ext_lo, bit_hi, bit_lo, wide_wide, wide_lo, Nat.reduceSub]

theorem tdrop (g : Guard) (d : Reg) (a : Reg) (b : Reg) (x : BitVec 4) : Statement (.tdrop g d a b x) := by
  intro w
  refine of_control rfl w ?_ rfl
  unfold Dec.control
  rw [op_ctl]
  show some (Instr.tdrop _ _ _ _ _) = some (.tdrop g d a b x)
  simp (disch := decide) only [fG_ctl, fD_ctl, fA_ctl, low_ctl, bit_ctl, Enc.fCr, Dec.fB, Dec.fX, ext_all, bit_one, ext_wide, ext_ext, bit_ext, wide_ext, ext_hi, ext_lo, bit_hi, bit_lo, wide_wide, wide_lo, Nat.reduceSub]

theorem thome (g : Guard) (d : Reg) (a : Reg) : Statement (.thome g d a) := by
  intro w
  refine of_control rfl w ?_ rfl
  unfold Dec.control
  rw [op_ctl]
  show some (Instr.thome _ _ _) = some (.thome g d a)
  simp (disch := decide) only [fG_ctl, fD_ctl, fA_ctl, low_ctl, bit_ctl, Enc.fCr, ext_all, bit_one, ext_wide, ext_ext, bit_ext, wide_ext, ext_hi, ext_lo, bit_hi, bit_lo, wide_wide, wide_lo, Nat.reduceSub]

theorem spawn (g : Guard) (d : Reg) (a : Reg) : Statement (.spawn g d a) := by
  intro w
  refine of_control rfl w ?_ rfl
  unfold Dec.control
  rw [op_ctl]
  show some (Instr.spawn _ _ _) = some (.spawn g d a)
  simp (disch := decide) only [fG_ctl, fD_ctl, fA_ctl, low_ctl, bit_ctl, Enc.fCr, ext_all, bit_one, ext_wide, ext_ext, bit_ext, wide_ext, ext_hi, ext_lo, bit_hi, bit_lo, wide_wide, wide_lo, Nat.reduceSub]

theorem rdcsr (g : Guard) (d : Reg) (num : BitVec 16) : Statement (.rdcsr g d num) := by
  intro w
  refine of_control rfl w ?_ rfl
  unfold Dec.control
  rw [op_ctl]
  show some (Instr.rdcsr _ _ _) = some (.rdcsr g d num)
  simp (disch := decide) only [fG_ctl, fD_ctl, fA_ctl, low_ctl, bit_ctl, Enc.fCs, Dec.fNum, ext_all, bit_one, ext_wide, ext_ext, bit_ext, wide_ext, ext_hi, ext_lo, bit_hi, bit_lo, wide_wide, wide_lo, Nat.reduceSub]

theorem wrcsr (g : Guard) (a : Reg) (num : BitVec 16) : Statement (.wrcsr g a num) := by
  intro w
  refine of_control rfl w ?_ rfl
  unfold Dec.control
  rw [op_ctl]
  show some (Dec.candidateWrcsr _ _ _) = some (.wrcsr g a num)
  rw [show Dec.fNum (Enc.ctl 0x81 g 0 a (Enc.fCs num)) = num from
    (ext_lo _ _ _ _ (by decide)).trans ((ext_lo _ _ _ _ (by decide)).trans (ext_all _))]
  refine (congrArg some (show Dec.candidateWrcsr _ _ num = .wrcsr _ _ num from candidate_other _ _ _ (by simp only [wf, Bool.and_eq_true, Bool.not_eq_true'] at w; exact w.2))).trans ?_
  simp (disch := decide) only [fG_ctl, fA_ctl]

theorem frrctlCommit (g : Guard) (a : Reg) : Statement (.frrctlCommit g a) := by
  intro w
  refine of_control rfl w ?_ rfl
  unfold Dec.control
  rw [op_ctl]
  show some (Dec.candidateWrcsr _ _ _) = some (.frrctlCommit g a)
  rw [show Dec.fNum (Enc.ctl 0x81 g 0 a (Enc.fCs 0x214)) = 0x214 from
    (ext_lo _ _ _ _ (by decide)).trans ((ext_lo _ _ _ _ (by decide)).trans (ext_all _))]
  refine (congrArg some (show Dec.candidateWrcsr _ _ 0x214 = .frrctlCommit _ _ from rfl)).trans ?_
  simp (disch := decide) only [fG_ctl, fA_ctl]

theorem frrselWrite (g : Guard) (a : Reg) : Statement (.frrselWrite g a) := by
  intro w
  refine of_control rfl w ?_ rfl
  unfold Dec.control
  rw [op_ctl]
  show some (Dec.candidateWrcsr _ _ _) = some (.frrselWrite g a)
  rw [show Dec.fNum (Enc.ctl 0x81 g 0 a (Enc.fCs 0x210)) = 0x210 from
    (ext_lo _ _ _ _ (by decide)).trans ((ext_lo _ _ _ _ (by decide)).trans (ext_all _))]
  refine (congrArg some (show Dec.candidateWrcsr _ _ 0x210 = .frrselWrite _ _ from rfl)).trans ?_
  simp (disch := decide) only [fG_ctl, fA_ctl]

theorem xfinfoReplay (g : Guard) (a : Reg) : Statement (.xfinfoReplay g a) := by
  intro w
  refine of_control rfl w ?_ rfl
  unfold Dec.control
  rw [op_ctl]
  show some (Dec.candidateWrcsr _ _ _) = some (.xfinfoReplay g a)
  rw [show Dec.fNum (Enc.ctl 0x81 g 0 a (Enc.fCs 0x202)) = 0x202 from
    (ext_lo _ _ _ _ (by decide)).trans ((ext_lo _ _ _ _ (by decide)).trans (ext_all _))]
  refine (congrArg some (show Dec.candidateWrcsr _ _ 0x202 = .xfinfoReplay _ _ from rfl)).trans ?_
  simp (disch := decide) only [fG_ctl, fA_ctl]

theorem kqpush (g : Guard) (a : Reg) (k : BitVec 3) : Statement (.kqpush g a k) := by
  intro w
  refine of_control rfl w ?_ rfl
  unfold Dec.control
  rw [op_ctl]
  show some (Dec.candidateWrcsr _ _ _) = some (.kqpush g a k)
  rw [show Dec.fNum (Enc.ctl 0x81 g 0 a (Enc.fCs (0x61#13 ++ k))) = (0x61#13 ++ k) from
    (ext_lo _ _ _ _ (by decide)).trans ((ext_lo _ _ _ _ (by decide)).trans (ext_all _))]
  refine (congrArg some (show Dec.candidateWrcsr _ _ (0x61#13 ++ k) = .kqpush _ _ k from candidate_kq _ _ _)).trans ?_
  simp (disch := decide) only [fG_ctl, fA_ctl]

theorem tbctlEnableWrite (g : Guard) (a : Reg) : Statement (.tbctlEnableWrite g a) := by
  intro w
  refine of_control rfl w ?_ rfl
  unfold Dec.control
  rw [op_ctl]
  show some (Dec.candidateWrcsr _ _ _) = some (.tbctlEnableWrite g a)
  rw [show Dec.fNum (Enc.ctl 0x81 g 0 a (Enc.fCs 0x410)) = 0x410 from
    (ext_lo _ _ _ _ (by decide)).trans ((ext_lo _ _ _ _ (by decide)).trans (ext_all _))]
  refine (congrArg some (show Dec.candidateWrcsr _ _ 0x410 = .tbctlEnableWrite _ _ from rfl)).trans ?_
  simp (disch := decide) only [fG_ctl, fA_ctl]

theorem rdtime (g : Guard) (d : Reg) : Statement (.rdtime g d) := by
  intro w
  refine of_control rfl w ?_ rfl
  unfold Dec.control
  rw [op_ctl]
  show some (Instr.rdtime _ _) = some (.rdtime g d)
  simp (disch := decide) only [fG_ctl, fD_ctl, fA_ctl, low_ctl, bit_ctl, Enc.fCs, ext_all, bit_one, ext_wide, ext_ext, bit_ext, wide_ext, ext_hi, ext_lo, bit_hi, bit_lo, wide_wide, wide_lo, Nat.reduceSub]

theorem rdctime (g : Guard) (d : Reg) : Statement (.rdctime g d) := by
  intro w
  refine of_control rfl w ?_ rfl
  unfold Dec.control
  rw [op_ctl]
  show some (Instr.rdctime _ _) = some (.rdctime g d)
  simp (disch := decide) only [fG_ctl, fD_ctl, fA_ctl, low_ctl, bit_ctl, Enc.fCs, ext_all, bit_one, ext_wide, ext_ext, bit_ext, wide_ext, ext_hi, ext_lo, bit_hi, bit_lo, wide_wide, wide_lo, Nat.reduceSub]

theorem trap (g : Guard) (num : BitVec 16) : Statement (.trap g num) := by
  intro w
  refine of_control rfl w ?_ rfl
  unfold Dec.control
  rw [op_ctl]
  show some (Instr.trap _ _) = some (.trap g num)
  simp (disch := decide) only [fG_ctl, fD_ctl, fA_ctl, low_ctl, bit_ctl, Enc.fCs, Dec.fNum, ext_all, bit_one, ext_wide, ext_ext, bit_ext, wide_ext, ext_hi, ext_lo, bit_hi, bit_lo, wide_wide, wide_lo, Nat.reduceSub]

theorem eret (g : Guard) : Statement (.eret g) := by
  intro w
  refine of_control rfl w ?_ rfl
  unfold Dec.control
  rw [op_ctl]
  show some (Instr.eret _) = some (.eret g)
  simp (disch := decide) only [fG_ctl, fD_ctl, fA_ctl, low_ctl, bit_ctl, Enc.fCs, ext_all, bit_one, ext_wide, ext_ext, bit_ext, wide_ext, ext_hi, ext_lo, bit_hi, bit_lo, wide_wide, wide_lo, Nat.reduceSub]

theorem tlbinv (g : Guard) (a : Reg) (num : BitVec 16) : Statement (.tlbinv g a num) := by
  intro w
  refine of_control rfl w ?_ rfl
  unfold Dec.control
  rw [op_ctl]
  show some (Instr.tlbinv _ _ _) = some (.tlbinv g a num)
  simp (disch := decide) only [fG_ctl, fD_ctl, fA_ctl, low_ctl, bit_ctl, Enc.fCs, Dec.fNum, ext_all, bit_one, ext_wide, ext_ext, bit_ext, wide_ext, ext_hi, ext_lo, bit_hi, bit_lo, wide_wide, wide_lo, Nat.reduceSub]

theorem dcf (g : Guard) (d : Reg) (a : Reg) (c : Reg) (e : Bool) (off : BitVec 12) : Statement (.dcf g d a c e off) := by
  intro w
  refine of_control rfl w ?_ rfl
  unfold Dec.control
  rw [op_ctl]
  show some (Instr.dcf _ _ _ _ _ _) = some (.dcf g d a c e off)
  simp (disch := decide) only [fG_ctl, fD_ctl, fA_ctl, low_ctl, bit_ctl, fB_ct, fC_ct, fE_ct, fTgt_ct, fImm12_ct, ext_all, bit_one, ext_wide, ext_ext, bit_ext, wide_ext, ext_hi, ext_lo, bit_hi, bit_lo, wide_wide, wide_lo, Nat.reduceSub]

theorem cinv (g : Guard) (a : Reg) (num : BitVec 16) : Statement (.cinv g a num) := by
  intro w
  refine of_control rfl w ?_ rfl
  unfold Dec.control
  rw [op_ctl]
  show some (Instr.cinv _ _ _) = some (.cinv g a num)
  simp (disch := decide) only [fG_ctl, fD_ctl, fA_ctl, low_ctl, bit_ctl, Enc.fCs, Dec.fNum, ext_all, bit_one, ext_wide, ext_ext, bit_ext, wide_ext, ext_hi, ext_lo, bit_hi, bit_lo, wide_wide, wide_lo, Nat.reduceSub]

theorem bkpt (g : Guard) (num : BitVec 16) : Statement (.bkpt g num) := by
  intro w
  refine of_control rfl w ?_ rfl
  unfold Dec.control
  rw [op_ctl]
  show some (Instr.bkpt _ _) = some (.bkpt g num)
  simp (disch := decide) only [fG_ctl, fD_ctl, fA_ctl, low_ctl, bit_ctl, Enc.fCs, Dec.fNum, ext_all, bit_one, ext_wide, ext_ext, bit_ext, wide_ext, ext_hi, ext_lo, bit_hi, bit_lo, wide_wide, wide_lo, Nat.reduceSub]

theorem snapbc (g : Guard) : Statement (.snapbc g) := by
  intro w
  refine of_control rfl w ?_ rfl
  unfold Dec.control
  rw [op_ctl]
  show some (Instr.snapbc _) = some (.snapbc g)
  simp (disch := decide) only [fG_ctl, fD_ctl, fA_ctl, low_ctl, bit_ctl, Enc.fCs, ext_all, bit_one, ext_wide, ext_ext, bit_ext, wide_ext, ext_hi, ext_lo, bit_hi, bit_lo, wide_wide, wide_lo, Nat.reduceSub]

theorem vnop (rpt : BitVec 6) : Statement (.vnop rpt) := by
  intro w
  refine of_vector rfl w ?_
  unfold Dec.vector
  rw [op_vw]
  show some (Instr.vnop _) = some (.vnop rpt)
  simp (disch := decide) only [vH_vw, eRpt_vw, low_vw, bit_vw, Enc.fVr, ext_all, bit_one, ext_wide, ext_ext, bit_ext, wide_ext, ext_hi, ext_lo, bit_hi, bit_lo, wide_wide, wide_lo, Nat.reduceSub]

theorem vaddI32 (h : VH) (vd : BitVec 10) (va : BitVec 10) (vb : BitVec 10) : Statement (.vaddI32 h vd va vb) := by
  intro w
  refine of_vector rfl w ?_
  unfold Dec.vector
  rw [op_vw]
  show some (Instr.vaddI32 _ _ _ _) = some (.vaddI32 h vd va vb)
  simp (disch := decide) only [vH_vw, eRpt_vw, low_vw, bit_vw, Enc.fVr, Dec.vVd, Dec.vVa, Dec.vVb, ext_all, bit_one, ext_wide, ext_ext, bit_ext, wide_ext, ext_hi, ext_lo, bit_hi, bit_lo, wide_wide, wide_lo, Nat.reduceSub]

theorem vsubI32 (h : VH) (vd : BitVec 10) (va : BitVec 10) (vb : BitVec 10) : Statement (.vsubI32 h vd va vb) := by
  intro w
  refine of_vector rfl w ?_
  unfold Dec.vector
  rw [op_vw]
  show some (Instr.vsubI32 _ _ _ _) = some (.vsubI32 h vd va vb)
  simp (disch := decide) only [vH_vw, eRpt_vw, low_vw, bit_vw, Enc.fVr, Dec.vVd, Dec.vVa, Dec.vVb, ext_all, bit_one, ext_wide, ext_ext, bit_ext, wide_ext, ext_hi, ext_lo, bit_hi, bit_lo, wide_wide, wide_lo, Nat.reduceSub]

theorem vmulI32 (h : VH) (vd : BitVec 10) (va : BitVec 10) (vb : BitVec 10) : Statement (.vmulI32 h vd va vb) := by
  intro w
  refine of_vector rfl w ?_
  unfold Dec.vector
  rw [op_vw]
  show some (Instr.vmulI32 _ _ _ _) = some (.vmulI32 h vd va vb)
  simp (disch := decide) only [vH_vw, eRpt_vw, low_vw, bit_vw, Enc.fVr, Dec.vVd, Dec.vVa, Dec.vVb, ext_all, bit_one, ext_wide, ext_ext, bit_ext, wide_ext, ext_hi, ext_lo, bit_hi, bit_lo, wide_wide, wide_lo, Nat.reduceSub]

theorem vmulhI32 (h : VH) (vd : BitVec 10) (va : BitVec 10) (vb : BitVec 10) : Statement (.vmulhI32 h vd va vb) := by
  intro w
  refine of_vector rfl w ?_
  unfold Dec.vector
  rw [op_vw]
  show some (Instr.vmulhI32 _ _ _ _) = some (.vmulhI32 h vd va vb)
  simp (disch := decide) only [vH_vw, eRpt_vw, low_vw, bit_vw, Enc.fVr, Dec.vVd, Dec.vVa, Dec.vVb, ext_all, bit_one, ext_wide, ext_ext, bit_ext, wide_ext, ext_hi, ext_lo, bit_hi, bit_lo, wide_wide, wide_lo, Nat.reduceSub]

theorem vminI32 (h : VH) (vd : BitVec 10) (va : BitVec 10) (vb : BitVec 10) : Statement (.vminI32 h vd va vb) := by
  intro w
  refine of_vector rfl w ?_
  unfold Dec.vector
  rw [op_vw]
  show some (Instr.vminI32 _ _ _ _) = some (.vminI32 h vd va vb)
  simp (disch := decide) only [vH_vw, eRpt_vw, low_vw, bit_vw, Enc.fVr, Dec.vVd, Dec.vVa, Dec.vVb, ext_all, bit_one, ext_wide, ext_ext, bit_ext, wide_ext, ext_hi, ext_lo, bit_hi, bit_lo, wide_wide, wide_lo, Nat.reduceSub]

theorem vmaxI32 (h : VH) (vd : BitVec 10) (va : BitVec 10) (vb : BitVec 10) : Statement (.vmaxI32 h vd va vb) := by
  intro w
  refine of_vector rfl w ?_
  unfold Dec.vector
  rw [op_vw]
  show some (Instr.vmaxI32 _ _ _ _) = some (.vmaxI32 h vd va vb)
  simp (disch := decide) only [vH_vw, eRpt_vw, low_vw, bit_vw, Enc.fVr, Dec.vVd, Dec.vVa, Dec.vVb, ext_all, bit_one, ext_wide, ext_ext, bit_ext, wide_ext, ext_hi, ext_lo, bit_hi, bit_lo, wide_wide, wide_lo, Nat.reduceSub]

theorem vminuI32 (h : VH) (vd : BitVec 10) (va : BitVec 10) (vb : BitVec 10) : Statement (.vminuI32 h vd va vb) := by
  intro w
  refine of_vector rfl w ?_
  unfold Dec.vector
  rw [op_vw]
  show some (Instr.vminuI32 _ _ _ _) = some (.vminuI32 h vd va vb)
  simp (disch := decide) only [vH_vw, eRpt_vw, low_vw, bit_vw, Enc.fVr, Dec.vVd, Dec.vVa, Dec.vVb, ext_all, bit_one, ext_wide, ext_ext, bit_ext, wide_ext, ext_hi, ext_lo, bit_hi, bit_lo, wide_wide, wide_lo, Nat.reduceSub]

theorem vmaxuI32 (h : VH) (vd : BitVec 10) (va : BitVec 10) (vb : BitVec 10) : Statement (.vmaxuI32 h vd va vb) := by
  intro w
  refine of_vector rfl w ?_
  unfold Dec.vector
  rw [op_vw]
  show some (Instr.vmaxuI32 _ _ _ _) = some (.vmaxuI32 h vd va vb)
  simp (disch := decide) only [vH_vw, eRpt_vw, low_vw, bit_vw, Enc.fVr, Dec.vVd, Dec.vVa, Dec.vVb, ext_all, bit_one, ext_wide, ext_ext, bit_ext, wide_ext, ext_hi, ext_lo, bit_hi, bit_lo, wide_wide, wide_lo, Nat.reduceSub]

theorem vand (h : VH) (vd : BitVec 10) (va : BitVec 10) (vb : BitVec 10) : Statement (.vand h vd va vb) := by
  intro w
  refine of_vector rfl w ?_
  unfold Dec.vector
  rw [op_vw]
  show some (Instr.vand _ _ _ _) = some (.vand h vd va vb)
  simp (disch := decide) only [vH_vw, eRpt_vw, low_vw, bit_vw, Enc.fVr, Dec.vVd, Dec.vVa, Dec.vVb, ext_all, bit_one, ext_wide, ext_ext, bit_ext, wide_ext, ext_hi, ext_lo, bit_hi, bit_lo, wide_wide, wide_lo, Nat.reduceSub]

theorem vor (h : VH) (vd : BitVec 10) (va : BitVec 10) (vb : BitVec 10) : Statement (.vor h vd va vb) := by
  intro w
  refine of_vector rfl w ?_
  unfold Dec.vector
  rw [op_vw]
  show some (Instr.vor _ _ _ _) = some (.vor h vd va vb)
  simp (disch := decide) only [vH_vw, eRpt_vw, low_vw, bit_vw, Enc.fVr, Dec.vVd, Dec.vVa, Dec.vVb, ext_all, bit_one, ext_wide, ext_ext, bit_ext, wide_ext, ext_hi, ext_lo, bit_hi, bit_lo, wide_wide, wide_lo, Nat.reduceSub]

theorem vxor (h : VH) (vd : BitVec 10) (va : BitVec 10) (vb : BitVec 10) : Statement (.vxor h vd va vb) := by
  intro w
  refine of_vector rfl w ?_
  unfold Dec.vector
  rw [op_vw]
  show some (Instr.vxor _ _ _ _) = some (.vxor h vd va vb)
  simp (disch := decide) only [vH_vw, eRpt_vw, low_vw, bit_vw, Enc.fVr, Dec.vVd, Dec.vVa, Dec.vVb, ext_all, bit_one, ext_wide, ext_ext, bit_ext, wide_ext, ext_hi, ext_lo, bit_hi, bit_lo, wide_wide, wide_lo, Nat.reduceSub]

theorem vshl (h : VH) (vd : BitVec 10) (va : BitVec 10) (vb : BitVec 10) : Statement (.vshl h vd va vb) := by
  intro w
  refine of_vector rfl w ?_
  unfold Dec.vector
  rw [op_vw]
  show some (Instr.vshl _ _ _ _) = some (.vshl h vd va vb)
  simp (disch := decide) only [vH_vw, eRpt_vw, low_vw, bit_vw, Enc.fVr, Dec.vVd, Dec.vVa, Dec.vVb, ext_all, bit_one, ext_wide, ext_ext, bit_ext, wide_ext, ext_hi, ext_lo, bit_hi, bit_lo, wide_wide, wide_lo, Nat.reduceSub]

theorem vshr (h : VH) (vd : BitVec 10) (va : BitVec 10) (vb : BitVec 10) : Statement (.vshr h vd va vb) := by
  intro w
  refine of_vector rfl w ?_
  unfold Dec.vector
  rw [op_vw]
  show some (Instr.vshr _ _ _ _) = some (.vshr h vd va vb)
  simp (disch := decide) only [vH_vw, eRpt_vw, low_vw, bit_vw, Enc.fVr, Dec.vVd, Dec.vVa, Dec.vVb, ext_all, bit_one, ext_wide, ext_ext, bit_ext, wide_ext, ext_hi, ext_lo, bit_hi, bit_lo, wide_wide, wide_lo, Nat.reduceSub]

theorem vsra (h : VH) (vd : BitVec 10) (va : BitVec 10) (vb : BitVec 10) : Statement (.vsra h vd va vb) := by
  intro w
  refine of_vector rfl w ?_
  unfold Dec.vector
  rw [op_vw]
  show some (Instr.vsra _ _ _ _) = some (.vsra h vd va vb)
  simp (disch := decide) only [vH_vw, eRpt_vw, low_vw, bit_vw, Enc.fVr, Dec.vVd, Dec.vVa, Dec.vVb, ext_all, bit_one, ext_wide, ext_ext, bit_ext, wide_ext, ext_hi, ext_lo, bit_hi, bit_lo, wide_wide, wide_lo, Nat.reduceSub]

theorem vaddsI32 (h : VH) (vd : BitVec 10) (va : BitVec 10) (vb : BitVec 10) : Statement (.vaddsI32 h vd va vb) := by
  intro w
  refine of_vector rfl w ?_
  unfold Dec.vector
  rw [op_vw]
  show some (Instr.vaddsI32 _ _ _ _) = some (.vaddsI32 h vd va vb)
  simp (disch := decide) only [vH_vw, eRpt_vw, low_vw, bit_vw, Enc.fVr, Dec.vVd, Dec.vVa, Dec.vVb, ext_all, bit_one, ext_wide, ext_ext, bit_ext, wide_ext, ext_hi, ext_lo, bit_hi, bit_lo, wide_wide, wide_lo, Nat.reduceSub]

theorem vsubsI32 (h : VH) (vd : BitVec 10) (va : BitVec 10) (vb : BitVec 10) : Statement (.vsubsI32 h vd va vb) := by
  intro w
  refine of_vector rfl w ?_
  unfold Dec.vector
  rw [op_vw]
  show some (Instr.vsubsI32 _ _ _ _) = some (.vsubsI32 h vd va vb)
  simp (disch := decide) only [vH_vw, eRpt_vw, low_vw, bit_vw, Enc.fVr, Dec.vVd, Dec.vVa, Dec.vVb, ext_all, bit_one, ext_wide, ext_ext, bit_ext, wide_ext, ext_hi, ext_lo, bit_hi, bit_lo, wide_wide, wide_lo, Nat.reduceSub]

theorem vaddI16x2 (h : VH) (vd : BitVec 10) (va : BitVec 10) (vb : BitVec 10) : Statement (.vaddI16x2 h vd va vb) := by
  intro w
  refine of_vector rfl w ?_
  unfold Dec.vector
  rw [op_vw]
  show some (Instr.vaddI16x2 _ _ _ _) = some (.vaddI16x2 h vd va vb)
  simp (disch := decide) only [vH_vw, eRpt_vw, low_vw, bit_vw, Enc.fVr, Dec.vVd, Dec.vVa, Dec.vVb, ext_all, bit_one, ext_wide, ext_ext, bit_ext, wide_ext, ext_hi, ext_lo, bit_hi, bit_lo, wide_wide, wide_lo, Nat.reduceSub]

theorem vaddI8x4 (h : VH) (vd : BitVec 10) (va : BitVec 10) (vb : BitVec 10) : Statement (.vaddI8x4 h vd va vb) := by
  intro w
  refine of_vector rfl w ?_
  unfold Dec.vector
  rw [op_vw]
  show some (Instr.vaddI8x4 _ _ _ _) = some (.vaddI8x4 h vd va vb)
  simp (disch := decide) only [vH_vw, eRpt_vw, low_vw, bit_vw, Enc.fVr, Dec.vVd, Dec.vVa, Dec.vVb, ext_all, bit_one, ext_wide, ext_ext, bit_ext, wide_ext, ext_hi, ext_lo, bit_hi, bit_lo, wide_wide, wide_lo, Nat.reduceSub]

theorem vdotI8x4 (h : VH) (vd : BitVec 10) (va : BitVec 10) (vb : BitVec 10) : Statement (.vdotI8x4 h vd va vb) := by
  intro w
  refine of_vector rfl w ?_
  unfold Dec.vector
  rw [op_vw]
  show some (Instr.vdotI8x4 _ _ _ _) = some (.vdotI8x4 h vd va vb)
  simp (disch := decide) only [vH_vw, eRpt_vw, low_vw, bit_vw, Enc.fVr, Dec.vVd, Dec.vVa, Dec.vVb, ext_all, bit_one, ext_wide, ext_ext, bit_ext, wide_ext, ext_hi, ext_lo, bit_hi, bit_lo, wide_wide, wide_lo, Nat.reduceSub]

theorem vaddF32 (h : VH) (vd : BitVec 10) (va : BitVec 10) (vb : BitVec 10) : Statement (.vaddF32 h vd va vb) := by
  intro w
  refine of_vector rfl w ?_
  unfold Dec.vector
  rw [op_vw]
  show some (Instr.vaddF32 _ _ _ _) = some (.vaddF32 h vd va vb)
  simp (disch := decide) only [vH_vw, eRpt_vw, low_vw, bit_vw, Enc.fVr, Dec.vVd, Dec.vVa, Dec.vVb, ext_all, bit_one, ext_wide, ext_ext, bit_ext, wide_ext, ext_hi, ext_lo, bit_hi, bit_lo, wide_wide, wide_lo, Nat.reduceSub]

theorem vsubF32 (h : VH) (vd : BitVec 10) (va : BitVec 10) (vb : BitVec 10) : Statement (.vsubF32 h vd va vb) := by
  intro w
  refine of_vector rfl w ?_
  unfold Dec.vector
  rw [op_vw]
  show some (Instr.vsubF32 _ _ _ _) = some (.vsubF32 h vd va vb)
  simp (disch := decide) only [vH_vw, eRpt_vw, low_vw, bit_vw, Enc.fVr, Dec.vVd, Dec.vVa, Dec.vVb, ext_all, bit_one, ext_wide, ext_ext, bit_ext, wide_ext, ext_hi, ext_lo, bit_hi, bit_lo, wide_wide, wide_lo, Nat.reduceSub]

theorem vmulF32 (h : VH) (vd : BitVec 10) (va : BitVec 10) (vb : BitVec 10) : Statement (.vmulF32 h vd va vb) := by
  intro w
  refine of_vector rfl w ?_
  unfold Dec.vector
  rw [op_vw]
  show some (Instr.vmulF32 _ _ _ _) = some (.vmulF32 h vd va vb)
  simp (disch := decide) only [vH_vw, eRpt_vw, low_vw, bit_vw, Enc.fVr, Dec.vVd, Dec.vVa, Dec.vVb, ext_all, bit_one, ext_wide, ext_ext, bit_ext, wide_ext, ext_hi, ext_lo, bit_hi, bit_lo, wide_wide, wide_lo, Nat.reduceSub]

theorem vfmaF32 (h : VH) (vd : BitVec 10) (va : BitVec 10) (vb : BitVec 10) : Statement (.vfmaF32 h vd va vb) := by
  intro w
  refine of_vector rfl w ?_
  unfold Dec.vector
  rw [op_vw]
  show some (Instr.vfmaF32 _ _ _ _) = some (.vfmaF32 h vd va vb)
  simp (disch := decide) only [vH_vw, eRpt_vw, low_vw, bit_vw, Enc.fVr, Dec.vVd, Dec.vVa, Dec.vVb, ext_all, bit_one, ext_wide, ext_ext, bit_ext, wide_ext, ext_hi, ext_lo, bit_hi, bit_lo, wide_wide, wide_lo, Nat.reduceSub]

theorem vminF32 (h : VH) (vd : BitVec 10) (va : BitVec 10) (vb : BitVec 10) : Statement (.vminF32 h vd va vb) := by
  intro w
  refine of_vector rfl w ?_
  unfold Dec.vector
  rw [op_vw]
  show some (Instr.vminF32 _ _ _ _) = some (.vminF32 h vd va vb)
  simp (disch := decide) only [vH_vw, eRpt_vw, low_vw, bit_vw, Enc.fVr, Dec.vVd, Dec.vVa, Dec.vVb, ext_all, bit_one, ext_wide, ext_ext, bit_ext, wide_ext, ext_hi, ext_lo, bit_hi, bit_lo, wide_wide, wide_lo, Nat.reduceSub]

theorem vmaxF32 (h : VH) (vd : BitVec 10) (va : BitVec 10) (vb : BitVec 10) : Statement (.vmaxF32 h vd va vb) := by
  intro w
  refine of_vector rfl w ?_
  unfold Dec.vector
  rw [op_vw]
  show some (Instr.vmaxF32 _ _ _ _) = some (.vmaxF32 h vd va vb)
  simp (disch := decide) only [vH_vw, eRpt_vw, low_vw, bit_vw, Enc.fVr, Dec.vVd, Dec.vVa, Dec.vVb, ext_all, bit_one, ext_wide, ext_ext, bit_ext, wide_ext, ext_hi, ext_lo, bit_hi, bit_lo, wide_wide, wide_lo, Nat.reduceSub]

theorem vrcpF32 (h : VH) (vd : BitVec 10) (va : BitVec 10) : Statement (.vrcpF32 h vd va) := by
  intro w
  refine of_vector rfl w ?_
  unfold Dec.vector
  rw [op_vw]
  show some (Instr.vrcpF32 _ _ _) = some (.vrcpF32 h vd va)
  simp (disch := decide) only [vH_vw, eRpt_vw, low_vw, bit_vw, Enc.fVr, Dec.vVd, Dec.vVa, ext_all, bit_one, ext_wide, ext_ext, bit_ext, wide_ext, ext_hi, ext_lo, bit_hi, bit_lo, wide_wide, wide_lo, Nat.reduceSub]

theorem vrsqF32 (h : VH) (vd : BitVec 10) (va : BitVec 10) : Statement (.vrsqF32 h vd va) := by
  intro w
  refine of_vector rfl w ?_
  unfold Dec.vector
  rw [op_vw]
  show some (Instr.vrsqF32 _ _ _) = some (.vrsqF32 h vd va)
  simp (disch := decide) only [vH_vw, eRpt_vw, low_vw, bit_vw, Enc.fVr, Dec.vVd, Dec.vVa, ext_all, bit_one, ext_wide, ext_ext, bit_ext, wide_ext, ext_hi, ext_lo, bit_hi, bit_lo, wide_wide, wide_lo, Nat.reduceSub]

theorem vexp2F32 (h : VH) (vd : BitVec 10) (va : BitVec 10) : Statement (.vexp2F32 h vd va) := by
  intro w
  refine of_vector rfl w ?_
  unfold Dec.vector
  rw [op_vw]
  show some (Instr.vexp2F32 _ _ _) = some (.vexp2F32 h vd va)
  simp (disch := decide) only [vH_vw, eRpt_vw, low_vw, bit_vw, Enc.fVr, Dec.vVd, Dec.vVa, ext_all, bit_one, ext_wide, ext_ext, bit_ext, wide_ext, ext_hi, ext_lo, bit_hi, bit_lo, wide_wide, wide_lo, Nat.reduceSub]

theorem vlog2F32 (h : VH) (vd : BitVec 10) (va : BitVec 10) : Statement (.vlog2F32 h vd va) := by
  intro w
  refine of_vector rfl w ?_
  unfold Dec.vector
  rw [op_vw]
  show some (Instr.vlog2F32 _ _ _) = some (.vlog2F32 h vd va)
  simp (disch := decide) only [vH_vw, eRpt_vw, low_vw, bit_vw, Enc.fVr, Dec.vVd, Dec.vVa, ext_all, bit_one, ext_wide, ext_ext, bit_ext, wide_ext, ext_hi, ext_lo, bit_hi, bit_lo, wide_wide, wide_lo, Nat.reduceSub]

theorem vabsF32 (h : VH) (vd : BitVec 10) (va : BitVec 10) : Statement (.vabsF32 h vd va) := by
  intro w
  refine of_vector rfl w ?_
  unfold Dec.vector
  rw [op_vw]
  show some (Instr.vabsF32 _ _ _) = some (.vabsF32 h vd va)
  simp (disch := decide) only [vH_vw, eRpt_vw, low_vw, bit_vw, Enc.fVr, Dec.vVd, Dec.vVa, ext_all, bit_one, ext_wide, ext_ext, bit_ext, wide_ext, ext_hi, ext_lo, bit_hi, bit_lo, wide_wide, wide_lo, Nat.reduceSub]

theorem vnegF32 (h : VH) (vd : BitVec 10) (va : BitVec 10) : Statement (.vnegF32 h vd va) := by
  intro w
  refine of_vector rfl w ?_
  unfold Dec.vector
  rw [op_vw]
  show some (Instr.vnegF32 _ _ _) = some (.vnegF32 h vd va)
  simp (disch := decide) only [vH_vw, eRpt_vw, low_vw, bit_vw, Enc.fVr, Dec.vVd, Dec.vVa, ext_all, bit_one, ext_wide, ext_ext, bit_ext, wide_ext, ext_hi, ext_lo, bit_hi, bit_lo, wide_wide, wide_lo, Nat.reduceSub]

theorem vfmaBf16x2 (h : VH) (vd : BitVec 10) (va : BitVec 10) (vb : BitVec 10) : Statement (.vfmaBf16x2 h vd va vb) := by
  intro w
  refine of_vector rfl w ?_
  unfold Dec.vector
  rw [op_vw]
  show some (Instr.vfmaBf16x2 _ _ _ _) = some (.vfmaBf16x2 h vd va vb)
  simp (disch := decide) only [vH_vw, eRpt_vw, low_vw, bit_vw, Enc.fVr, Dec.vVd, Dec.vVa, Dec.vVb, ext_all, bit_one, ext_wide, ext_ext, bit_ext, wide_ext, ext_hi, ext_lo, bit_hi, bit_lo, wide_wide, wide_lo, Nat.reduceSub]

theorem vmaxabsF32 (h : VH) (vd : BitVec 10) (va : BitVec 10) (vb : BitVec 10) : Statement (.vmaxabsF32 h vd va vb) := by
  intro w
  refine of_vector rfl w ?_
  unfold Dec.vector
  rw [op_vw]
  show some (Instr.vmaxabsF32 _ _ _ _) = some (.vmaxabsF32 h vd va vb)
  simp (disch := decide) only [vH_vw, eRpt_vw, low_vw, bit_vw, Enc.fVr, Dec.vVd, Dec.vVa, Dec.vVb, ext_all, bit_one, ext_wide, ext_ext, bit_ext, wide_ext, ext_hi, ext_lo, bit_hi, bit_lo, wide_wide, wide_lo, Nat.reduceSub]

theorem vcmpeqI32 (h : VH) (md : BitVec 4) (va : BitVec 10) (vb : BitVec 10) : Statement (.vcmpeqI32 h md va vb) := by
  intro w
  refine of_vector rfl w ?_
  unfold Dec.vector
  rw [op_vw]
  show some (Instr.vcmpeqI32 _ _ _ _) = some (.vcmpeqI32 h md va vb)
  simp (disch := decide) only [vH_vw, eRpt_vw, low_vw, bit_vw, Enc.fVk, Dec.vMd, Dec.vVa, Dec.vVb, ext_all, bit_one, ext_wide, ext_ext, bit_ext, wide_ext, ext_hi, ext_lo, bit_hi, bit_lo, wide_wide, wide_lo, Nat.reduceSub]

theorem vcmpltI32 (h : VH) (md : BitVec 4) (va : BitVec 10) (vb : BitVec 10) : Statement (.vcmpltI32 h md va vb) := by
  intro w
  refine of_vector rfl w ?_
  unfold Dec.vector
  rw [op_vw]
  show some (Instr.vcmpltI32 _ _ _ _) = some (.vcmpltI32 h md va vb)
  simp (disch := decide) only [vH_vw, eRpt_vw, low_vw, bit_vw, Enc.fVk, Dec.vMd, Dec.vVa, Dec.vVb, ext_all, bit_one, ext_wide, ext_ext, bit_ext, wide_ext, ext_hi, ext_lo, bit_hi, bit_lo, wide_wide, wide_lo, Nat.reduceSub]

theorem vcmpltuI32 (h : VH) (md : BitVec 4) (va : BitVec 10) (vb : BitVec 10) : Statement (.vcmpltuI32 h md va vb) := by
  intro w
  refine of_vector rfl w ?_
  unfold Dec.vector
  rw [op_vw]
  show some (Instr.vcmpltuI32 _ _ _ _) = some (.vcmpltuI32 h md va vb)
  simp (disch := decide) only [vH_vw, eRpt_vw, low_vw, bit_vw, Enc.fVk, Dec.vMd, Dec.vVa, Dec.vVb, ext_all, bit_one, ext_wide, ext_ext, bit_ext, wide_ext, ext_hi, ext_lo, bit_hi, bit_lo, wide_wide, wide_lo, Nat.reduceSub]

theorem vcmpeqF32 (h : VH) (md : BitVec 4) (va : BitVec 10) (vb : BitVec 10) : Statement (.vcmpeqF32 h md va vb) := by
  intro w
  refine of_vector rfl w ?_
  unfold Dec.vector
  rw [op_vw]
  show some (Instr.vcmpeqF32 _ _ _ _) = some (.vcmpeqF32 h md va vb)
  simp (disch := decide) only [vH_vw, eRpt_vw, low_vw, bit_vw, Enc.fVk, Dec.vMd, Dec.vVa, Dec.vVb, ext_all, bit_one, ext_wide, ext_ext, bit_ext, wide_ext, ext_hi, ext_lo, bit_hi, bit_lo, wide_wide, wide_lo, Nat.reduceSub]

theorem vcmpltF32 (h : VH) (md : BitVec 4) (va : BitVec 10) (vb : BitVec 10) : Statement (.vcmpltF32 h md va vb) := by
  intro w
  refine of_vector rfl w ?_
  unfold Dec.vector
  rw [op_vw]
  show some (Instr.vcmpltF32 _ _ _ _) = some (.vcmpltF32 h md va vb)
  simp (disch := decide) only [vH_vw, eRpt_vw, low_vw, bit_vw, Enc.fVk, Dec.vMd, Dec.vVa, Dec.vVb, ext_all, bit_one, ext_wide, ext_ext, bit_ext, wide_ext, ext_hi, ext_lo, bit_hi, bit_lo, wide_wide, wide_lo, Nat.reduceSub]

theorem vcmpleF32 (h : VH) (md : BitVec 4) (va : BitVec 10) (vb : BitVec 10) : Statement (.vcmpleF32 h md va vb) := by
  intro w
  refine of_vector rfl w ?_
  unfold Dec.vector
  rw [op_vw]
  show some (Instr.vcmpleF32 _ _ _ _) = some (.vcmpleF32 h md va vb)
  simp (disch := decide) only [vH_vw, eRpt_vw, low_vw, bit_vw, Enc.fVk, Dec.vMd, Dec.vVa, Dec.vVb, ext_all, bit_one, ext_wide, ext_ext, bit_ext, wide_ext, ext_hi, ext_lo, bit_hi, bit_lo, wide_wide, wide_lo, Nat.reduceSub]

theorem vcmpunF32 (h : VH) (md : BitVec 4) (va : BitVec 10) (vb : BitVec 10) : Statement (.vcmpunF32 h md va vb) := by
  intro w
  refine of_vector rfl w ?_
  unfold Dec.vector
  rw [op_vw]
  show some (Instr.vcmpunF32 _ _ _ _) = some (.vcmpunF32 h md va vb)
  simp (disch := decide) only [vH_vw, eRpt_vw, low_vw, bit_vw, Enc.fVk, Dec.vMd, Dec.vVa, Dec.vVb, ext_all, bit_one, ext_wide, ext_ext, bit_ext, wide_ext, ext_hi, ext_lo, bit_hi, bit_lo, wide_wide, wide_lo, Nat.reduceSub]

theorem vmact (md : BitVec 4) : Statement (.vmact md) := by
  intro w
  refine of_vector rfl w ?_
  unfold Dec.vector
  rw [op_vw]
  show some (Instr.vmact _) = some (.vmact md)
  simp (disch := decide) only [vH_vw, eRpt_vw, low_vw, bit_vw, Enc.fVk, Dec.vMd, ext_all, bit_one, ext_wide, ext_ext, bit_ext, wide_ext, ext_hi, ext_lo, bit_hi, bit_lo, wide_wide, wide_lo, Nat.reduceSub]

theorem vmlog (h : VH) (md : BitVec 4) (tt : BitVec 4) (ma : BitVec 4) (mb : BitVec 4) : Statement (.vmlog h md tt ma mb) := by
  intro w
  refine of_vector rfl w ?_
  unfold Dec.vector
  rw [op_vw]
  show some (Instr.vmlog _ _ _ _ _) = some (.vmlog h md tt ma mb)
  simp (disch := decide) only [vH_vw, eRpt_vw, low_vw, bit_vw, Enc.fVk, Dec.vMd, Dec.vTt, Dec.vVa, Dec.vVb, ext_all, bit_one, ext_wide, ext_ext, bit_ext, wide_ext, ext_hi, ext_lo, bit_hi, bit_lo, wide_wide, wide_lo, Nat.reduceSub]

theorem vsel (h : VH) (vd : BitVec 10) (va : BitVec 10) (vb : BitVec 10) : Statement (.vsel h vd va vb) := by
  intro w
  refine of_vector rfl w ?_
  unfold Dec.vector
  rw [op_vw]
  show some (Instr.vsel _ _ _ _) = some (.vsel h vd va vb)
  simp (disch := decide) only [vH_vw, eRpt_vw, low_vw, bit_vw, Enc.fVr, Dec.vVd, Dec.vVa, Dec.vVb, ext_all, bit_one, ext_wide, ext_ext, bit_ext, wide_ext, ext_hi, ext_lo, bit_hi, bit_lo, wide_wide, wide_lo, Nat.reduceSub]

theorem vcvtF32I32 (h : VH) (vd : BitVec 10) (va : BitVec 10) : Statement (.vcvtF32I32 h vd va) := by
  intro w
  refine of_vector rfl w ?_
  unfold Dec.vector
  rw [op_vw]
  show some (Instr.vcvtF32I32 _ _ _) = some (.vcvtF32I32 h vd va)
  simp (disch := decide) only [vH_vw, eRpt_vw, low_vw, bit_vw, Enc.fVr, Dec.vVd, Dec.vVa, ext_all, bit_one, ext_wide, ext_ext, bit_ext, wide_ext, ext_hi, ext_lo, bit_hi, bit_lo, wide_wide, wide_lo, Nat.reduceSub]

theorem vcvtI32F32Rz (h : VH) (vd : BitVec 10) (va : BitVec 10) : Statement (.vcvtI32F32Rz h vd va) := by
  intro w
  refine of_vector rfl w ?_
  unfold Dec.vector
  rw [op_vw]
  show some (Instr.vcvtI32F32Rz _ _ _) = some (.vcvtI32F32Rz h vd va)
  simp (disch := decide) only [vH_vw, eRpt_vw, low_vw, bit_vw, Enc.fVr, Dec.vVd, Dec.vVa, ext_all, bit_one, ext_wide, ext_ext, bit_ext, wide_ext, ext_hi, ext_lo, bit_hi, bit_lo, wide_wide, wide_lo, Nat.reduceSub]

theorem vcvtI32F32Rne (h : VH) (vd : BitVec 10) (va : BitVec 10) : Statement (.vcvtI32F32Rne h vd va) := by
  intro w
  refine of_vector rfl w ?_
  unfold Dec.vector
  rw [op_vw]
  show some (Instr.vcvtI32F32Rne _ _ _) = some (.vcvtI32F32Rne h vd va)
  simp (disch := decide) only [vH_vw, eRpt_vw, low_vw, bit_vw, Enc.fVr, Dec.vVd, Dec.vVa, ext_all, bit_one, ext_wide, ext_ext, bit_ext, wide_ext, ext_hi, ext_lo, bit_hi, bit_lo, wide_wide, wide_lo, Nat.reduceSub]

theorem vcvtBf16F32 (h : VH) (vd : BitVec 10) (va : BitVec 10) : Statement (.vcvtBf16F32 h vd va) := by
  intro w
  refine of_vector rfl w ?_
  unfold Dec.vector
  rw [op_vw]
  show some (Instr.vcvtBf16F32 _ _ _) = some (.vcvtBf16F32 h vd va)
  simp (disch := decide) only [vH_vw, eRpt_vw, low_vw, bit_vw, Enc.fVr, Dec.vVd, Dec.vVa, ext_all, bit_one, ext_wide, ext_ext, bit_ext, wide_ext, ext_hi, ext_lo, bit_hi, bit_lo, wide_wide, wide_lo, Nat.reduceSub]

theorem vcvtF16F32 (h : VH) (vd : BitVec 10) (va : BitVec 10) : Statement (.vcvtF16F32 h vd va) := by
  intro w
  refine of_vector rfl w ?_
  unfold Dec.vector
  rw [op_vw]
  show some (Instr.vcvtF16F32 _ _ _) = some (.vcvtF16F32 h vd va)
  simp (disch := decide) only [vH_vw, eRpt_vw, low_vw, bit_vw, Enc.fVr, Dec.vVd, Dec.vVa, ext_all, bit_one, ext_wide, ext_ext, bit_ext, wide_ext, ext_hi, ext_lo, bit_hi, bit_lo, wide_wide, wide_lo, Nat.reduceSub]

theorem vcvtE4m3F32 (h : VH) (vd : BitVec 10) (va : BitVec 10) : Statement (.vcvtE4m3F32 h vd va) := by
  intro w
  refine of_vector rfl w ?_
  unfold Dec.vector
  rw [op_vw]
  show some (Instr.vcvtE4m3F32 _ _ _) = some (.vcvtE4m3F32 h vd va)
  simp (disch := decide) only [vH_vw, eRpt_vw, low_vw, bit_vw, Enc.fVr, Dec.vVd, Dec.vVa, ext_all, bit_one, ext_wide, ext_ext, bit_ext, wide_ext, ext_hi, ext_lo, bit_hi, bit_lo, wide_wide, wide_lo, Nat.reduceSub]

theorem vcvtE5m2F32 (h : VH) (vd : BitVec 10) (va : BitVec 10) : Statement (.vcvtE5m2F32 h vd va) := by
  intro w
  refine of_vector rfl w ?_
  unfold Dec.vector
  rw [op_vw]
  show some (Instr.vcvtE5m2F32 _ _ _) = some (.vcvtE5m2F32 h vd va)
  simp (disch := decide) only [vH_vw, eRpt_vw, low_vw, bit_vw, Enc.fVr, Dec.vVd, Dec.vVa, ext_all, bit_one, ext_wide, ext_ext, bit_ext, wide_ext, ext_hi, ext_lo, bit_hi, bit_lo, wide_wide, wide_lo, Nat.reduceSub]

theorem vcvtF32Bf16 (h : VH) (vd : BitVec 10) (va : BitVec 10) : Statement (.vcvtF32Bf16 h vd va) := by
  intro w
  refine of_vector rfl w ?_
  unfold Dec.vector
  rw [op_vw]
  show some (Instr.vcvtF32Bf16 _ _ _) = some (.vcvtF32Bf16 h vd va)
  simp (disch := decide) only [vH_vw, eRpt_vw, low_vw, bit_vw, Enc.fVr, Dec.vVd, Dec.vVa, ext_all, bit_one, ext_wide, ext_ext, bit_ext, wide_ext, ext_hi, ext_lo, bit_hi, bit_lo, wide_wide, wide_lo, Nat.reduceSub]

theorem vcvtF32F16 (h : VH) (vd : BitVec 10) (va : BitVec 10) : Statement (.vcvtF32F16 h vd va) := by
  intro w
  refine of_vector rfl w ?_
  unfold Dec.vector
  rw [op_vw]
  show some (Instr.vcvtF32F16 _ _ _) = some (.vcvtF32F16 h vd va)
  simp (disch := decide) only [vH_vw, eRpt_vw, low_vw, bit_vw, Enc.fVr, Dec.vVd, Dec.vVa, ext_all, bit_one, ext_wide, ext_ext, bit_ext, wide_ext, ext_hi, ext_lo, bit_hi, bit_lo, wide_wide, wide_lo, Nat.reduceSub]

theorem vcvtF32E4m3 (h : VH) (vd : BitVec 10) (va : BitVec 10) : Statement (.vcvtF32E4m3 h vd va) := by
  intro w
  refine of_vector rfl w ?_
  unfold Dec.vector
  rw [op_vw]
  show some (Instr.vcvtF32E4m3 _ _ _) = some (.vcvtF32E4m3 h vd va)
  simp (disch := decide) only [vH_vw, eRpt_vw, low_vw, bit_vw, Enc.fVr, Dec.vVd, Dec.vVa, ext_all, bit_one, ext_wide, ext_ext, bit_ext, wide_ext, ext_hi, ext_lo, bit_hi, bit_lo, wide_wide, wide_lo, Nat.reduceSub]

theorem vcvtF32E5m2 (h : VH) (vd : BitVec 10) (va : BitVec 10) : Statement (.vcvtF32E5m2 h vd va) := by
  intro w
  refine of_vector rfl w ?_
  unfold Dec.vector
  rw [op_vw]
  show some (Instr.vcvtF32E5m2 _ _ _) = some (.vcvtF32E5m2 h vd va)
  simp (disch := decide) only [vH_vw, eRpt_vw, low_vw, bit_vw, Enc.fVr, Dec.vVd, Dec.vVa, ext_all, bit_one, ext_wide, ext_ext, bit_ext, wide_ext, ext_hi, ext_lo, bit_hi, bit_lo, wide_wide, wide_lo, Nat.reduceSub]

theorem vcvtI8F32 (h : VH) (vd : BitVec 10) (va : BitVec 10) : Statement (.vcvtI8F32 h vd va) := by
  intro w
  refine of_vector rfl w ?_
  unfold Dec.vector
  rw [op_vw]
  show some (Instr.vcvtI8F32 _ _ _) = some (.vcvtI8F32 h vd va)
  simp (disch := decide) only [vH_vw, eRpt_vw, low_vw, bit_vw, Enc.fVr, Dec.vVd, Dec.vVa, ext_all, bit_one, ext_wide, ext_ext, bit_ext, wide_ext, ext_hi, ext_lo, bit_hi, bit_lo, wide_wide, wide_lo, Nat.reduceSub]

theorem vcvtF32I8 (h : VH) (vd : BitVec 10) (va : BitVec 10) : Statement (.vcvtF32I8 h vd va) := by
  intro w
  refine of_vector rfl w ?_
  unfold Dec.vector
  rw [op_vw]
  show some (Instr.vcvtF32I8 _ _ _) = some (.vcvtF32I8 h vd va)
  simp (disch := decide) only [vH_vw, eRpt_vw, low_vw, bit_vw, Enc.fVr, Dec.vVd, Dec.vVa, ext_all, bit_one, ext_wide, ext_ext, bit_ext, wide_ext, ext_hi, ext_lo, bit_hi, bit_lo, wide_wide, wide_lo, Nat.reduceSub]

theorem vqntE2m1 (h : VH) (vd : BitVec 10) (va : BitVec 10) (vb : BitVec 10) : Statement (.vqntE2m1 h vd va vb) := by
  intro w
  refine of_vector rfl w ?_
  unfold Dec.vector
  rw [op_vw]
  show some (Instr.vqntE2m1 _ _ _ _) = some (.vqntE2m1 h vd va vb)
  simp (disch := decide) only [vH_vw, eRpt_vw, low_vw, bit_vw, Enc.fVr, Dec.vVd, Dec.vVa, Dec.vVb, ext_all, bit_one, ext_wide, ext_ext, bit_ext, wide_ext, ext_hi, ext_lo, bit_hi, bit_lo, wide_wide, wide_lo, Nat.reduceSub]

theorem vdqntE2m1 (h : VH) (vd : BitVec 10) (va : BitVec 10) (vb : BitVec 10) : Statement (.vdqntE2m1 h vd va vb) := by
  intro w
  refine of_vector rfl w ?_
  unfold Dec.vector
  rw [op_vw]
  show some (Instr.vdqntE2m1 _ _ _ _) = some (.vdqntE2m1 h vd va vb)
  simp (disch := decide) only [vH_vw, eRpt_vw, low_vw, bit_vw, Enc.fVr, Dec.vVd, Dec.vVa, Dec.vVb, ext_all, bit_one, ext_wide, ext_ext, bit_ext, wide_ext, ext_hi, ext_lo, bit_hi, bit_lo, wide_wide, wide_lo, Nat.reduceSub]

theorem vredaddF32 (h : VH) (vd : BitVec 10) (va : BitVec 10) : Statement (.vredaddF32 h vd va) := by
  intro w
  refine of_vector rfl w ?_
  unfold Dec.vector
  rw [op_vw]
  show some (Instr.vredaddF32 _ _ _) = some (.vredaddF32 h vd va)
  simp (disch := decide) only [vH_vw, eRpt_vw, low_vw, bit_vw, Enc.fVr, Dec.vVd, Dec.vVa, ext_all, bit_one, ext_wide, ext_ext, bit_ext, wide_ext, ext_hi, ext_lo, bit_hi, bit_lo, wide_wide, wide_lo, Nat.reduceSub]

theorem vredmaxF32 (h : VH) (vd : BitVec 10) (va : BitVec 10) : Statement (.vredmaxF32 h vd va) := by
  intro w
  refine of_vector rfl w ?_
  unfold Dec.vector
  rw [op_vw]
  show some (Instr.vredmaxF32 _ _ _) = some (.vredmaxF32 h vd va)
  simp (disch := decide) only [vH_vw, eRpt_vw, low_vw, bit_vw, Enc.fVr, Dec.vVd, Dec.vVa, ext_all, bit_one, ext_wide, ext_ext, bit_ext, wide_ext, ext_hi, ext_lo, bit_hi, bit_lo, wide_wide, wide_lo, Nat.reduceSub]

theorem vredaddI32 (h : VH) (vd : BitVec 10) (va : BitVec 10) : Statement (.vredaddI32 h vd va) := by
  intro w
  refine of_vector rfl w ?_
  unfold Dec.vector
  rw [op_vw]
  show some (Instr.vredaddI32 _ _ _) = some (.vredaddI32 h vd va)
  simp (disch := decide) only [vH_vw, eRpt_vw, low_vw, bit_vw, Enc.fVr, Dec.vVd, Dec.vVa, ext_all, bit_one, ext_wide, ext_ext, bit_ext, wide_ext, ext_hi, ext_lo, bit_hi, bit_lo, wide_wide, wide_lo, Nat.reduceSub]

theorem vscanI32 (h : VH) (vd : BitVec 10) (va : BitVec 10) : Statement (.vscanI32 h vd va) := by
  intro w
  refine of_vector rfl w ?_
  unfold Dec.vector
  rw [op_vw]
  show some (Instr.vscanI32 _ _ _) = some (.vscanI32 h vd va)
  simp (disch := decide) only [vH_vw, eRpt_vw, low_vw, bit_vw, Enc.fVr, Dec.vVd, Dec.vVa, ext_all, bit_one, ext_wide, ext_ext, bit_ext, wide_ext, ext_hi, ext_lo, bit_hi, bit_lo, wide_wide, wide_lo, Nat.reduceSub]

theorem vperm (h : VH) (vd : BitVec 10) (va : BitVec 10) (vb : BitVec 10) : Statement (.vperm h vd va vb) := by
  intro w
  refine of_vector rfl w ?_
  unfold Dec.vector
  rw [op_vw]
  show some (Instr.vperm _ _ _ _) = some (.vperm h vd va vb)
  simp (disch := decide) only [vH_vw, eRpt_vw, low_vw, bit_vw, Enc.fVr, Dec.vVd, Dec.vVa, Dec.vVb, ext_all, bit_one, ext_wide, ext_ext, bit_ext, wide_ext, ext_hi, ext_lo, bit_hi, bit_lo, wide_wide, wide_lo, Nat.reduceSub]

theorem vrot (h : VH) (vd : BitVec 10) (va : BitVec 10) (n : BitVec 6) : Statement (.vrot h vd va n) := by
  intro w
  refine of_vector rfl w ?_
  unfold Dec.vector
  rw [op_vw]
  show some (Instr.vrot _ _ _ _) = some (.vrot h vd va n)
  simp (disch := decide) only [vH_vw, eRpt_vw, low_vw, bit_vw, Enc.fVr, Dec.vVd, Dec.vVa, Dec.vVb, ext_all, bit_one, ext_wide, ext_ext, bit_ext, wide_ext, ext_hi, ext_lo, bit_hi, bit_lo, wide_wide, wide_lo, Nat.reduceSub]

theorem vbcast (h : VH) (vd : BitVec 10) (va : BitVec 10) (n : BitVec 6) : Statement (.vbcast h vd va n) := by
  intro w
  refine of_vector rfl w ?_
  unfold Dec.vector
  rw [op_vw]
  show some (Instr.vbcast _ _ _ _) = some (.vbcast h vd va n)
  simp (disch := decide) only [vH_vw, eRpt_vw, low_vw, bit_vw, Enc.fVr, Dec.vVd, Dec.vVa, Dec.vVb, ext_all, bit_one, ext_wide, ext_ext, bit_ext, wide_ext, ext_hi, ext_lo, bit_hi, bit_lo, wide_wide, wide_lo, Nat.reduceSub]

theorem viota (h : VH) (vd : BitVec 10) (imm : BitVec 20) : Statement (.viota h vd imm) := by
  intro w
  refine of_vector rfl w ?_
  unfold Dec.vector
  rw [op_vw]
  show some (Instr.viota _ _ _) = some (.viota h vd imm)
  simp (disch := decide) only [vH_vw, eRpt_vw, low_vw, bit_vw, Enc.fVi, Dec.vVd, Dec.vImm20, ext_all, bit_one, ext_wide, ext_ext, bit_ext, wide_ext, ext_hi, ext_lo, bit_hi, bit_lo, wide_wide, wide_lo, Nat.reduceSub]

theorem vmovi (h : VH) (vd : BitVec 10) (imm : BitVec 20) : Statement (.vmovi h vd imm) := by
  intro w
  refine of_vector rfl w ?_
  unfold Dec.vector
  rw [op_vw]
  show some (Instr.vmovi _ _ _) = some (.vmovi h vd imm)
  simp (disch := decide) only [vH_vw, eRpt_vw, low_vw, bit_vw, Enc.fVi, Dec.vVd, Dec.vImm20, ext_all, bit_one, ext_wide, ext_ext, bit_ext, wide_ext, ext_hi, ext_lo, bit_hi, bit_lo, wide_wide, wide_lo, Nat.reduceSub]

theorem vmov (h : VH) (vd : BitVec 10) (va : BitVec 10) : Statement (.vmov h vd va) := by
  intro w
  refine of_vector rfl w ?_
  unfold Dec.vector
  rw [op_vw]
  show some (Instr.vmov _ _ _) = some (.vmov h vd va)
  simp (disch := decide) only [vH_vw, eRpt_vw, low_vw, bit_vw, Enc.fVr, Dec.vVd, Dec.vVa, ext_all, bit_one, ext_wide, ext_ext, bit_ext, wide_ext, ext_hi, ext_lo, bit_hi, bit_lo, wide_wide, wide_lo, Nat.reduceSub]

theorem vld (h : VH) (vd : BitVec 10) (ab : BitVec 3) (off : BitVec 17) : Statement (.vld h vd ab off) := by
  intro w
  refine of_vector rfl w ?_
  unfold Dec.vector
  rw [op_vw]
  show some (Instr.vld _ _ _ _) = some (.vld h vd ab off)
  simp (disch := decide) only [vH_vw, eRpt_vw, low_vw, bit_vw, Enc.fVm, Dec.vVd, Dec.vAb, Dec.vOff, ext_all, bit_one, ext_wide, ext_ext, bit_ext, wide_ext, ext_hi, ext_lo, bit_hi, bit_lo, wide_wide, wide_lo, Nat.reduceSub]

theorem vst (h : VH) (vd : BitVec 10) (ab : BitVec 3) (off : BitVec 17) : Statement (.vst h vd ab off) := by
  intro w
  refine of_vector rfl w ?_
  unfold Dec.vector
  rw [op_vw]
  show some (Instr.vst _ _ _ _) = some (.vst h vd ab off)
  simp (disch := decide) only [vH_vw, eRpt_vw, low_vw, bit_vw, Enc.fVm, Dec.vVd, Dec.vAb, Dec.vOff, ext_all, bit_one, ext_wide, ext_ext, bit_ext, wide_ext, ext_hi, ext_lo, bit_hi, bit_lo, wide_wide, wide_lo, Nat.reduceSub]

theorem vldfw (h : VH) (vd : BitVec 10) (ab : BitVec 3) (off : BitVec 17) : Statement (.vldfw h vd ab off) := by
  intro w
  refine of_vector rfl w ?_
  unfold Dec.vector
  rw [op_vw]
  show some (Instr.vldfw _ _ _ _) = some (.vldfw h vd ab off)
  simp (disch := decide) only [vH_vw, eRpt_vw, low_vw, bit_vw, Enc.fVm, Dec.vVd, Dec.vAb, Dec.vOff, ext_all, bit_one, ext_wide, ext_ext, bit_ext, wide_ext, ext_hi, ext_lo, bit_hi, bit_lo, wide_wide, wide_lo, Nat.reduceSub]

theorem vstef (h : VH) (vd : BitVec 10) (ab : BitVec 3) (off : BitVec 17) : Statement (.vstef h vd ab off) := by
  intro w
  refine of_vector rfl w ?_
  unfold Dec.vector
  rw [op_vw]
  show some (Instr.vstef _ _ _ _) = some (.vstef h vd ab off)
  simp (disch := decide) only [vH_vw, eRpt_vw, low_vw, bit_vw, Enc.fVm, Dec.vVd, Dec.vAb, Dec.vOff, ext_all, bit_one, ext_wide, ext_ext, bit_ext, wide_ext, ext_hi, ext_lo, bit_hi, bit_lo, wide_wide, wide_lo, Nat.reduceSub]

theorem vgath (h : VH) (vd : BitVec 10) (va : BitVec 10) : Statement (.vgath h vd va) := by
  intro w
  refine of_vector rfl w ?_
  unfold Dec.vector
  rw [op_vw]
  show some (Instr.vgath _ _ _) = some (.vgath h vd va)
  simp (disch := decide) only [vH_vw, eRpt_vw, low_vw, bit_vw, Enc.fVr, Dec.vVd, Dec.vVa, ext_all, bit_one, ext_wide, ext_ext, bit_ext, wide_ext, ext_hi, ext_lo, bit_hi, bit_lo, wide_wide, wide_lo, Nat.reduceSub]

theorem vscat (h : VH) (vd : BitVec 10) (va : BitVec 10) : Statement (.vscat h vd va) := by
  intro w
  refine of_vector rfl w ?_
  unfold Dec.vector
  rw [op_vw]
  show some (Instr.vscat _ _ _) = some (.vscat h vd va)
  simp (disch := decide) only [vH_vw, eRpt_vw, low_vw, bit_vw, Enc.fVr, Dec.vVd, Dec.vVa, ext_all, bit_one, ext_wide, ext_ext, bit_ext, wide_ext, ext_hi, ext_lo, bit_hi, bit_lo, wide_wide, wide_lo, Nat.reduceSub]

theorem vdefer (h : VH) (va : BitVec 10) (c : BitVec 2) : Statement (.vdefer h va c) := by
  intro w
  refine of_vector rfl w ?_
  unfold Dec.vector
  rw [op_vw]
  show some (Instr.vdefer _ _ _) = some (.vdefer h va c)
  simp (disch := decide) only [vH_vw, eRpt_vw, low_vw, bit_vw, Enc.fVr, Dec.vVa, Dec.vVb, ext_all, bit_one, ext_wide, ext_ext, bit_ext, wide_ext, ext_hi, ext_lo, bit_hi, bit_lo, wide_wide, wide_lo, Nat.reduceSub]

theorem vdrain (h : VH) (vd : BitVec 10) (c : BitVec 2) : Statement (.vdrain h vd c) := by
  intro w
  refine of_vector rfl w ?_
  unfold Dec.vector
  rw [op_vw]
  show some (Instr.vdrain _ _ _) = some (.vdrain h vd c)
  simp (disch := decide) only [vH_vw, eRpt_vw, low_vw, bit_vw, Enc.fVr, Dec.vVd, Dec.vVb, ext_all, bit_one, ext_wide, ext_ext, bit_ext, wide_ext, ext_hi, ext_lo, bit_hi, bit_lo, wide_wide, wide_lo, Nat.reduceSub]

theorem vseta (n : BitVec 3) (off : BitVec 24) : Statement (.vseta n off) := by
  intro w
  refine of_vector rfl w ?_
  unfold Dec.vector
  rw [op_vw]
  show some (Instr.vseta _ _) = some (.vseta n off)
  simp (disch := decide) only [vH_vw, eRpt_vw, low_vw, bit_vw, sel_vc, imm_vc, Dec.eSel, Dec.eImm, ext_all, bit_one, ext_wide, ext_ext, bit_ext, wide_ext, ext_hi, ext_lo, bit_hi, bit_lo, wide_wide, wide_lo, Nat.reduceSub]

theorem vsetdl (dl : BitVec 24) : Statement (.vsetdl dl) := by
  intro w
  refine of_vector rfl w ?_
  unfold Dec.vector
  rw [op_vw]
  show some (Instr.vsetdl _) = some (.vsetdl dl)
  simp (disch := decide) only [vH_vw, eRpt_vw, low_vw, bit_vw, sel_vc, imm_vc, Dec.eImm, ext_all, bit_one, ext_wide, ext_ext, bit_ext, wide_ext, ext_hi, ext_lo, bit_hi, bit_lo, wide_wide, wide_lo, Nat.reduceSub]

theorem vsetf (fl : BitVec 6) : Statement (.vsetf fl) := by
  intro w
  refine of_vector rfl w ?_
  unfold Dec.vector
  rw [op_vw]
  show some (Instr.vsetf _) = some (.vsetf fl)
  simp (disch := decide) only [vH_vw, eRpt_vw, low_vw, bit_vw, sel_vc, imm_vc, Dec.eSel, ext_all, bit_one, ext_wide, ext_ext, bit_ext, wide_ext, ext_hi, ext_lo, bit_hi, bit_lo, wide_wide, wide_lo, Nat.reduceSub]

theorem vwaitf (fl : BitVec 6) : Statement (.vwaitf fl) := by
  intro w
  refine of_vector rfl w ?_
  unfold Dec.vector
  rw [op_vw]
  show some (Instr.vwaitf _) = some (.vwaitf fl)
  simp (disch := decide) only [vH_vw, eRpt_vw, low_vw, bit_vw, sel_vc, imm_vc, Dec.eSel, ext_all, bit_one, ext_wide, ext_ext, bit_ext, wide_ext, ext_hi, ext_lo, bit_hi, bit_lo, wide_wide, wide_lo, Nat.reduceSub]

theorem vrdv (id : BitVec 10) : Statement (.vrdv id) := by
  intro w
  refine of_vector rfl w ?_
  unfold Dec.vector
  rw [op_vw]
  show some (Instr.vrdv _) = some (.vrdv id)
  simp (disch := decide) only [vH_vw, eRpt_vw, low_vw, bit_vw, sel_vc, imm_vc, Dec.eImm, ext_all, bit_one, ext_wide, ext_ext, bit_ext, wide_ext, ext_hi, ext_lo, bit_hi, bit_lo, wide_wide, wide_lo, Nat.reduceSub]

theorem vloop (lev : BitVec 1) (len : BitVec 12) (trips : BitVec 12) : Statement (.vloop lev len trips) := by
  intro w
  refine of_vector rfl w ?_
  unfold Dec.vector
  rw [op_vw]
  show some (Instr.vloop _ _ _) = some (.vloop lev len trips)
  simp (disch := decide) only [vH_vw, eRpt_vw, low_vw, bit_vw, sel_vc, imm_vc, Dec.eSel, Dec.eImm, ext_all, bit_one, ext_wide, ext_ext, bit_ext, wide_ext, ext_hi, ext_lo, bit_hi, bit_lo, wide_wide, wide_lo, Nat.reduceSub]

theorem vloopq (lev : BitVec 1) (k : BitVec 3) (len : BitVec 12) : Statement (.vloopq lev k len) := by
  intro w
  refine of_vector rfl w ?_
  unfold Dec.vector
  rw [op_vw]
  show some (Instr.vloopq _ _ _) = some (.vloopq lev k len)
  simp (disch := decide) only [vH_vw, eRpt_vw, low_vw, bit_vw, sel_vc, imm_vc, Dec.eSel, Dec.eImm, ext_all, bit_one, ext_wide, ext_ext, bit_ext, wide_ext, ext_hi, ext_lo, bit_hi, bit_lo, wide_wide, wide_lo, Nat.reduceSub]

theorem mnop (rpt : BitVec 6) : Statement (.mnop rpt) := by
  intro w
  refine of_matrix rfl w ?_
  unfold Dec.matrix
  rw [op_mw]
  show some (Instr.mnop _) = some (.mnop rpt)
  simp (disch := decide) only [xH_mw, eRpt_mw, low_mw, bit_mw, ext_all, bit_one, ext_wide, ext_ext, bit_ext, wide_ext, ext_hi, ext_lo, bit_hi, bit_lo, wide_wide, wide_lo, Nat.reduceSub]

theorem mlvl (lv : BitVec 3) (role : BitVec 3) (trip : BitVec 24) : Statement (.mlvl lv role trip) := by
  intro w
  refine of_matrix rfl w ?_
  unfold Dec.matrix
  rw [op_mw]
  show some (Instr.mlvl _ _ _) = some (.mlvl lv role trip)
  simp (disch := decide) only [xH_mw, eRpt_mw, low_mw, bit_mw, ext_all, bit_one, ext_wide, ext_ext, bit_ext, wide_ext, ext_hi, ext_lo, bit_hi, bit_lo, wide_wide, wide_lo, Nat.reduceSub]

theorem mstra (lv : BitVec 3) (dim : BitVec 3) (inc : BitVec 12) : Statement (.mstra lv dim inc) := by
  intro w
  refine of_matrix rfl w ?_
  unfold Dec.matrix
  rw [op_mw]
  show some (Instr.mstra _ _ _) = some (.mstra lv dim inc)
  simp (disch := decide) only [xH_mw, eRpt_mw, low_mw, bit_mw, ext_all, bit_one, ext_wide, ext_ext, bit_ext, wide_ext, ext_hi, ext_lo, bit_hi, bit_lo, wide_wide, wide_lo, Nat.reduceSub]

theorem mstrb (lv : BitVec 3) (dim : BitVec 3) (inc : BitVec 12) : Statement (.mstrb lv dim inc) := by
  intro w
  refine of_matrix rfl w ?_
  unfold Dec.matrix
  rw [op_mw]
  show some (Instr.mstrb _ _ _) = some (.mstrb lv dim inc)
  simp (disch := decide) only [xH_mw, eRpt_mw, low_mw, bit_mw, ext_all, bit_one, ext_wide, ext_ext, bit_ext, wide_ext, ext_hi, ext_lo, bit_hi, bit_lo, wide_wide, wide_lo, Nat.reduceSub]

theorem mstrc (lv : BitVec 3) (dim : BitVec 3) (inc : BitVec 12) : Statement (.mstrc lv dim inc) := by
  intro w
  refine of_matrix rfl w ?_
  unfold Dec.matrix
  rw [op_mw]
  show some (Instr.mstrc _ _ _) = some (.mstrc lv dim inc)
  simp (disch := decide) only [xH_mw, eRpt_mw, low_mw, bit_mw, ext_all, bit_one, ext_wide, ext_ext, bit_ext, wide_ext, ext_hi, ext_lo, bit_hi, bit_lo, wide_wide, wide_lo, Nat.reduceSub]

theorem mbind (opnd : BitVec 2) (t : BitVec 6) (unb : Bool) : Statement (.mbind opnd t unb) := by
  intro w
  refine of_matrix rfl w ?_
  unfold Dec.matrix
  rw [op_mw]
  show some (Instr.mbind _ _ _) = some (.mbind opnd t unb)
  simp (disch := decide) only [xH_mw, eRpt_mw, low_mw, bit_mw, ext_all, bit_one, ext_wide, ext_ext, bit_ext, wide_ext, ext_hi, ext_lo, bit_hi, bit_lo, wide_wide, wide_lo, Nat.reduceSub]

theorem mfmt (fa : BitVec 4) (fb : BitVec 4) (mode : BitVec 2) (spn : BitVec 2) (blk : Bool) (acci : Bool) (bank : Bool) : Statement (.mfmt fa fb mode spn blk acci bank) := by
  intro w
  refine of_matrix rfl w ?_
  unfold Dec.matrix
  rw [op_mw]
  show some (Instr.mfmt _ _ _ _ _ _ _) = some (.mfmt fa fb mode spn blk acci bank)
  simp (disch := decide) only [xH_mw, eRpt_mw, low_mw, bit_mw, ext_all, bit_one, ext_wide, ext_ext, bit_ext, wide_ext, ext_hi, ext_lo, bit_hi, bit_lo, wide_wide, wide_lo, Nat.reduceSub]

theorem mhld (hsz : BitVec 2) (diag : BitVec 16) : Statement (.mhld hsz diag) := by
  intro w
  refine of_matrix rfl w ?_
  unfold Dec.matrix
  rw [op_mw]
  show some (Instr.mhld _ _) = some (.mhld hsz diag)
  simp (disch := decide) only [xH_mw, eRpt_mw, low_mw, bit_mw, ext_all, bit_one, ext_wide, ext_ext, bit_ext, wide_ext, ext_hi, ext_lo, bit_hi, bit_lo, wide_wide, wide_lo, Nat.reduceSub]

theorem mdrain (rpt : BitVec 6) (ch : BitVec 2) (o : Order) (dmode : BitVec 2) (all : Bool) : Statement (.mdrain rpt ch o dmode all) := by
  intro w
  refine of_matrix rfl w ?_
  unfold Dec.matrix
  rw [op_mw]
  show some (Instr.mdrain _ _ _ _ _) = some (.mdrain rpt ch o dmode all)
  simp (disch := decide) only [xH_mw, eRpt_mw, low_mw, bit_mw, Enc.fOrder, Dec.eOrder, ext_all, bit_one, ext_wide, ext_ext, bit_ext, wide_ext, ext_hi, ext_lo, bit_hi, bit_lo, wide_wide, wide_lo, Nat.reduceSub]
  show some (Instr.mdrain rpt (BitVec.extractLsb' 0 2 ch) o dmode all) = _
  rw [ext_all]

theorem mzero (z0 : Bool) (z1 : Bool) : Statement (.mzero z0 z1) := by
  intro w
  refine of_matrix rfl w ?_
  unfold Dec.matrix
  rw [op_mw]
  show some (Instr.mzero _ _) = some (.mzero z0 z1)
  simp (disch := decide) only [xH_mw, eRpt_mw, low_mw, bit_mw, ext_all, bit_one, ext_wide, ext_ext, bit_ext, wide_ext, ext_hi, ext_lo, bit_hi, bit_lo, wide_wide, wide_lo, Nat.reduceSub]

theorem msetf (fl : BitVec 6) : Statement (.msetf fl) := by
  intro w
  refine of_matrix rfl w ?_
  unfold Dec.matrix
  rw [op_mw]
  show some (Instr.msetf _) = some (.msetf fl)
  simp (disch := decide) only [xH_mw, eRpt_mw, low_mw, bit_mw, sel_vc, imm_vc, Dec.eSel, ext_all, bit_one, ext_wide, ext_ext, bit_ext, wide_ext, ext_hi, ext_lo, bit_hi, bit_lo, wide_wide, wide_lo, Nat.reduceSub]

theorem mwaitf (fl : BitVec 6) : Statement (.mwaitf fl) := by
  intro w
  refine of_matrix rfl w ?_
  unfold Dec.matrix
  rw [op_mw]
  show some (Instr.mwaitf _) = some (.mwaitf fl)
  simp (disch := decide) only [xH_mw, eRpt_mw, low_mw, bit_mw, sel_vc, imm_vc, Dec.eSel, ext_all, bit_one, ext_wide, ext_ext, bit_ext, wide_ext, ext_hi, ext_lo, bit_hi, bit_lo, wide_wide, wide_lo, Nat.reduceSub]

theorem mrdv (id : BitVec 10) : Statement (.mrdv id) := by
  intro w
  refine of_matrix rfl w ?_
  unfold Dec.matrix
  rw [op_mw]
  show some (Instr.mrdv _) = some (.mrdv id)
  simp (disch := decide) only [xH_mw, eRpt_mw, low_mw, bit_mw, sel_vc, imm_vc, Dec.eImm, ext_all, bit_one, ext_wide, ext_ext, bit_ext, wide_ext, ext_hi, ext_lo, bit_hi, bit_lo, wide_wide, wide_lo, Nat.reduceSub]

theorem msetdl (dl : BitVec 24) : Statement (.msetdl dl) := by
  intro w
  refine of_matrix rfl w ?_
  unfold Dec.matrix
  rw [op_mw]
  show some (Instr.msetdl _) = some (.msetdl dl)
  simp (disch := decide) only [xH_mw, eRpt_mw, low_mw, bit_mw, sel_vc, imm_vc, Dec.eImm, ext_all, bit_one, ext_wide, ext_ext, bit_ext, wide_ext, ext_hi, ext_lo, bit_hi, bit_lo, wide_wide, wide_lo, Nat.reduceSub]

theorem xnop (rpt : BitVec 6) : Statement (.xnop rpt) := by
  intro w
  refine of_copy rfl w ?_
  unfold Dec.copy
  rw [op_mw]
  show some (Instr.xnop _) = some (.xnop rpt)
  simp (disch := decide) only [xH_mw, eRpt_mw, low_mw, bit_mw, ext_all, bit_one, ext_wide, ext_ext, bit_ext, wide_ext, ext_hi, ext_lo, bit_hi, bit_lo, wide_wide, wide_lo, Nat.reduceSub]

theorem xcopy (h : XH) (td : BitVec 6) (ts : BitVec 6) (ch : BitVec 2) (o : Order) (tag : Bool) : Statement (.xcopy h td ts ch o tag) := by
  intro w
  refine of_copy rfl w ?_
  unfold Dec.copy
  rw [op_mw]
  show some (Instr.xcopy _ _ _ _ _ _) = some (.xcopy h td ts ch o tag)
  simp (disch := decide) only [xH_mw, eRpt_mw, low_mw, bit_mw, td_x, ts_x, ring_x, ch_x, low_x, lowb_x, order_x, ext_all, bit_one, ext_wide, ext_ext, bit_ext, wide_ext, ext_hi, ext_lo, bit_hi, bit_lo, wide_wide, wide_lo, Nat.reduceSub]

theorem xadd (h : XH) (td : BitVec 6) (ts : BitVec 6) (ch : BitVec 2) (o : Order) : Statement (.xadd h td ts ch o) := by
  intro w
  refine of_copy rfl w ?_
  unfold Dec.copy
  rw [op_mw]
  show some (Instr.xadd _ _ _ _ _) = some (.xadd h td ts ch o)
  simp (disch := decide) only [xH_mw, eRpt_mw, low_mw, bit_mw, td_x, ts_x, ring_x, ch_x, low_x, lowb_x, order_x, ext_all, bit_one, ext_wide, ext_ext, bit_ext, wide_ext, ext_hi, ext_lo, bit_hi, bit_lo, wide_wide, wide_lo, Nat.reduceSub]

theorem xgath (h : XH) (td : BitVec 6) (ts : BitVec 6) (ti : BitVec 6) (ch : BitVec 2) (o : Order) (tag : Bool) : Statement (.xgath h td ts ti ch o tag) := by
  intro w
  refine of_copy rfl w ?_
  unfold Dec.copy
  rw [op_mw]
  show some (Instr.xgath _ _ _ _ _ _ _) = some (.xgath h td ts ti ch o tag)
  simp (disch := decide) only [xH_mw, eRpt_mw, low_mw, bit_mw, td_x, ts_x, ring_x, ch_x, low_x, lowb_x, order_x, ext_all, bit_one, ext_wide, ext_ext, bit_ext, wide_ext, ext_hi, ext_lo, bit_hi, bit_lo, wide_wide, wide_lo, Nat.reduceSub]

theorem xscat (h : XH) (td : BitVec 6) (ts : BitVec 6) (ti : BitVec 6) (ch : BitVec 2) (o : Order) : Statement (.xscat h td ts ti ch o) := by
  intro w
  refine of_copy rfl w ?_
  unfold Dec.copy
  rw [op_mw]
  show some (Instr.xscat _ _ _ _ _ _) = some (.xscat h td ts ti ch o)
  simp (disch := decide) only [xH_mw, eRpt_mw, low_mw, bit_mw, td_x, ts_x, ring_x, ch_x, low_x, lowb_x, order_x, ext_all, bit_one, ext_wide, ext_ext, bit_ext, wide_ext, ext_hi, ext_lo, bit_hi, bit_lo, wide_wide, wide_lo, Nat.reduceSub]

theorem xfill (h : XH) (td : BitVec 6) (ch : BitVec 2) (o : Order) (tag : Bool) (pw : BitVec 10) : Statement (.xfill h td ch o tag pw) := by
  intro w
  refine of_copy rfl w ?_
  unfold Dec.copy
  rw [op_mw]
  show some (Instr.xfill _ _ _ _ _ _) = some (.xfill h td ch o tag pw)
  simp (disch := decide) only [xH_mw, eRpt_mw, low_mw, bit_mw, td_x, ts_x, ring_x, ch_x, low_x, lowb_x, order_x, ext_all, bit_one, ext_wide, ext_ext, bit_ext, wide_ext, ext_hi, ext_lo, bit_hi, bit_lo, wide_wide, wide_lo, Nat.reduceSub]

theorem xmove (h : XH) (t : BitVec 6) (npg : BitVec 16) (ch : BitVec 2) : Statement (.xmove h t npg ch) := by
  intro w
  refine of_copy rfl w ?_
  unfold Dec.copy
  rw [op_mw]
  show some (Instr.xmove _ _ _ _) = some (.xmove h t npg ch)
  simp (disch := decide) only [xH_mw, eRpt_mw, low_mw, bit_mw, ext_all, bit_one, ext_wide, ext_ext, bit_ext, wide_ext, ext_hi, ext_lo, bit_hi, bit_lo, wide_wide, wide_lo, Nat.reduceSub]

theorem xstrm (q : BitVec 4) (t : BitVec 6) (ch : BitVec 2) : Statement (.xstrm q t ch) := by
  intro w
  refine of_copy rfl w ?_
  unfold Dec.copy
  rw [op_mw]
  show some (Instr.xstrm _ _ _) = some (.xstrm q t ch)
  simp (disch := decide) only [xH_mw, eRpt_mw, low_mw, bit_mw, ext_all, bit_one, ext_wide, ext_ext, bit_ext, wide_ext, ext_hi, ext_lo, bit_hi, bit_lo, wide_wide, wide_lo, Nat.reduceSub]

theorem xtsrld (rpt : BitVec 6) (t : BitVec 6) (ch : BitVec 2) (pw : BitVec 10) : Statement (.xtsrld rpt t ch pw) := by
  intro w
  refine of_copy rfl w ?_
  unfold Dec.copy
  rw [op_mw]
  show some (Instr.xtsrld _ _ _ _) = some (.xtsrld rpt t ch pw)
  simp (disch := decide) only [xH_mw, eRpt_mw, low_mw, bit_mw, ext_all, bit_one, ext_wide, ext_ext, bit_ext, wide_ext, ext_hi, ext_lo, bit_hi, bit_lo, wide_wide, wide_lo, Nat.reduceSub]

theorem xpatch (h : XH) (t : BitVec 6) (fld : BitVec 5) (add : Bool) (ch : BitVec 2) (pw : BitVec 10) : Statement (.xpatch h t fld add ch pw) := by
  intro w
  refine of_copy rfl w ?_
  unfold Dec.copy
  rw [op_mw]
  show some (Instr.xpatch _ _ _ _ _ _) = some (.xpatch h t fld add ch pw)
  simp (disch := decide) only [xH_mw, eRpt_mw, low_mw, bit_mw, ext_all, bit_one, ext_wide, ext_ext, bit_ext, wide_ext, ext_hi, ext_lo, bit_hi, bit_lo, wide_wide, wide_lo, Nat.reduceSub]

theorem xroute (ts : BitVec 6) (tq : BitVec 6) (ch : BitVec 2) (rat : BitVec 4) : Statement (.xroute ts tq ch rat) := by
  intro w
  refine of_copy rfl w ?_
  unfold Dec.copy
  rw [op_mw]
  show some (Instr.xroute _ _ _ _) = some (.xroute ts tq ch rat)
  simp (disch := decide) only [xH_mw, eRpt_mw, low_mw, bit_mw, ext_all, bit_one, ext_wide, ext_ext, bit_ext, wide_ext, ext_hi, ext_lo, bit_hi, bit_lo, wide_wide, wide_lo, Nat.reduceSub]

theorem xrret (h : XH) (ts : BitVec 6) (ring : BitVec 4) (ch : BitVec 2) (o : Order) : Statement (.xrret h ts ring ch o) := by
  intro w
  refine of_copy rfl w ?_
  unfold Dec.copy
  rw [op_mw]
  show some (Instr.xrret _ _ _ _ _) = some (.xrret h ts ring ch o)
  simp (disch := decide) only [xH_mw, eRpt_mw, low_mw, bit_mw, td_x, ts_x, ring_x, ch_x, low_x, lowb_x, order_x, ext_all, bit_one, ext_wide, ext_ext, bit_ext, wide_ext, ext_hi, ext_lo, bit_hi, bit_lo, wide_wide, wide_lo, Nat.reduceSub]

theorem xratRat (n : BitVec 4) (ch : BitVec 2) (pw : BitVec 10) : Statement (.xratRat n ch pw) := by
  intro w
  refine of_copy rfl w ?_
  unfold Dec.copy
  rw [op_mw]
  show some (if BitVec.getLsbD _ 28 then _ else _) = _
  rw [show BitVec.getLsbD _ 28 = false from ?_]
  · show some (Instr.xratRat _ _ _) = some (.xratRat n ch pw)
    simp (disch := decide) only [low_mw, ext_all, bit_one, ext_wide, ext_ext, bit_ext, wide_ext, ext_hi, ext_lo, bit_hi, bit_lo, wide_wide, wide_lo, Nat.reduceSub]
  · refine (bit_lo _ _ _ (by decide)).trans ?_
    repeat (first | rfl | refine (bit_lo _ _ _ (by decide)).trans ?_ | refine (bit_hi _ _ _ (by decide)).trans ?_)

theorem xratRing (n : BitVec 4) (ch : BitVec 2) (pw : BitVec 10) : Statement (.xratRing n ch pw) := by
  intro w
  refine of_copy rfl w ?_
  unfold Dec.copy
  rw [op_mw]
  show some (if BitVec.getLsbD _ 28 then _ else _) = _
  rw [show BitVec.getLsbD _ 28 = true from ?_]
  · show some (Instr.xratRing _ _ _) = some (.xratRing n ch pw)
    simp (disch := decide) only [low_mw, ext_all, bit_one, ext_wide, ext_ext, bit_ext, wide_ext, ext_hi, ext_lo, bit_hi, bit_lo, wide_wide, wide_lo, Nat.reduceSub]
  · refine (bit_lo _ _ _ (by decide)).trans ?_
    repeat (first | rfl | refine (bit_lo _ _ _ (by decide)).trans ?_ | refine (bit_hi _ _ _ (by decide)).trans ?_)

theorem xrcloseClose (ring : BitVec 4) (ch : BitVec 2) : Statement (.xrcloseClose ring ch) := by
  intro w
  refine of_copy rfl w ?_
  unfold Dec.copy
  rw [op_mw]
  show some (if BitVec.getLsbD _ 28 then _ else _) = _
  rw [show BitVec.getLsbD _ 28 = false from ?_]
  · show some (Instr.xrcloseClose _ _) = some (.xrcloseClose ring ch)
    simp (disch := decide) only [low_mw, ext_all, bit_one, ext_wide, ext_ext, bit_ext, wide_ext, ext_hi, ext_lo, bit_hi, bit_lo, wide_wide, wide_lo, Nat.reduceSub]
  · refine (bit_lo _ _ _ (by decide)).trans ?_
    repeat (first | rfl | refine (bit_lo _ _ _ (by decide)).trans ?_ | refine (bit_hi _ _ _ (by decide)).trans ?_)

theorem xrcloseRelease (ring : BitVec 4) (ch : BitVec 2) : Statement (.xrcloseRelease ring ch) := by
  intro w
  refine of_copy rfl w ?_
  unfold Dec.copy
  rw [op_mw]
  show some (if BitVec.getLsbD _ 28 then _ else _) = _
  rw [show BitVec.getLsbD _ 28 = true from ?_]
  · show some (Instr.xrcloseRelease _ _) = some (.xrcloseRelease ring ch)
    simp (disch := decide) only [low_mw, ext_all, bit_one, ext_wide, ext_ext, bit_ext, wide_ext, ext_hi, ext_lo, bit_hi, bit_lo, wide_wide, wide_lo, Nat.reduceSub]
  · refine (bit_lo _ _ _ (by decide)).trans ?_
    repeat (first | rfl | refine (bit_lo _ _ _ (by decide)).trans ?_ | refine (bit_hi _ _ _ (by decide)).trans ?_)

theorem xcoll (rpt : BitVec 6) (ch : BitVec 2) (pw : BitVec 10) : Statement (.xcoll rpt ch pw) := by
  intro w
  refine of_copy rfl w ?_
  unfold Dec.copy
  rw [op_mw]
  show some (Instr.xcoll _ _ _) = some (.xcoll rpt ch pw)
  simp (disch := decide) only [xH_mw, eRpt_mw, low_mw, bit_mw, ext_all, bit_one, ext_wide, ext_ext, bit_ext, wide_ext, ext_hi, ext_lo, bit_hi, bit_lo, wide_wide, wide_lo, Nat.reduceSub]

theorem xdcf (h : XH) (t : BitVec 6) (ch : BitVec 2) : Statement (.xdcf h t ch) := by
  intro w
  refine of_copy rfl w ?_
  unfold Dec.copy
  rw [op_mw]
  show some (Instr.xdcf _ _ _) = some (.xdcf h t ch)
  simp (disch := decide) only [xH_mw, eRpt_mw, low_mw, bit_mw, ext_all, bit_one, ext_wide, ext_ext, bit_ext, wide_ext, ext_hi, ext_lo, bit_hi, bit_lo, wide_wide, wide_lo, Nat.reduceSub]

theorem xsetf (fl : BitVec 6) : Statement (.xsetf fl) := by
  intro w
  refine of_copy rfl w ?_
  unfold Dec.copy
  rw [op_mw]
  show some (Instr.xsetf _) = some (.xsetf fl)
  simp (disch := decide) only [xH_mw, eRpt_mw, low_mw, bit_mw, sel_vc, imm_vc, Dec.eSel, ext_all, bit_one, ext_wide, ext_ext, bit_ext, wide_ext, ext_hi, ext_lo, bit_hi, bit_lo, wide_wide, wide_lo, Nat.reduceSub]

theorem xwaitf (fl : BitVec 6) : Statement (.xwaitf fl) := by
  intro w
  refine of_copy rfl w ?_
  unfold Dec.copy
  rw [op_mw]
  show some (Instr.xwaitf _) = some (.xwaitf fl)
  simp (disch := decide) only [xH_mw, eRpt_mw, low_mw, bit_mw, sel_vc, imm_vc, Dec.eSel, ext_all, bit_one, ext_wide, ext_ext, bit_ext, wide_ext, ext_hi, ext_lo, bit_hi, bit_lo, wide_wide, wide_lo, Nat.reduceSub]

theorem xrdv (id : BitVec 10) : Statement (.xrdv id) := by
  intro w
  refine of_copy rfl w ?_
  unfold Dec.copy
  rw [op_mw]
  show some (Instr.xrdv _) = some (.xrdv id)
  simp (disch := decide) only [xH_mw, eRpt_mw, low_mw, bit_mw, sel_vc, imm_vc, Dec.eImm, ext_all, bit_one, ext_wide, ext_ext, bit_ext, wide_ext, ext_hi, ext_lo, bit_hi, bit_lo, wide_wide, wide_lo, Nat.reduceSub]

theorem xsetdl (dl : BitVec 24) : Statement (.xsetdl dl) := by
  intro w
  refine of_copy rfl w ?_
  unfold Dec.copy
  rw [op_mw]
  show some (Instr.xsetdl _) = some (.xsetdl dl)
  simp (disch := decide) only [xH_mw, eRpt_mw, low_mw, bit_mw, sel_vc, imm_vc, Dec.eImm, ext_all, bit_one, ext_wide, ext_ext, bit_ext, wide_ext, ext_hi, ext_lo, bit_hi, bit_lo, wide_wide, wide_lo, Nat.reduceSub]

theorem xloop (lev : BitVec 1) (len : BitVec 12) (trips : BitVec 12) : Statement (.xloop lev len trips) := by
  intro w
  refine of_copy rfl w ?_
  unfold Dec.copy
  rw [op_mw]
  show some (Instr.xloop _ _ _) = some (.xloop lev len trips)
  simp (disch := decide) only [xH_mw, eRpt_mw, low_mw, bit_mw, sel_vc, imm_vc, Dec.eSel, Dec.eImm, ext_all, bit_one, ext_wide, ext_ext, bit_ext, wide_ext, ext_hi, ext_lo, bit_hi, bit_lo, wide_wide, wide_lo, Nat.reduceSub]

theorem xloopq (lev : BitVec 1) (k : BitVec 3) (len : BitVec 12) : Statement (.xloopq lev k len) := by
  intro w
  refine of_copy rfl w ?_
  unfold Dec.copy
  rw [op_mw]
  show some (Instr.xloopq _ _ _) = some (.xloopq lev k len)
  simp (disch := decide) only [xH_mw, eRpt_mw, low_mw, bit_mw, sel_vc, imm_vc, Dec.eSel, Dec.eImm, ext_all, bit_one, ext_wide, ext_ext, bit_ext, wide_ext, ext_hi, ext_lo, bit_hi, bit_lo, wide_wide, wide_lo, Nat.reduceSub]

theorem illegalOpcode (sq : Seq) (w : W64) : Statement (.illegalOpcode sq w) := fun _ => .inl rfl

theorem vend : Statement (.vend) := by
  intro w
  refine of_vector rfl w ?_
  rfl

theorem mgo : Statement (.mgo) := by
  intro w
  refine of_matrix rfl w ?_
  rfl

theorem mend : Statement (.mend) := by
  intro w
  refine of_matrix rfl w ?_
  rfl

theorem xend : Statement (.xend) := by
  intro w
  refine of_copy rfl w ?_
  rfl

theorem loadReply : Statement (.loadReply) := fun _ => .inl rfl

theorem sliceServiceEvent : Statement (.sliceServiceEvent) := fun _ => .inl rfl

theorem ruleFiring : Statement (.ruleFiring) := fun _ => .inl rfl

theorem loopqExpiry : Statement (.loopqExpiry) := fun _ => .inl rfl

theorem seamInstant : Statement (.seamInstant) := fun _ => .inl rfl

theorem ksrWriteDone : Statement (.ksrWriteDone) := fun _ => .inl rfl

theorem handoverCommit : Statement (.handoverCommit) := fun _ => .inl rfl

theorem handoverPolicy : Statement (.handoverPolicy) := fun _ => .inl rfl

theorem gatherLaneArrival : Statement (.gatherLaneArrival) := fun _ => .inl rfl

theorem irbLanding : Statement (.irbLanding) := fun _ => .inl rfl

theorem streamRowArrival : Statement (.streamRowArrival) := fun _ => .inl rfl

theorem streamTimeout : Statement (.streamTimeout) := fun _ => .inl rfl

theorem tagWaitExpiry : Statement (.tagWaitExpiry) := fun _ => .inl rfl

theorem gatherWaitExpiry : Statement (.gatherWaitExpiry) := fun _ => .inl rfl

theorem vsetaExpiry : Statement (.vsetaExpiry) := fun _ => .inl rfl

theorem queueLoopExpiry : Statement (.queueLoopExpiry) := fun _ => .inl rfl

theorem rendezvousStopExpiry : Statement (.rendezvousStopExpiry) := fun _ => .inl rfl

theorem reductionStart : Statement (.reductionStart) := fun _ => .inl rfl

theorem accumulatorRetirement : Statement (.accumulatorRetirement) := fun _ => .inl rfl

theorem drainTileReadDone : Statement (.drainTileReadDone) := fun _ => .inl rfl

theorem matrixWaitExpiry : Statement (.matrixWaitExpiry) := fun _ => .inl rfl

theorem tileFetchReturn : Statement (.tileFetchReturn) := fun _ => .inl rfl

theorem addressQueueRequest : Statement (.addressQueueRequest) := fun _ => .inl rfl

theorem copyCommandCompletion : Statement (.copyCommandCompletion) := fun _ => .inl rfl

theorem commandWaitExpiry : Statement (.commandWaitExpiry) := fun _ => .inl rfl

theorem engineRun : Statement (.engineRun) := fun _ => .inl rfl

theorem setfCommand : Statement (.setfCommand) := fun _ => .inl rfl

theorem waitfCommand : Statement (.waitfCommand) := fun _ => .inl rfl

theorem waitfCommandExpiry : Statement (.waitfCommandExpiry) := fun _ => .inl rfl

theorem deadlineExpiry : Statement (.deadlineExpiry) := fun _ => .inl rfl

theorem moveClaim : Statement (.moveClaim) := fun _ => .inl rfl

theorem pageCommit : Statement (.pageCommit) := fun _ => .inl rfl

theorem moveFinalCommit : Statement (.moveFinalCommit) := fun _ => .inl rfl

theorem claimPass : Statement (.claimPass) := fun _ => .inl rfl

theorem heldWriteExpiry : Statement (.heldWriteExpiry) := fun _ => .inl rfl

theorem demandHalving : Statement (.demandHalving) := fun _ => .inl rfl

theorem adeDispatch : Statement (.adeDispatch) := fun _ => .inl rfl

theorem adeChunkDone : Statement (.adeChunkDone) := fun _ => .inl rfl

theorem adeCompletion : Statement (.adeCompletion) := fun _ => .inl rfl

theorem placementArrival : Statement (.placementArrival) := fun _ => .inl rfl

theorem answerArrival : Statement (.answerArrival) := fun _ => .inl rfl

theorem returnArrival : Statement (.returnArrival) := fun _ => .inl rfl

theorem xrouteDeadlineExpiry : Statement (.xrouteDeadlineExpiry) := fun _ => .inl rfl

theorem windowAutoClose : Statement (.windowAutoClose) := fun _ => .inl rfl

theorem wcFlush : Statement (.wcFlush) := fun _ => .inl rfl

theorem launchDoorbell : Statement (.launchDoorbell) := fun _ => .inl rfl

theorem launchAccept : Statement (.launchAccept) := fun _ => .inl rfl

theorem dispatch : Statement (.dispatch) := fun _ => .inl rfl

theorem overlayLoadDone : Statement (.overlayLoadDone) := fun _ => .inl rfl

theorem kernelEntry : Statement (.kernelEntry) := fun _ => .inl rfl

theorem bootMailboxWrite : Statement (.bootMailboxWrite) := fun _ => .inl rfl

theorem preemptRequest : Statement (.preemptRequest) := fun _ => .inl rfl

theorem preemptStop : Statement (.preemptStop) := fun _ => .inl rfl

theorem imageSaveDone : Statement (.imageSaveDone) := fun _ => .inl rfl

theorem restore : Statement (.restore) := fun _ => .inl rfl

theorem completionRecord : Statement (.completionRecord) := fun _ => .inl rfl

theorem gangArm : Statement (.gangArm) := fun _ => .inl rfl

theorem gangAckArrival : Statement (.gangAckArrival) := fun _ => .inl rfl

theorem gangDeadlineExpiry : Statement (.gangDeadlineExpiry) := fun _ => .inl rfl

theorem gangAbortMessage : Statement (.gangAbortMessage) := fun _ => .inl rfl

theorem interrupt : Statement (.interrupt) := fun _ => .inl rfl

theorem uncorrectableError : Statement (.uncorrectableError) := fun _ => .inl rfl

theorem unitRetire : Statement (.unitRetire) := fun _ => .inl rfl

theorem preciseStop : Statement (.preciseStop) := fun _ => .inl rfl

theorem traceTrigger : Statement (.traceTrigger) := fun _ => .inl rfl

theorem hostRead : Statement (.hostRead) := fun _ => .inl rfl

theorem hostWrite : Statement (.hostWrite) := fun _ => .inl rfl

theorem bar0RegisterWrite : Statement (.bar0RegisterWrite) := fun _ => .inl rfl

theorem hcqerrOverrunClear : Statement (.hcqerrOverrunClear) := fun _ => .inl rfl

theorem createContext : Statement (.createContext) := fun _ => .inl rfl

theorem destroyContext : Statement (.destroyContext) := fun _ => .inl rfl

theorem register : Statement (.register) := fun _ => .inl rfl

theorem deregister : Statement (.deregister) := fun _ => .inl rfl

theorem suspend : Statement (.suspend) := fun _ => .inl rfl

theorem suspendStart : Statement (.suspendStart) := fun _ => .inl rfl

theorem suspendMessage : Statement (.suspendMessage) := fun _ => .inl rfl

theorem collectiveQuiesceExpiry : Statement (.collectiveQuiesceExpiry) := fun _ => .inl rfl

theorem resume : Statement (.resume) := fun _ => .inl rfl

theorem attest : Statement (.attest) := fun _ => .inl rfl

theorem lctoken : Statement (.lctoken) := fun _ => .inl rfl

theorem recover : Statement (.recover) := fun _ => .inl rfl

theorem debugStop : Statement (.debugStop) := fun _ => .inl rfl

theorem debugResume : Statement (.debugResume) := fun _ => .inl rfl

theorem debugRead : Statement (.debugRead) := fun _ => .inl rfl

theorem debugTrace : Statement (.debugTrace) := fun _ => .inl rfl

theorem setdev : Statement (.setdev) := fun _ => .inl rfl

theorem readst : Statement (.readst) := fun _ => .inl rfl

theorem flitArrival : Statement (.flitArrival) := fun _ => .inl rfl

theorem collectivePieceArrival : Statement (.collectivePieceArrival) := fun _ => .inl rfl

theorem portTraining : Statement (.portTraining) := fun _ => .inl rfl

theorem timeSync : Statement (.timeSync) := fun _ => .inl rfl

theorem powerWindow : Statement (.powerWindow) := fun _ => .inl rfl

theorem railPointChange : Statement (.railPointChange) := fun _ => .inl rfl

theorem thermalSweep : Statement (.thermalSweep) := fun _ => .inl rfl

theorem reset : Statement (.reset) := fun _ => .inl rfl

theorem flagWaitExpiry : Statement (.flagWaitExpiry) := fun _ => .inl rfl

theorem slotLoadCompletion : Statement (.slotLoadCompletion) := fun _ => .inl rfl

theorem slotWriteExpiry : Statement (.slotWriteExpiry) := fun _ => .inl rfl

theorem parameterWordArrival : Statement (.parameterWordArrival) := fun _ => .inl rfl

theorem streamBindExpiry : Statement (.streamBindExpiry) := fun _ => .inl rfl

theorem ratBusyWaitExpiry : Statement (.ratBusyWaitExpiry) := fun _ => .inl rfl

theorem countQueueRoomExpiry : Statement (.countQueueRoomExpiry) := fun _ => .inl rfl

theorem l2LineEviction : Statement (.l2LineEviction) := fun _ => .inl rfl

theorem hostWriteAcknowledgement : Statement (.hostWriteAcknowledgement) := fun _ => .inl rfl

theorem imagePublication : Statement (.imagePublication) := fun _ => .inl rfl

theorem imageUnload : Statement (.imageUnload) := fun _ => .inl rfl

end Sys2Proof.Laws.Fields
end

