-- ==== Sys2Proof/Safety.lean ====
section
/-! DEFINITION. What a claim about a step may ask of a state and of the state after it: the canonical form of memory, a step that goes on, and
what is left as it was. -/

namespace Sys2Proof

open Sys2Proof.Machine

/-- Memory is in its canonical form. -/
abbrev MemWf (s : State) : Prop := s.ms.wf = true

/-- A step of s goes on: it neither faults nor is refused. -/
def StepsTo (s t : State) : Prop := step s = .next t

namespace Frame

/-- The byte at a physical address as its owning slice reads it. -/
def byteAt (s : State) (pa : Nat) : Byte := (sliceRead s.ms pa 1).headD 0

/-- Every line held in the cache ways has its 128 bytes, and its address is one whose lines cache ways hold. -/
def LinesWhole (m : MemSys) : Prop := ∀ k l, tblGet none m.l2 k = some l → l.data.length = 128 ∧ cached (k * 128) = true

/-- Every byte of memory reads as before. -/
def memory (s t : State) : Prop := ∀ pa, byteAt t pa = byteAt s pa

/-- Every byte reads as before but n bytes from pa, of either view. -/
def memoryBut (s t : State) (pa n : Nat) : Prop := ∀ a, (pa50 a < pa50 pa ∨ pa50 pa + n ≤ pa50 a) → byteAt t a = byteAt s a

/-- Every scalar register outside the list reads as before. -/
def regs (s t : State) (ds : List Reg) : Prop := ∀ r, r ∉ ds → rd t r = rd s r

/-- Every predicate outside the list reads as before. -/
def preds (s t : State) (ps : List (BitVec 4)) : Prop := ∀ p, p ∉ ps → (me t).ctl.rdP p = (me s).ctl.rdP p

/-- The machine outside the executor whose turn it is: memory and caches, the other executors, launches, barriers, contexts, tiers, messages,
the device. The next fresh number apart, nothing changes. -/
structure Elsewhere (s t : State) : Prop where
  machine : t = { s with cores := t.cores, nextId := t.nextId }
  others : ∀ n, n ≠ s.ex → t.cores.get n = s.cores.get n
  memory : ∀ pa, byteAt t pa = byteAt s pa

/-- The record of an executor but for its scalar registers, predicates, pc, loop levels and slot count, and for the debug snapshot that the end
of a loop level takes where snapshots are enabled (spec/19 R432): at most one record on its way, its counter and its overflow mark; behind an
outstanding reply the levels that ended are only noted with it (spec/14 R472). No deadline is left from a wait that was stopped (spec/15 R318). -/
structure Aside (c d : Core) : Prop where
  rest : d = { c with ctl := d.ctl, ccycle := d.ccycle, remain := none, relAt := none, pend := d.pend, reqs := d.reqs,
                      csrd := { c.csrd with bccnt := d.csrd.bccnt, bcctl := d.csrd.bcctl } }
  record : d.reqs = c.reqs ∨ ∃ r, isRecord false r = true ∧ d.reqs = c.reqs ++ [r]
  disabled : c.csrd.bcctl.getLsbD 31 = false → d.reqs = c.reqs ∧ d.csrd = c.csrd
  idle : c.pend = none → d.pend = none
  behind : ∀ p, c.pend = some p → d.reqs = c.reqs ∧ d.csrd = c.csrd ∧ ∃ l, d.pend = some { p with snaps := p.snaps ++ l }

/-- The word at the pc is complete without a redirection: the next word follows, or the start of the innermost body that the word ends and that
has another pass (R295). -/
def nextWord (s t : State) : Prop :=
  (me t).ctl.pc = (loopEnd 4 (me s).ctl (me s).ctl.pc none []).1.pc ∧ (me t).ctl.loops = (loopEnd 4 (me s).ctl (me s).ctl.pc none []).1.loops

/-- A control word that writes registers alone has completed: every scalar register outside ds and every predicate outside ps reads as before, and
nothing else of the machine changes. -/
structure RegisterWord (s t : State) (ds : List Reg) (ps : List (BitVec 4)) : Prop where
  regs : Frame.regs s t ds
  preds : Frame.preds s t ps
  aside : Aside (me s) (me t)
  elsewhere : Elsewhere s t
  next : nextWord s t

end Frame

end Sys2Proof
end

