-- ==== Sys2Proof/Certificates/Slice0/Obligations.lean ====
section
/-! DEFINITION. The statements about the model for the provers. Each names the rules of spec/ that it states. -/

open Sys2Proof Sys2Proof.Machine

/-! ## Words that write one register -/

namespace Sys2Proof.Claims

/-- The integer words of two register sources, with the value that R289 gives their result. -/
def integerWords : List ((Guard → Reg → Reg → Reg → Instr) × (W64 → W64 → W64)) :=
  [(.add, fun x y => x + y), (.sub, fun x y => x - y), (.mul, fun x y => x * y),
   (.mulh, fun x y => (x.signExtend 128 * y.signExtend 128).extractLsb' 64 64),
   (.mulhu, fun x y => (x.setWidth 128 * y.setWidth 128).extractLsb' 64 64),
   (.div, fun x y => if y = 0 then BitVec.allOnes 64 else x.sdiv y),
   (.divu, fun x y => if y = 0 then BitVec.allOnes 64 else x / y),
   (.rem, fun x y => if y = 0 then x else x.srem y),
   (.remu, fun x y => if y = 0 then x else x % y),
   (.and, fun x y => x &&& y), (.or, fun x y => x ||| y), (.xor, fun x y => x ^^^ y), (.andn, fun x y => x &&& ~~~y),
   (.shl, fun x y => if y.toNat < 64 then x <<< y.toNat else 0),
   (.shr, fun x y => if y.toNat < 64 then x >>> y.toNat else 0),
   (.sra, fun x y => x.sshiftRight (min y.toNat 63)),
   (.min, fun x y => if x.toInt ≤ y.toInt then x else y), (.max, fun x y => if x.toInt ≤ y.toInt then y else x),
   (.minu, fun x y => if x.toNat ≤ y.toNat then x else y), (.maxu, fun x y => if x.toNat ≤ y.toNat then y else x)]

/-- The number of leading zeros of a word. -/
def IsClz (x : W64) (n : Nat) : Prop := n ≤ 64 ∧ (∀ i, i < n → x.getLsbD (63 - i) = false) ∧ (n < 64 → x.getLsbD (63 - n) = true)

/-- The integer words of one register source and a 12-bit immediate, with the value that R291 gives their result. -/
def immediateWords (imm : BitVec 12) : List ((Guard → Reg → Reg → BitVec 12 → Instr) × (W64 → W64)) :=
  [(.addi, fun x => x + imm.signExtend 64), (.andi, fun x => x &&& imm.signExtend 64), (.ori, fun x => x ||| imm.signExtend 64),
   (.xori, fun x => x ^^^ imm.signExtend 64)]

/-- The shifts by an immediate. -/
def shiftWords (imm : BitVec 12) : List ((Guard → Reg → Reg → BitVec 12 → Instr) × (W64 → W64)) :=
  [(.shli, fun x => x <<< imm.toNat), (.shri, fun x => x >>> imm.toNat), (.srai, fun x => x.sshiftRight imm.toNat)]

/-- The compare words of two register sources, with the predicate that R290 gives. -/
def compareWords : List ((Guard → BitVec 4 → Reg → Reg → Instr) × (W64 → W64 → Bool)) :=
  [(.cmpeq, fun x y => decide (x = y)), (.cmpne, fun x y => decide (x ≠ y)), (.cmplt, fun x y => decide (x.toInt < y.toInt)),
   (.cmple, fun x y => decide (x.toInt ≤ y.toInt)), (.cmpltu, fun x y => decide (x.toNat < y.toNat)), (.cmpleu, fun x y => decide (x.toNat ≤ y.toNat))]

/-- The compare words of a 12-bit immediate. -/
def compareImmediateWords (imm : BitVec 12) : List ((Guard → BitVec 4 → Reg → BitVec 12 → Instr) × (W64 → Bool)) :=
  [(.cmpeqi, fun x => decide (x = imm.signExtend 64)), (.cmplti, fun x => decide (x.toInt < imm.toInt)),
   (.cmpltui, fun x => decide (x.toNat < imm.toNat))]

/-- The word completes with v in s[d] alone; s0 keeps reading zero. -/
def WritesScalar (i : Instr) (s : State) (d : Reg) (v : W64) : Prop :=
  ∃ t, exec i s = .next t ∧ rd t d = (if d = 0 then 0 else v) ∧ Frame.RegisterWord s t [d] []

/-- The word completes with v in p[d] alone; p15 keeps reading 1. -/
def WritesPredicate (i : Instr) (s : State) (d : BitVec 4) (v : Bool) : Prop :=
  ∃ t, exec i s = .next t ∧ (me t).ctl.rdP d = (if d = 15 then true else v) ∧ Frame.RegisterWord s t [] [d]

end Sys2Proof.Claims

open Sys2Proof.Claims

/-- R289: the result of the integer words of two register sources, for every value; nothing else changes. -/
def Sys2Proof.Claims.IntegerWordResults : Prop :=
  ∀ (s : State) (g : Guard) (d a b : Reg), guardOk (me s).ctl g = true →
    ∀ e ∈ integerWords, WritesScalar (e.1 g d a b) s d (e.2 (rd s a) (rd s b))

/-- R289: CLZ counts the leading zeros and POPC the set bits; nothing else changes. -/
def Sys2Proof.Claims.BitCountResults : Prop :=
  ∀ (s : State) (g : Guard) (d a : Reg), guardOk (me s).ctl g = true →
    (∃ n, IsClz (rd s a) n ∧ WritesScalar (.clz g d a) s d (BitVec.ofNat 64 n)) ∧
    WritesScalar (.popc g d a) s d (BitVec.ofNat 64 ((List.range 64).filter (fun i => (rd s a).getLsbD i)).length)

/-- R291, R47: the results of the immediate words, compares among them; nothing else changes. A shift amount above 63 is no legal field of a shift. -/
def Sys2Proof.Claims.ImmediateWordResults : Prop :=
  ∀ (s : State) (g : Guard) (d a : Reg) (pd : BitVec 4) (imm : BitVec 12) (wide : BitVec 20) (long : BitVec 32), guardOk (me s).ctl g = true →
    (∀ e ∈ immediateWords imm, WritesScalar (e.1 g d a imm) s d (e.2 (rd s a))) ∧
    (imm.toNat < 64 → ∀ e ∈ shiftWords imm, WritesScalar (e.1 g d a imm) s d (e.2 (rd s a))) ∧
    (∀ e ∈ compareImmediateWords imm, WritesPredicate (e.1 g pd a imm) s pd (e.2 (rd s a))) ∧
    WritesScalar (.sethi g d wide) s d (wide.signExtend 64 * 4096) ∧
    WritesScalar (.addpc g d wide) s d ((me s).ctl.pc + wide.signExtend 64 * 4096) ∧
    WritesScalar (.movi g d long) s d (long.signExtend 64)

/-- R290: the predicate that each compare word writes, and PLOG's bit of its truth table; nothing else changes. -/
def Sys2Proof.Claims.CompareWordResults : Prop :=
  ∀ (s : State) (g : Guard) (pd pa pb tt : BitVec 4) (a b : Reg), guardOk (me s).ctl g = true →
    (∀ e ∈ compareWords, WritesPredicate (e.1 g pd a b) s pd (e.2 (rd s a) (rd s b))) ∧
    WritesPredicate (.plog g pd pa pb tt) s pd
      (tt.getLsbD (2 * ((me s).ctl.rdP pa).toNat + ((me s).ctl.rdP pb).toNat))

/-- R290, R311, R54: SEL, PMOV in both directions (a third value of its X is no legal word), RDTIME, RDCTIME and NOP; nothing else changes. -/
def Sys2Proof.Claims.MoveAndTimeWordResults : Prop :=
  ∀ (s : State) (g : Guard) (d a b : Reg) (x : BitVec 4), guardOk (me s).ctl g = true →
    WritesScalar (.sel g d a b x) s d (if (me s).ctl.rdP x then rd s a else rd s b) ∧
    (∃ v : W64, (∀ i, v.getLsbD i = (decide (i < 16) && (me s).ctl.rdP (BitVec.ofNat 4 i))) ∧ WritesScalar (.pmov g d a 0) s d v) ∧
    (∃ t, exec (.pmov g d a 1) s = .next t ∧ (∀ p, p ≠ 15 → (me t).ctl.rdP p = (rd s a).getLsbD p.toNat) ∧
      Frame.RegisterWord s t [] ((List.range 15).map (BitVec.ofNat 4))) ∧
    (2 ≤ x.toNat → wf (.pmov g d a x) = false) ∧
    WritesScalar (.rdtime g d) s d s.gtc ∧
    WritesScalar (.rdctime g d) s d (me s).ctc ∧
    (∃ t, exec (.nop g) s = .next t ∧ Frame.RegisterWord s t [] [])

/-! ## Predication, branches, control loops, traps -/

namespace Sys2Proof.Claims

/-- The control words that redirect the pc, and LBRK. -/
def isBranch : Instr → Bool
  | .br _ _ => true
  | .call _ _ => true
  | .callr _ _ => true
  | .jmpr _ _ => true
  | .ret _ => true
  | .lbrk _ _ => true
  | _ => false

/-- The pc stands at a target; the loop levels, every register outside ds, every predicate, the CSRs of the control block, memory and the other
executors are as before. -/
structure Redirects (s t : State) (ds : List Reg) (target : W64) : Prop where
  pc : (me t).ctl.pc = target
  loops : (me t).ctl.loops = (me s).ctl.loops
  regs : Frame.regs s t ds
  preds : Frame.preds s t []
  csr : (me t).csr = (me s).csr ∧ (me t).csr2 = (me s).csr2
  elsewhere : Frame.Elsewhere s t

/-- A control word has trapped outside supervisor mode (R393 to R395): EPC names the word, the core is frozen in supervisor mode at TVEC, CAUSE holds
the code, SEQ 0, ASYNC 0 and IRBV, which says whether results are in flight; no register, predicate, loop level or byte of memory has changed. -/
structure Trapped (s t : State) (code : Nat) (tval : W64) : Prop where
  code : bits (me t).csr.cause 7 0 = code % 256
  seq : bits (me t).csr.cause 9 8 = 0
  async : (me t).csr.cause.getLsbD 63 = false
  irbv : (me t).csr.cause.getLsbD 11 = !(inFlightResults (me s).vec).isEmpty
  saved : (me t).csr = { (me s).csr with cause := (me t).csr.cause, epc := (me s).ctl.pc, tseg := (me t).csr.tseg, tpos := (me t).csr.tpos,
                                         tval := tval, sup := true }
  frozen : (me t).frozen = true
  pc : (me t).ctl.pc = (me s).csr.tvec
  loops : (me t).ctl.loops = (me s).ctl.loops
  regs : Frame.regs s t []
  preds : Frame.preds s t []
  elsewhere : Frame.Elsewhere s t

/-- The word completes with its effect. -/
def Completes (i : Instr) (s : State) (effect : State → Prop) : Prop := ∃ t, exec i s = .next t ∧ effect t

/-- Level i is active and its body ends at the pc. -/
def EndsHere (s : State) (i : Fin 4) : Prop := ((me s).ctl.loops.get i).act = true ∧ ((me s).ctl.loops.get i).last = (me s).ctl.pc

/-- Every register and predicate, memory and the other executors are as before; of the loop levels, those outside ls. -/
structure LoopsAlone (s t : State) (ls : List (Fin 4)) : Prop where
  regs : Frame.regs s t []
  preds : Frame.preds s t []
  loops : ∀ i, i ∉ ls → (me t).ctl.loops.get i = (me s).ctl.loops.get i
  elsewhere : Frame.Elsewhere s t

/-- Level lv holds the count, the body of len words after the LOOP word, and is active. -/
def Opened (s t : State) (lv : Fin 4) (len : BitVec 16) (count : W64) : Prop :=
  (me t).ctl.pc = (me s).ctl.pc + 8 ∧ ((me t).ctl.loops.get lv).count = count ∧ ((me t).ctl.loops.get lv).start = (me s).ctl.pc + 8 ∧
    ((me t).ctl.loops.get lv).len = len ∧ ((me t).ctl.loops.get lv).act = true ∧
    ∀ i, i ≠ lv → (me t).ctl.loops.get i = (me s).ctl.loops.get i

end Sys2Proof.Claims

/-- R50, R51: a predicate-false control word that does not wait already retires alone: no register of any kind, slot, scratchpad word, CSR or byte of
memory changes, the debug unit apart, in which a branch word that falls through records its outcome and the end of a loop its snapshot. -/
def Obligations.PredicateFalseWords : Prop :=
  ∀ (s : State) (i : Instr) (w : W64), encode i = .control w → guardOk (me s).ctl (Dec.fG w) = false → (me s).cwait = none →
    Completes i s (fun t => Frame.nextWord s t ∧ Frame.regs s t [] ∧ Frame.preds s t [] ∧ Frame.Elsewhere s t ∧
      (∃ dbg slctl, Frame.Aside { me s with dbg := dbg, csrd := { (me s).csrd with slctl := slctl } } (me t)) ∧
      (isBranch i = false → Frame.RegisterWord s t [] []))

/-- R293: where each branch word goes and what lk receives; CALLR reads its target before lk is written. -/
def Sys2Proof.Claims.BranchWords : Prop :=
  ∀ (s : State) (g : Guard) (d : BitVec 32) (a : Reg), guardOk (me s).ctl g = true →
    (((me s).ctl.pc + d.signExtend 64 * 8).toNat % 8 = 0 →
      Completes (.br g d) s (fun t => Redirects s t [] ((me s).ctl.pc + d.signExtend 64 * 8)) ∧
      Completes (.call g d) s (fun t => rd t 62 = (me s).ctl.pc + 8 ∧ Redirects s t [62] ((me s).ctl.pc + d.signExtend 64 * 8))) ∧
    ((rd s a).toNat % 8 = 0 →
      Completes (.callr g a) s (fun t => rd t 62 = (me s).ctl.pc + 8 ∧ Redirects s t [62] (rd s a)) ∧
      Completes (.jmpr g a) s (fun t => Redirects s t [] (rd s a))) ∧
    ((rd s 62).toNat % 8 = 0 → Completes (.ret g) s (fun t => Redirects s t [] (rd s 62)))

/-- R293, R394: a branch word whose target is no multiple of 8 traps MISALIGN at the branch word, TVAL the target, with lk not written. -/
def Sys2Proof.Claims.BranchMisaligned : Prop :=
  ∀ (s : State) (g : Guard) (d : BitVec 32) (a : Reg), guardOk (me s).ctl g = true → (me s).csr.sup = false →
    (((me s).ctl.pc + d.signExtend 64 * 8).toNat % 8 ≠ 0 → ∀ i ∈ [Instr.br g d, .call g d],
      Completes i s (fun t => Trapped s t 0x02 ((me s).ctl.pc + d.signExtend 64 * 8))) ∧
    ((rd s a).toNat % 8 ≠ 0 → ∀ i ∈ [Instr.callr g a, .jmpr g a], Completes i s (fun t => Trapped s t 0x02 (rd s a))) ∧
    ((rd s 62).toNat % 8 ≠ 0 → Completes (.ret g) s (fun t => Trapped s t 0x02 (rd s 62)))

/-- R294: LOOP opens its level with the count, or skips the body where the count is zero. -/
def Sys2Proof.Claims.LoopOpens : Prop :=
  ∀ (s : State) (g : Guard) (a : Reg) (lv : BitVec 3) (len : BitVec 16) (cnt : BitVec 20), guardOk (me s).ctl g = true →
    nests (me s).ctl (lvl lv) ((me s).ctl.pc + 8 * len.setWidth 64) = true →
    let count := if a = 0 then cnt.setWidth 64 else rd s a
    (count = 0 → Completes (.loop g a lv len cnt) s (fun t =>
      (me t).ctl.pc = (me s).ctl.pc + 8 * len.setWidth 64 + 8 ∧ LoopsAlone s t [])) ∧
    (count ≠ 0 → 0 < len.toNat → (∀ i, i ≠ lvl lv → ¬ EndsHere s i) →
      Completes (.loop g a lv len cnt) s (fun t => Opened s t (lvl lv) len count ∧ LoopsAlone s t [lvl lv]))

/-- R295: the end test, at a word that does not redirect the pc: the level activated last of those whose bodies end at it is tested; with passes left
it counts down and its start follows, and else it ends, the next word following where no other level ends here. -/
def Sys2Proof.Claims.LoopEndTest : Prop :=
  ∀ (s : State) (g : Guard), guardOk (me s).ctl g = true →
    ((∀ i, ¬ EndsHere s i) → Completes (.nop g) s (fun t => (me t).ctl.pc = (me s).ctl.pc + 8 ∧ LoopsAlone s t [])) ∧
    ∀ l, EndsHere s l → (∀ i, i ≠ l → EndsHere s i → ((me s).ctl.loops.get i).order < ((me s).ctl.loops.get l).order) →
      (1 < ((me s).ctl.loops.get l).count.toNat → Completes (.nop g) s (fun t =>
        (me t).ctl.pc = ((me s).ctl.loops.get l).start ∧
        (me t).ctl.loops.get l = { (me s).ctl.loops.get l with count := ((me s).ctl.loops.get l).count - 1 } ∧ LoopsAlone s t [l])) ∧
      (((me s).ctl.loops.get l).count.toNat ≤ 1 → (∀ i, i ≠ l → ¬ EndsHere s i) → Completes (.nop g) s (fun t =>
        (me t).ctl.pc = (me s).ctl.pc + 8 ∧ (me t).ctl.loops.get l = { (me s).ctl.loops.get l with act := false } ∧ LoopsAlone s t [l]))

/-- R297: LBRK leaves an active level, clearing it and the levels activated after it within its body; on an inactive level it falls through. -/
def Sys2Proof.Claims.LoopBreak : Prop :=
  ∀ (s : State) (g : Guard) (lv : BitVec 3), guardOk (me s).ctl g = true →
    (((me s).ctl.loops.get (lvl lv)).act = true → Completes (.lbrk g lv) s (fun t =>
      (me t).ctl.pc = ((me s).ctl.loops.get (lvl lv)).start + 8 * ((me s).ctl.loops.get (lvl lv)).len.setWidth 64 ∧
      (∀ j, (me t).ctl.loops.get j =
        { (me s).ctl.loops.get j with act := ((me s).ctl.loops.get j).act && !brokenBy (me s).ctl (lvl lv) j }) ∧
      Frame.regs s t [] ∧ Frame.preds s t [] ∧ Frame.Elsewhere s t)) ∧
    (((me s).ctl.loops.get (lvl lv)).act = false → Completes (.lbrk g lv) s (fun t =>
      Frame.nextWord s t ∧ Frame.regs s t [] ∧ Frame.preds s t [] ∧ Frame.Elsewhere s t))

/-! ## Scalar memory and atomics -/

namespace Sys2Proof.Claims

/-- The n low bytes of a word, the lowest first. -/
def lowBytes (n : Nat) (v : W64) : List Byte := (List.range n).map (fun i => v.extractLsb' (8 * i) 8)

/-- v holds little-endian bytes, sign-extended or zero-extended. -/
def IsExtended (bs : List Byte) (signed : Bool) (v : W64) : Prop :=
  ∀ i, i < 64 → v.getLsbD i =
    if i < 8 * bs.length then (bs.getD (i / 8) 0).getLsbD (i % 8) else signed && (bs.getD (bs.length - 1) 0).getLsbD 7

/-- The word has issued and awaits its reply p, noted with the loop levels that end at it and its slot (R472): the next word follows, registers and other executors
are as before. -/
structure Awaits (s t : State) (p : Pend) : Prop where
  pend : (me t).pend = some { p with snaps := (loopEnd 4 (me s).ctl (me s).ctl.pc none []).2.map (fun l => (l, (me s).ccycle)) }
  next : Frame.nextWord s t
  regs : Frame.regs s t []
  preds : Frame.preds s t []
  csr : (me t).csr = (me s).csr ∧ (me t).csr2 = (me s).csr2
  spad : (me t).spad = (me s).spad

/-- The reply p has brought v: the destination alone is written and nothing is awaited. -/
structure Replied (s t : State) (d : Reg) (v : W64) : Prop where
  value : rd t d = if d = 0 then 0 else v
  pend : (me t).pend = none
  regs : Frame.regs s t [d]
  preds : Frame.preds s t []
  pc : (me t).ctl.pc = (me s).ctl.pc
  spad : (me t).spad = (me s).spad
  memory : Frame.memory s t

/-- Nothing but this executor changes, and memory is as translation left it. -/
def OwnCore (s s' t : State) : Prop := t.ms = s'.ms ∧ t.launches = s.launches ∧ t.gtc = s.gtc ∧ t.dev = s.dev

/-- A control word's own part of a word that completes with registers alone. -/
structure Plain (s t : State) : Prop where
  next : Frame.nextWord s t
  regs : Frame.regs s t []
  preds : Frame.preds s t []
  csr : (me t).csr = (me s).csr ∧ (me t).csr2 = (me s).csr2

/-- The entry that a translation reads last: that of the TLB entry that hits, or of the walk. -/
def entryAt (s : State) (va : W64) (acc : Acc) (sq : Seq) : Option Nat :=
  match ((me s).tlb ++ tblGet [] s.ms.dieTlb (dieOf s.ex.val)).find? (tlbHit (me s).run.inst.ctx va) with
  | some t => some t.loc
  | none => (match walk s.ms va acc sq 3 1 (bits (me s).csr2.ptroot 50 16 * 65536) with | .ok r => some r.2.2.1 | .error _ => none)

/-- The words of the atomics with their numbers in a request; the last two use C. -/
def atomicWords (c : Reg) (f : AtomF) : List ((Guard → Reg → Reg → Reg → Instr) × Nat × Reg) :=
  [(fun g d a b => .aadd g d a b f, 0, 0), (fun g d a b => .amin g d a b f, 1, 0), (fun g d a b => .amax g d a b f, 2, 0),
   (fun g d a b => .aminu g d a b f, 3, 0), (fun g d a b => .amaxu g d a b f, 4, 0), (fun g d a b => .aand g d a b f, 5, 0),
   (fun g d a b => .aor g d a b f, 6, 0), (fun g d a b => .axor g d a b f, 7, 0), (fun g d a b => .axchg g d a b f, 8, 0),
   (fun g d a b => .acas g d a b c f, 9, c), (fun g d a b => .afadd g d a b f, 10, 0), (fun g d a b => .aincb g d a b c f, 11, c)]

/-- The new value of each atomic but AFADD, on the old value x and the operands b and c at the size of the access. -/
def atomicValues : List (Nat × (∀ {n : Nat}, BitVec n → BitVec n → BitVec n → BitVec n)) :=
  [(0, fun x b _ => x + b), (1, fun x b _ => if b.toInt < x.toInt then b else x), (2, fun x b _ => if x.toInt < b.toInt then b else x),
   (3, fun x b _ => if b.toNat < x.toNat then b else x), (4, fun x b _ => if x.toNat < b.toNat then b else x), (5, fun x b _ => x &&& b),
   (6, fun x b _ => x ||| b), (7, fun x b _ => x ^^^ b), (8, fun _ b _ => b), (9, fun x b c => if x = c then b else x),
   (11, fun x b c => if x.toNat < c.toNat then x + b else x)]

/-- The slice has served an atomic: the bytes at the word are the new value's and no other byte changes, and the reply is the old value,
zero-extended. -/
structure Served (s t : State) (r : Req) (p : Pend) (acq : Bool) (n : Nat) (old new : W64) : Prop where
  pend : (me t).pend = some { p with kind := .value old acq }
  word : ∀ i, i < n → Frame.byteAt t (r.pa + i) = new.extractLsb' (8 * i) 8
  memory : Frame.memoryBut s t r.pa n
  reqs : (me t).reqs = (me s).reqs.filter (fun x => x.id != r.id)
  ctl : (me t).ctl = (me s).ctl

/-- Byte i of a request's data is left out: by the request, or of a copy's because a command that reached its sector later has written it (R177). -/
def leftOut (s : State) (r : Req) (i : Nat) : Bool :=
  r.holes.any (fun e => decide (e.1 ≤ i) && decide (i < e.1 + e.2)) || (r.isCopy && supersededAt s r i)

/-- The word awaited is the atomic of request r, which may be served at once. -/
def AtomicDue (s : State) (r : Req) (p : Pend) (acq : Bool) : Prop :=
  (me s).reqs.find? (fun x => x.id == s.choice.n) = some r ∧ serviceable s r = true ∧ (me s).pend = some p ∧ p.kind = .atomic r.id acq

end Sys2Proof.Claims

/-- R148: a translation that succeeds changes at most the 8 bytes of the entry that it used. -/
def Obligations.TranslationTouchesEntryAlone : Prop :=
  ∀ (s s' : State) (va : W64) (acc : Acc) (sq : Seq) (x : Xl), Frame.LinesWhole s.ms → translate s va acc sq = (.ok x, s') →
    ∃ e, entryAt s va acc sq = some e ∧ (pa50 e + 8 ≤ 2 ^ 51 → Frame.memoryBut s s' e 8) ∧
      Frame.regs s s' [] ∧ (me s').ctl = (me s).ctl ∧ (me s').spad = (me s).spad ∧ (me s').reqs = (me s).reqs

/-- R292, R472: LD and LDU issue: an aligned address in the scratchpad window is not translated, and any other is; the word then awaits its reply. -/
def Sys2Proof.Claims.LoadWordsIssue : Prop :=
  ∀ (s : State) (g : Guard) (d a : Reg) (f : MemF), guardOk (me s).ctl g = true →
    let va := rd s a + f.off.signExtend 64
    let n := 2 ^ f.sz.toNat
    va.toNat % n = 0 → ∀ e ∈ [(Instr.ld g d a f, true), (.ldu g d a f, false)],
      (inWindow (me s) va = true → Completes e.1 s (fun t =>
        Awaits s t ⟨.load (va - spwinBase (me s)).toNat n e.2 (f.ord == 1) false true, d, va, (me s).ctl, []⟩ ∧ OwnCore s s t)) ∧
      (inWindow (me s) va = false → ∀ x s', translate s va .read .control = (.ok x, s') → Completes e.1 s (fun t =>
        Awaits s t ⟨.load x.pa n e.2 (f.ord == 1) (x.ord == 0) false, d, va, (me s).ctl, []⟩ ∧ OwnCore s s' t))

/-- R292, R472, R235: the reply of a load: the bytes of the scratchpad, of an L1 line within its lease, or as the owning slice reads them, extended as
the word says, in s[D] alone. -/
def Sys2Proof.Claims.LoadReplies : Prop :=
  ∀ (s : State) (p : Pend) (pa n : Nat) (signed acq so : Bool), (me s).pend = some p → n ∈ [1, 2, 4, 8] →
    (p.kind = .load pa n signed acq so true → loadReady s pa n so true = true → spPoison (me s) pa n = false →
      Completes .loadReply s (fun t => ∃ v, IsExtended ((List.range n).map (fun i => spByte (me s) ((pa + i) % 2097152))) signed v ∧ Replied s t p.d v)) ∧
    (p.kind = .load pa n signed acq so false → ∀ l, l1Hit s .control pa n acq so = some l → l.data.length = 128 → pa % n = 0 → marked l.poison (pa % 128) n = false →
      Completes .loadReply s (fun t => ∃ v, IsExtended ((l.data.drop (pa % 128)).take n) signed v ∧ Replied s t p.d v)) ∧
    (p.kind = .load pa n signed acq so false → l1Hit s .control pa n acq so = none → loadReady s pa n so false = true → pa % n = 0 →
      Frame.LinesWhole s.ms → slicePoison (sliceTouch s.ms pa n) pa n = false →
      Completes .loadReply s (fun t => ∃ v, IsExtended ((List.range n).map (fun i => Frame.byteAt s (pa + i))) signed v ∧ Replied s t p.d v)) ∧
    (∀ v, p.kind = .value v acq → Completes .loadReply s (fun t => Replied s t p.d v))

/-- R472, R395: a POISON reply traps at the word that awaited it: every register is as it was before that word, EPC names it, and TVAL is its address. -/
def Sys2Proof.Claims.PoisonReply : Prop :=
  ∀ (s : State) (p : Pend), (me s).pend = some p → p.kind = .poisoned → (me s).csr.sup = false →
    Completes .loadReply s (fun t => bits (me t).csr.cause 7 0 = 0x07 ∧ (me t).csr.epc = p.saved.pc ∧ (me t).csr.tval = p.va ∧
      (me t).csr.sup = true ∧ (me t).ctl.pc = (me s).csr.tvec ∧ (∀ r, rd t r = p.saved.rd r) ∧ (∀ q, (me t).ctl.rdP q = p.saved.rdP q) ∧
      (me t).ctl.loops = p.saved.loops ∧ (me t).pend = none ∧ Frame.Elsewhere s t)

/-- R292, R353: ST sends its bytes: to the scratchpad bank in the window; outside it, on a UO page without release, to the write-combining buffer, and
else towards the owning slice. -/
def Sys2Proof.Claims.StoreWordIssues : Prop :=
  ∀ (s : State) (g : Guard) (a b : Reg) (f : MemF), guardOk (me s).ctl g = true →
    let va := rd s a + f.off.signExtend 64
    let n := 2 ^ f.sz.toNat
    va.toNat % n = 0 →
      (inWindow (me s) va = true → Completes (.st g a b f) s (fun t =>
        (∃ r ∈ (me t).reqs, r.kind = .store (lowBytes n (rd s b)) ∧ r.pa = (va - spwinBase (me s)).toNat ∧ r.spad = some s.ex.val ∧
          r.rel = (f.ord == 2) ∧ r.scope = f.scope) ∧ Plain s t ∧ (me t).spad = (me s).spad ∧ t.ms = s.ms)) ∧
      (inWindow (me s) va = false → ∀ x s', translate s va .write .control = (.ok x, s') → Completes (.st g a b f) s (fun t =>
        (if x.ord = 2 ∧ f.ord ≠ 2 then ∃ w ∈ (me t).wc, w.pa = x.pa ∧ w.data = lowBytes n (rd s b) ∧ w.sq = .control
         else ∃ r ∈ (me t).reqs, r.kind = .store (lowBytes n (rd s b)) ∧ r.pa = x.pa ∧ r.spad = none ∧ r.rel = (f.ord == 2) ∧ r.scope = f.scope ∧
          r.so = (x.ord == 0)) ∧ Plain s t ∧ (me t).spad = (me s).spad ∧ t.ms = s'.ms))

/-- R163, R226, R177: the service of a store: its bytes but those that a copy's request leaves out, or a command that reached the sector later has written, are written, in memory or in a scratchpad whose tags
stay, and no other byte changes. -/
def Sys2Proof.Claims.StoreServed : Prop :=
  ∀ (s : State) (r : Req) (d : List Byte), (me s).reqs.find? (fun x => x.id == s.choice.n) = some r → serviceable s r = true →
    r.kind = .store d → r.marks = [] → r.side = [] → r.holes.Pairwise (fun a b => a.1 + a.2 ≤ b.1) → r.split s.choice.k = none →
    (r.spad = none → Frame.LinesWhole s.ms → pa50 r.pa + d.length ≤ 2 ^ 51 → Completes .sliceServiceEvent s (fun t =>
      (∀ i, i < d.length → Frame.byteAt t (r.pa + i) = if leftOut s r i then Frame.byteAt s (r.pa + i) else d.getD i 0) ∧
      Frame.memoryBut s t r.pa d.length ∧
      (me t).ctl = (me s).ctl ∧ (me t).spad = (me s).spad ∧ (me t).reqs = (me s).reqs.filter (fun x => x.id != r.id))) ∧
    (∀ n, r.spad = some n → n < 288 → r.tag = false → r.pa + d.length ≤ 2097152 → Completes .sliceServiceEvent s (fun t =>
      (∀ i, i < d.length → spByte (coreAt t n) (r.pa + i) = if leftOut s r i then spByte (coreAt s n) (r.pa + i) else d.getD i 0) ∧
      (∀ a, a < 2097152 → (a < r.pa ∨ r.pa + d.length ≤ a) → spByte (coreAt t n) a = spByte (coreAt s n) a) ∧
      (∀ w, spTag (coreAt t n) w = spTag (coreAt s n) w) ∧ t.ms = s.ms ∧ (me t).ctl = (me s).ctl))

/-- R226, R349: a store of several units to memory may be served in part, at the end of a 32-byte sector: the bytes of the first sectors are written and
no other, and the rest stays as the request. -/
def Sys2Proof.Claims.StoreServedInPart : Prop :=
  ∀ (s : State) (r : Req) (d : List Byte), (me s).reqs.find? (fun x => x.id == s.choice.n) = some r → serviceable s r = true →
    r.kind = .store d → r.marks = [] → r.side = [] → r.holes = [] → r.spad = none → let k := s.choice.k
    0 < k → k < d.length → (r.pa + k) % 32 = 0 → Frame.LinesWhole s.ms → pa50 r.pa + d.length ≤ 2 ^ 51 → Completes .sliceServiceEvent s (fun t =>
      (∀ i, i < k → Frame.byteAt t (r.pa + i) = if leftOut s r i then Frame.byteAt s (r.pa + i) else d.getD i 0) ∧ Frame.memoryBut s t r.pa k ∧
      (∃ q ∈ (me t).reqs, q = { r with pa := r.pa + k, kind := .store (d.drop k) }) ∧ (me t).ctl = (me s).ctl ∧ (me t).spad = (me s).spad)

/-- R353, R348: the entries of a sequencer leave the write-combining buffer as requests; an acknowledgement of a host write is taken. -/
def Sys2Proof.Claims.WriteCombiningLeaves : Prop :=
  ∀ s : State,
    Completes .wcFlush s (fun t => (∀ w ∈ (me s).wc, w.sq = s.choice.sq →
        ∃ r ∈ (me t).reqs, r.id = w.id ∧ r.pa = w.pa ∧ r.kind = .store w.data ∧ r.sq = w.sq) ∧
      (∀ w, w ∈ (me t).wc ↔ w ∈ (me s).wc ∧ w.sq ≠ s.choice.sq) ∧ (me t).ctl = (me s).ctl ∧ Frame.Elsewhere s t) ∧
    Completes .hostWriteAcknowledgement s (fun t => t = { s with acks := t.acks } ∧ ∀ a, a ∈ t.acks ↔ a ∈ s.acks ∧ a.id ≠ s.choice.n)

/-- R162: each atomic issues its request: operands, size, release; it then awaits its reply. -/
def Sys2Proof.Claims.AtomicWordsIssue : Prop :=
  ∀ (s s' : State) (g : Guard) (d a b c : Reg) (f : AtomF) (x : Xl), guardOk (me s).ctl g = true →
    let va := rd s a + f.off.signExtend 64
    let n := 2 ^ f.sz.toNat
    va.toNat % n = 0 → inWindow (me s) va = false → translate s va .atomic .control = (.ok x, s') →
      ∀ e ∈ atomicWords c f, Completes (e.1 g d a b) s (fun t =>
        Awaits s t ⟨.atomic s'.nextId (f.ord == 1 || f.ord == 3), d, va, (me s).ctl, []⟩ ∧
        (∃ r ∈ (me t).reqs, r.id = s'.nextId ∧ r.pa = x.pa ∧ r.spad = none ∧ r.kind = .atomic e.2.1 n (rd s b) (rd s e.2.2) ∧
          r.rel = (f.ord == 2 || f.ord == 3)) ∧ t.ms = s'.ms)

/-- R162, R163, R165: the service of an atomic, where the atomic order log has room, one event: the new value of the table at 4 or 8 bytes, the old one as the reply. -/
def Sys2Proof.Claims.AtomicServed : Prop :=
  ∀ (s : State) (r : Req) (p : Pend) (acq : Bool) (b c : W64), AtomicDue s r p acq → logRoom s r = true → Frame.LinesWhole s.ms →
    (r.pa % 8 = 0 → slicePoison s.ms r.pa 8 = false → ∀ e ∈ atomicValues, r.kind = .atomic e.1 8 b c →
      ∀ old : W64, (∀ i, i < 8 → Frame.byteAt s (r.pa + i) = old.extractLsb' (8 * i) 8) →
        Completes .sliceServiceEvent s (fun t => Served s t r p acq 8 old (e.2 old b c))) ∧
    (r.pa % 4 = 0 → slicePoison s.ms r.pa 4 = false → ∀ old : W32, (∀ i, i < 4 → Frame.byteAt s (r.pa + i) = old.extractLsb' (8 * i) 8) →
      (∀ e ∈ atomicValues, r.kind = .atomic e.1 4 b c → Completes .sliceServiceEvent s (fun t =>
        Served s t r p acq 4 (old.setWidth 64) ((e.2 old (b.setWidth 32) (c.setWidth 32)).setWidth 64))) ∧
      (r.kind = .atomic 10 4 b c → Completes .sliceServiceEvent s (fun t =>
        Served s t r p acq 4 (old.setWidth 64) ((f32Add old (b.setWidth 32)).setWidth 64))))

/-! ## Waits: tags, fences, barriers, queues -/

namespace Sys2Proof.Claims

/-- The word is not in a wait already, and no gang of its launch has aborted. -/
def Fresh (s : State) : Prop := (me s).cwait = none ∧ gangAborted s (me s) = false

/-- The word has completed with a status: the next word follows, TOCNT is zero, nothing waits, and the registers outside ds are as before. -/
structure Finished (s t : State) (d : Reg) (code : Nat) (ds : List Reg) : Prop where
  status : rd t d = if d = 0 then 0 else BitVec.ofNat 64 code
  tocnt : (me t).csr = { (me s).csr with tocnt := 0 }
  wait : (me t).cwait = none
  next : Frame.nextWord s t
  regs : Frame.regs s t (d :: ds)
  preds : Frame.preds s t []

/-- The word has completed at once with a status, without waiting; TOCNT stays. -/
structure Ended (s t : State) (d : Reg) (code : Nat) (ds : List Reg) : Prop where
  status : rd t d = if d = 0 then 0 else BitVec.ofNat 64 code
  csr : (me t).csr = (me s).csr
  next : Frame.nextWord s t
  regs : Frame.regs s t (d :: ds)
  preds : Frame.preds s t []

/-- The scratchpad word at an aligned window address, no earlier store to it on its way and no other waiter at it. -/
def TagReady (s : State) (va : W64) (w : Nat) : Prop :=
  inWindow (me s) va = true ∧ va.toNat % 8 = 0 ∧ w = (va - spwinBase (me s)).toNat / 8 ∧ tagBlocked s (8 * w) = false ∧ (me s).spad.waiters = []

/-- Scratchpad word w is as given, tag and contents, and every other word as before. -/
def TagsAlone (s t : State) (w : Nat) (v : W64) (full : Bool) : Prop :=
  spWord (me t) w = v ∧ spTag (me t) w = full ∧ (∀ u, u % 262144 ≠ w → spWord (me t) u = spWord (me s) u ∧ spTag (me t) u = spTag (me s) u)

/-- Nothing of the core's counted operations is outstanding that a FENCE of these operands would wait for, and at SYSTEM scope no write that it drains. -/
def NothingOut (s : State) (eng : Bool) (scope : BitVec 3) : Prop :=
  controlIds (me s) = [] ∧ (eng = true → allIds (me s) = []) ∧ (scope = 4 → ackIds s eng = [] ∧ fenceDrains (wcFlushAll s) = [])

/-- Barrier bar has a configuration at a scope narrower than SYSTEM, and the control sequencer's earlier writes have been served. -/
def BarReady (s : State) (bar : Nat) (cfg : BarCfg) : Prop :=
  barCfgOf s bar = some cfg ∧ cfg.scope ≠ 4 ∧ controlStores (me s) = []

/-- Of every barrier's object and every barrier's local part, those of bar alone may have changed. -/
def BarAlone (s t : State) (bar : Nat) (cfg : BarCfg) : Prop :=
  t.barCfg = s.barCfg ∧ (∀ k, k ≠ objKey (barKey s bar) cfg.scope s.ex.val → tblGet {} t.barObj k = tblGet {} s.barObj k) ∧
    (∀ k, k ≠ bar → tblGet {} (me t).sync.bars k = tblGet {} (me s).sync.bars k) ∧ t.ms = s.ms

/-- The header at an address of a queue word, with the state after its translations: writable and readable, not in the window, no earlier write of the
sequencer to it on its way, not poisoned, well formed. -/
def HeaderReady (s s' : State) (va : W64) (x : Xl) (h : List Byte) : Prop :=
  queueAddr s va 64 = (.ok x, s') ∧ ownPending s' .control { pa := x.pa, kind := .store (zeros 64) } = false ∧ Frame.LinesWhole s'.ms ∧
    slicePoison (sliceTouch s'.ms x.pa 64) x.pa 64 = false ∧ h = (List.range 64).map (fun i => Frame.byteAt s' (x.pa + i)) ∧
    qMalformed x.pa h = false ∧ 0 < qCap h

end Sys2Proof.Claims

/-- R230, R227: LDFW, LDFE and STEF on a word whose tag lets them: the word read and the tag left full or emptied, or the word written and its tag
filled; OK. -/
def Sys2Proof.Claims.TaggedWordsServed : Prop :=
  ∀ (s : State) (g : Guard) (d a b c : Reg) (e : Bool) (off : BitVec 12) (w : Nat), guardOk (me s).ctl g = true → Fresh s →
    TagReady s (rd s a + off.signExtend 64) w → tblGet false (me s).spad.poison w = false →
    (spTag (me s) w = true → d ≠ b → Completes (.ldfw g d a b c e off) s (fun t =>
      Finished s t b 0 [d] ∧ rd t d = (if d = 0 then 0 else spWord (me s) w) ∧ TagsAlone s t w (spWord (me s) w) true ∧ t.ms = s.ms)) ∧
    (spTag (me s) w = true → d ≠ b → Completes (.ldfe g d a b c e off) s (fun t =>
      Finished s t b 0 [d] ∧ rd t d = (if d = 0 then 0 else spWord (me s) w) ∧ TagsAlone s t w (spWord (me s) w) false ∧ t.ms = s.ms)) ∧
    (spTag (me s) w = false → Completes (.stef g d a b c e off) s (fun t =>
      Finished s t d 0 [] ∧ TagsAlone s t w (rd s b) true ∧ t.ms = s.ms))

/-- R230: STFF fills the word and its tag, PURGE empties the tag, TAGRD reads it, none of them waiting. -/
def Sys2Proof.Claims.TaggedWordsThatNeverWait : Prop :=
  ∀ (s : State) (g : Guard) (d a b : Reg) (off : BitVec 12) (w : Nat), guardOk (me s).ctl g = true →
    TagReady s (rd s a + off.signExtend 64) w →
    Completes (.stff g a b off) s (fun t => Plain s t ∧ TagsAlone s t w (rd s b) true ∧ t.ms = s.ms) ∧
    Completes (.purge g a off) s (fun t => Plain s t ∧ TagsAlone s t w (spWord (me s) w) false ∧ t.ms = s.ms) ∧
    (d ≠ b → Completes (.tagrd g d a b off) s (fun t => rd t d = (if d = 0 then 0 else if spTag (me s) w then 1 else 0) ∧ rd t b = 0 ∧
      Frame.RegisterWord s t [d, b] []))

/-- R341, R342: FENCE with nothing left to wait for and WAITC at its thresholds end OK; a FENCE wider than CORE drops the L1. -/
def Sys2Proof.Claims.FenceAndCountWaits : Prop :=
  ∀ (s : State) (g : Guard) (d b c : Reg) (e eng : Bool) (scope ld st cp tl : BitVec 3), guardOk (me s).ctl g = true → Fresh s →
    (NothingOut s eng scope → Completes (.fence g d b c e scope eng) s (fun t =>
      Finished s t d 0 [b] ∧ rd t b = 0 ∧ (scope ≠ 0 → (me t).l1 = []) ∧ t.ms = s.ms)) ∧
    (waitcCond (me s) ld st cp tl = true → Completes (.waitc g d c e ld st cp tl) s (fun t => Finished s t d 0 [] ∧ Frame.Elsewhere s t))

/-- R317, R319: a WAITC in its wait whose condition does not hold: it stays before its deadline, and in the deadline's tick until that tick ends; after
it, a poll ends TIMEOUT and counts nothing; any other expiry ends TIMEOUT with TOCNT one higher, or traps DEADLINE with TOCNT zero where E is set or the
count reaches TOESC. -/
def Sys2Proof.Claims.WaitOutcomes : Prop :=
  ∀ (s : State) (g : Guard) (d c : Reg) (e : Bool) (ld st cp tl : BitVec 3) (w : CWait), guardOk (me s).ctl g = true →
    (me s).cwait = some w → w.kind = .waitc ld st cp tl → w.e = e → gangAborted s (me s) = false → waitcCond (me s) ld st cp tl = false →
    (((me s).ctc - w.t0).toNat < w.dl ∨ (w.poll = false ∧ s.closing = false) → exec (.waitc g d c e ld st cp tl) s = .next s) ∧
    (w.dl ≤ ((me s).ctc - w.t0).toNat →
      (w.poll = true → Completes (.waitc g d c e ld st cp tl) s (fun t => Ended s t d 1 [] ∧ (me t).cwait = none)) ∧
      (w.poll = false → s.closing = true → e = false → escalates (me s) = false → Completes (.waitc g d c e ld st cp tl) s (fun t =>
        rd t d = (if d = 0 then 0 else 1) ∧ (me t).csr = { (me s).csr with tocnt := (me s).csr.tocnt + 1 } ∧ (me t).cwait = none ∧
        Frame.nextWord s t ∧ Frame.regs s t [d] ∧ Frame.preds s t [])) ∧
      (w.poll = false → s.closing = true → (e = true ∨ escalates (me s) = true) → (me s).csr.sup = false → Completes (.waitc g d c e ld st cp tl) s (fun t =>
        bits (me t).csr.cause 7 0 = 0x06 ∧ (me t).csr.epc = (me s).ctl.pc ∧ (me t).csr.tocnt = 0 ∧ (me t).csr.sup = true ∧
        (me t).ctl.pc = (me s).csr.tvec ∧ (me t).cwait = none ∧ Frame.regs s t [] ∧ Frame.preds s t [] ∧ Frame.Elsewhere s t)))

/-- R333 to R335: configuring a barrier; an arrival, which completes the phase where it is the last; observing a completed phase, by BWAIT or at
once by BSYNC; withdrawing. -/
def Obligations.BarrierWords : Prop :=
  ∀ (s : State) (g : Guard) (d b c : Reg) (e : Bool) (bar : BitVec 10) (cfg : BarCfg), guardOk (me s).ctl g = true →
    let o := barObj s bar.toNat cfg
    let l := barLoc s bar.toNat
    (bits (rd s b) 63 19 = 0 → bits (rd s b) 15 9 = 0 → bits (rd s b) 18 16 ≤ 3 → 0 < bits (rd s b) 8 0 → bits (rd s b) 8 0 ≤ 288 →
      barBusy s (barKey s bar.toNat) = false → Completes (.bcfg g d b bar) s (fun t => Ended s t d 0 [] ∧
        barCfgOf t bar.toNat = some ⟨BitVec.ofNat 3 (bits (rd s b) 18 16), bits (rd s b) 8 0⟩ ∧
        (∀ k, k ≠ barKey s bar.toNat → tblGet none t.barCfg k = tblGet none s.barCfg k) ∧ t.barObj = s.barObj ∧ t.ms = s.ms)) ∧
    (BarReady s bar.toNat cfg → (l.arr = false ∨ l.ph ≠ o.parity) →
      Completes (.barr g d bar) s (fun t => Ended s t d 0 [] ∧ barLoc t bar.toNat = ⟨true, countingUnit cfg.scope s.ex.val, o.parity⟩ ∧
        barObj t bar.toNat cfg = (if cfg.count ≤ o.count + 1 then ⟨0, !o.parity⟩ else ⟨o.count + 1, o.parity⟩) ∧ BarAlone s t bar.toNat cfg) ∧
      (Fresh s → cfg.count ≤ o.count + 1 → Completes (.bsync g d c e bar) s (fun t => Finished s t d 0 [] ∧
        barLoc t bar.toNat = ⟨false, countingUnit cfg.scope s.ex.val, o.parity⟩ ∧ barObj t bar.toNat cfg = ⟨0, !o.parity⟩ ∧ BarAlone s t bar.toNat cfg))) ∧
    (barCfgOf s bar.toNat = some cfg → l.arr = true →
      (Fresh s → l.ph ≠ o.parity → Completes (.bwait g d c e bar) s (fun t => Finished s t d 0 [] ∧
        barLoc t bar.toNat = ⟨false, l.unit, l.ph⟩ ∧ barObj t bar.toNat cfg = o ∧ BarAlone s t bar.toNat cfg)) ∧
      (l.ph = o.parity → Completes (.bwdr g d bar) s (fun t => Ended s t d 0 [] ∧
        (barLoc t bar.toNat).arr = false ∧ barObj t bar.toNat cfg = { o with count := o.count - 1 } ∧ BarAlone s t bar.toNat cfg)))

/-- R337: WAITQ on a word that holds another value ends OK at once; on an equal one it joins the tail of the word's queue and waits. WAKE takes the
first waiters off, at most as many as it names, and says how many. -/
def Sys2Proof.Claims.WordQueues : Prop :=
  ∀ (s s' : State) (g : Guard) (d a b c : Reg) (e sz : Bool) (off : BitVec 12) (scope : BitVec 3) (x : Xl), guardOk (me s).ctl g = true →
    let n := if sz then 8 else 4
    queueAddr s (rd s a + off.signExtend 64) n = (.ok x, s') → Frame.LinesWhole s'.ms →
    (Fresh s → ownPending s' .control { pa := x.pa, kind := .store (zeros n) } = false → slicePoison (sliceTouch s'.ms x.pa n) x.pa n = false →
      ((∃ i, i < n ∧ Frame.byteAt s' (x.pa + i) ≠ (rd s b).extractLsb' (8 * i) 8) →
        Completes (.waitq g d a b c e off sz scope) s (fun t => Ended s t d 0 [] ∧ Frame.memory s' t ∧ t.wq = s.wq)) ∧
      ((∀ i, i < n → Frame.byteAt s' (x.pa + i) = (rd s b).extractLsb' (8 * i) 8) → 0 < min (bits (rd s c) 31 0) (me s).csr.dlmax.toNat → (me s).remain = none →
        Completes (.waitq g d a b c e off sz scope) s (fun t => tblGet [] t.wq (pa50 x.pa) = tblGet [] s.wq (pa50 x.pa) ++ [(s.ex.val, s'.nextId)] ∧
          (me t).ctl = (me s).ctl ∧ (∃ w, (me t).cwait = some w ∧ w.dl = min (bits (rd s c) 31 0) (me s).csr.dlmax.toNat ∧ w.t0 = (me s).ctc) ∧
          Frame.memory s' t))) ∧
    (controlStores (me s) = [] → scope ≠ 4 → Completes (.wake g d a b off sz scope) s (fun t =>
      rd t d = (if d = 0 then 0 else BitVec.ofNat 64 (min (bits (rd s b) 31 0) (tblGet [] s.wq (pa50 x.pa)).length)) ∧
      tblGet [] t.wq (pa50 x.pa) = (tblGet [] s.wq (pa50 x.pa)).drop (bits (rd s b) 31 0) ∧
      (∀ k, k ≠ pa50 x.pa → tblGet [] t.wq k = tblGet [] s.wq k) ∧ Frame.memory s' t ∧ Frame.nextWord s t ∧ Frame.regs s t [d] ∧ Frame.preds s t []))

/-- R338, R339: QSEND to a queue with room and no earlier sender writes the message at TAIL and advances it; QRECV from one with a message and no
earlier receiver takes the message at HEAD and advances it. Every byte outside the header and the slot is as translation left it. -/
def Sys2Proof.Claims.MessageQueues : Prop :=
  ∀ (s s' : State) (g : Guard) (d a b c : Reg) (e : Bool) (off : BitVec 12) (scope : BitVec 3) (x : Xl) (h : List Byte), guardOk (me s).ctl g = true →
    Fresh s → HeaderReady s s' (rd s a + off.signExtend 64) x h →
    (controlStores (me s) = [] → scope ≠ 4 → tblGet [] s.sendq (pa50 x.pa) = [] → (qTail h - qHead h).toNat < qCap h →
      Completes (.qsend g d a b c e off scope) s (fun t => Finished s t d 0 [] ∧
        (∀ i, i < 8 → Frame.byteAt t (qSlot x.pa h (qTail h) + i) = (rd s b).extractLsb' (8 * i) 8) ∧
        (∀ i, i < 8 → Frame.byteAt t (x.pa + 16 + i) = (qTail h + 1).extractLsb' (8 * i) 8) ∧
        (∀ p, (pa50 p < pa50 x.pa + 16 ∨ pa50 x.pa + 24 ≤ pa50 p) → (pa50 p < pa50 (qSlot x.pa h (qTail h)) ∨ pa50 (qSlot x.pa h (qTail h)) + 8 ≤ pa50 p) →
          Frame.byteAt t p = Frame.byteAt s' p))) ∧
    (tblGet [] s.recvq (pa50 x.pa) = [] → (qHead h).toNat < (qTail h).toNat → d ≠ b →
      slicePoison (sliceTouch s'.ms x.pa 64) (qSlot x.pa h (qHead h)) 8 = false →
      Completes (.qrecv g d a b c e off scope) s (fun t => Finished s t b 0 [d] ∧
        (∀ i, i < 8 → d ≠ 0 → (rd t d).extractLsb' (8 * i) 8 = Frame.byteAt s' (qSlot x.pa h (qHead h) + i)) ∧
        (∀ i, i < 8 → Frame.byteAt t (x.pa + 8 + i) = (qHead h + 1).extractLsb' (8 * i) 8) ∧
        (∀ p, (pa50 p < pa50 x.pa + 8 ∨ pa50 x.pa + 16 ≤ pa50 p) → Frame.byteAt t p = Frame.byteAt s' p)))

/-! ## Event counters, rules, engine queues, streams -/

namespace Sys2Proof.Claims

/-- Flag fl has the count v and the promise p, every other flag is as before, and nothing else of the synchronisation state has changed. -/
structure FlagAlone (s t : State) (fl : BitVec 6) (v p : Nat) : Prop where
  count : (flagV (me t) fl).toNat = v
  promise : (flagP (me t) fl).toNat = p
  others : ∀ f, f ≠ fl → flagV (me t) f = flagV (me s) f ∧ flagP (me t) f = flagP (me s) f
  rest : (me t).sync = { (me s).sync with v := (me t).sync.v, p := (me t).sync.p }
  memory : t.ms = s.ms

/-- Nothing of the synchronisation state has changed but the counts and promises, which are those of c, and the rules, of which rule n is r. -/
structure RuleAlone (s t : State) (c : Core) (n : Nat) (r : Rule) : Prop where
  rule : ruleOf (me t) n = r
  rules : ∀ k, k ≠ n → ruleOf (me t) k = ruleOf (me s) k
  counts : (me t).sync = { (me s).sync with v := c.sync.v, p := c.sync.p, rules := (me t).sync.rules }

/-- The engines with queues. -/
def engineList : List (Nat × Seq) := [(0, .copy), (1, .matrix), (2, .vector)]

/-- Every command of the list stands at the tail of its engine's queue, and nothing else of the synchronisation state has changed but the counts and
promises, which are those of c, and the groups. -/
structure Pushed (s t : State) (c : Core) (cmds : List (Nat × Cmd)) (groups : List Group) : Prop where
  queues : ∀ e ∈ engineList, queueOf (me t) e.2 = queueOf (me s) e.2 ++ (cmds.filter (fun x => x.1 == e.1)).map (fun x => x.2)
  groups : (me t).sync.groups = groups
  counts : (me t).sync.v = c.sync.v ∧ (me t).sync.p = c.sync.p
  rest : (me t).sync.rules = (me s).sync.rules ∧ (me t).sync.bars = (me s).sync.bars ∧ (me t).sync.kq = (me s).sync.kq

/-- A push of the commands passes its checks and finds room, with every earlier write of the sequencer served. -/
def PushReady (s : State) (cmds : List (Nat × Cmd)) (c : Core) : Prop :=
  chargeAll cmds (me s) = .ok c ∧ pushRoom (me s) cmds = true ∧ controlStores (me s) = []

/-- A run block has been read and gives the RUN commands of a mask. -/
def RunBlock (s s' : State) (va : W64) (mask : BitVec 3) (cmds : List (Nat × Cmd)) : Prop :=
  va.toNat % 8 = 0 ∧ ∃ rb, plainRead .control 4 s va = (.ok rb, s') ∧ runCmds (me s') (curWord s') mask rb = .ok cmds

/-- The commands of a FORK carry its group. -/
def inGroup (num : Nat) (cmds : List (Nat × Cmd)) : List (Nat × Cmd) :=
  cmds.map (fun x => (x.1, match x.2 with | .run sg p _ => .run sg p (some num) | y => y))

/-- The engine with its next command off its queue; of the executor's control registers and of memory nothing changes. -/
structure Dequeued (s t : State) (sq : Seq) : Prop where
  queue : queueOf (me t) sq = (queueOf (me s) sq).tail
  stamp : (engOf (me t) sq).lastDeq = some s.gtc
  ctl : (me t).ctl = (me s).ctl
  memory : t.ms = s.ms

end Sys2Proof.Claims

/-- R322, R323, R328, R329: EWAIT on a count that is there consumes it with its claim, a claim beyond the promises traps FORWARD_WAIT, a count of
zero ends OK; EADD promises and, with every earlier write served, adds, a promise past 2^32 − 1 trapping ILLEGAL; a poisoned counter traps POISON in
both (R406). -/
def Sys2Proof.Claims.EventCounterWords : Prop :=
  ∀ (s : State) (g : Guard) (d b c : Reg) (e : Bool) (fl : BitVec 6), guardOk (me s).ctl g = true →
    let k := bits (rd s b) 31 0
    let v := (flagV (me s) fl).toNat
    let p := (flagP (me s) fl).toNat
    (k = 0 → (me s).cwait = none → Completes (.ewait g d b c e fl) s (fun t => Ended s t d 0 [] ∧ Frame.Elsewhere s t)) ∧
    (0 < k → k ≤ p → k ≤ v → flagBad (me s) fl = false → Fresh s → Completes (.ewait g d b c e fl) s (fun t => Finished s t d 0 [] ∧ FlagAlone s t fl (v - k) (p - k))) ∧
    (p < k → flagBad (me s) fl = false → (me s).cwait = none → (me s).csr.sup = false →
      Completes (.ewait g d b c e fl) s (fun t => Trapped s t 0x05 (BitVec.ofNat 64 fl.toNat) ∧ (me t).sync = (me s).sync)) ∧
    (p + k ≤ 0xFFFFFFFF → flagBad (me s) fl = false → controlStores (me s) = [] →
      Completes (.eadd g b fl) s (fun t => Plain s t ∧ FlagAlone s t fl (min (v + k) 0xFFFFFFFF) (p + k))) ∧
    (0xFFFFFFFF < p + k → flagBad (me s) fl = false → (me s).csr.sup = false →
      Completes (.eadd g b fl) s (fun t => Trapped s t 0x01 (curWord s) ∧ (me t).sync = (me s).sync)) ∧
    (flagBad (me s) fl = true → (me s).csr.sup = false →
      Completes (.eadd g b fl) s (fun t => Trapped s t 0x07 0 ∧ (me t).sync = (me s).sync) ∧
      (0 < k → (me s).cwait = none → Completes (.ewait g d b c e fl) s (fun t => Trapped s t 0x07 0 ∧ (me t).sync = (me s).sync)))

/-- R330 to R332: EVCFG stores a rule, claiming for an armed one and promising for its segment, and refuses with CLOSED to replace an armed rule by an
armed one; an armed rule fires on its lowest term that holds, consuming one set of each of its flags and giving the claims of term 0
back where that is another term, and pushes its RUN; not while a precise stop holds. -/
def Sys2Proof.Claims.CrossbarRules : Prop :=
  (∀ (s s' : State) (g : Guard) (d a : Reg) (off : BitVec 12) (rule : BitVec 4) (bs : List Byte), guardOk (me s).ctl g = true →
    let n := rule.toNat
    (rd s a + off.signExtend 64).toNat % 32 = 0 → plainRead .control 4 s (rd s a + off.signExtend 64) = (.ok bs, s') → ruleBad bs = false →
      ((ruleFrom bs).armed = false → (ruleOf (me s) n).armed = false → Completes (.evcfg g d a off rule) s (fun t =>
        Ended s t d 0 [] ∧ RuleAlone s t (me s) n (ruleFrom bs) ∧ t.ms = s'.ms)) ∧
      ((ruleFrom bs).armed = true → (ruleOf (me s) n).armed = true → Completes (.evcfg g d a off rule) s (fun t =>
        Ended s t d 7 [] ∧ (me t).sync = (me s).sync ∧ t.ms = s'.ms)) ∧
      ((ruleFrom bs).armed = true → (ruleOf (me s) n).armed = false → ∀ x c1 c2, segEnt (me s) (ruleFrom bs).engine.toNat (ruleFrom bs).seg = some x →
        claimAll (termFlags (ruleFrom bs) 0 ++ flagsOf x.waits) (me s') = .ok c1 → promiseAll (flagsOf x.sets) c1 = .ok c2 →
        Completes (.evcfg g d a off rule) s (fun t => Ended s t d 0 [] ∧ RuleAlone s t c2 n (ruleFrom bs) ∧ t.ms = s'.ms))) ∧
  (∀ (s : State) (k : Nat), let n := s.choice.n % 16
    let r := ruleOf (me s) n
    ((me s).run.dstop = true → exec .ruleFiring s = .next s) ∧
    (r.armed = true → contextOn (me s) = true → (me s).run.dstop = false → k < 4 → termHolds (me s) r k = true → (∀ j, j < k → termHolds (me s) r j = false) →
    (termFlags r k).Nodup → (k ≠ 0 → (termFlags r 0).Nodup ∧ ∀ f ∈ termFlags r 0, flagBad (me s) f = false ∧ (flagP (me s) f).toNat < 0xFFFFFFFF) →
    (queueOf (me s) (engNo r.engine.toNat)).length + reservedFor (me s) r.engine.toNat < 32 →
    Completes .ruleFiring s (fun t => ruleOf (me t) n = { r with armed := false } ∧ (∀ j, j ≠ n → ruleOf (me t) j = ruleOf (me s) j) ∧
      queueOf (me t) (engNo r.engine.toNat) = queueOf (me s) (engNo r.engine.toNat) ++ [.run r.seg r.param none] ∧
      (∀ f, flagV (me t) f = if f ∈ termFlags r k then flagV (me s) f - 1 else flagV (me s) f) ∧
      (∀ f, flagP (me t) f = if k ≠ 0 ∧ f ∈ termFlags r 0 then flagP (me s) f + 1 else flagP (me s) f) ∧
      (me t).ctl = (me s).ctl ∧ Frame.Elsewhere s t)))

/-- R300 to R302: FORK pushes a RUN to each engine of its mask and opens a group of them; EPUSH pushes one command, without a group; OK. -/
def Sys2Proof.Claims.EnginePushes : Prop :=
  ∀ (s s' : State) (g : Guard) (d a b c : Reg) (mask : BitVec 3) (rdv : BitVec 10) (cmds : List (Nat × Cmd)) (x : Core),
    guardOk (me s).ctl g = true → Fresh s →
    (RunBlock s s' (rd s a) mask cmds → PushReady s' cmds x →
      Completes (.fork g d a c mask rdv) s (fun t => Finished s t d 0 [] ∧
        Pushed s t x (inGroup (s'.nextId * 1024 + rdv.toNat) cmds)
          ((me s).sync.groups ++ [⟨s'.nextId * 1024 + rdv.toNat, rdv, cmds.map (fun y => (⟨engNo y.1, false⟩ : Member))⟩])) ∧
      (epushBad (rd s b) = false → bits (rd s b) 1 0 = 0 → Completes (.epushRun g d a b c mask) s (fun t => Finished s t d 0 [] ∧
        Pushed s t x cmds (me s).sync.groups))) ∧
    (∀ fl : BitVec 6, rd s b = fl.setWidth 64 * 256 + 1 → PushReady s (eachEngine mask (.setf fl)) x →
      Completes (.epushSetf g d a b c mask) s (fun t => Finished s t d 0 [] ∧
        Pushed s t x (eachEngine mask (.setf fl)) (me s).sync.groups ∧ t.ms = s.ms)) ∧
    (∀ fl : BitVec 6, rd s b = fl.setWidth 64 * 256 + 2 → PushReady s (eachEngine mask (.waitf fl (flagP (me s) fl))) x →
      Completes (.epushWaitf g d a b c mask) s (fun t => Finished s t d 0 [] ∧
        Pushed s t x (eachEngine mask (.waitf fl (flagP (me s) fl))) (me s).sync.groups ∧ t.ms = s.ms))

/-- R303: JOIN with no open group of its id ends EMPTY; where every member of its set stands or has ended, those that stand go on and the word ends
OK. -/
def Sys2Proof.Claims.JoinWord : Prop :=
  ∀ (s : State) (g : Guard) (d c : Reg) (mask : BitVec 3) (rdv : BitVec 10), guardOk (me s).ctl g = true → Fresh s →
    (groupById (me s) rdv = none → Completes (.join g d c mask rdv) s (fun t => Ended s t d 8 [] ∧ (me t).sync = (me s).sync ∧ Frame.Elsewhere s t)) ∧
    (∀ x, groupById (me s) rdv = some x → (∀ m ∈ x.members, m.sq ≠ .control) → joinCond (me s) x.num mask = true → Completes (.join g d c mask rdv) s (fun t =>
      Finished s t d 0 [] ∧ (∀ q ∈ joinSet (me s) x.num mask, (engOf (me t) q).st ≠ .stopped) ∧
      (me t).sync = { (me s).sync with groups := (me s).sync.groups.filter (fun y => !y.members.all (fun m => m.ended)) } ∧ t.ms = s.ms))

/-- R298, R299, R308, R325, R327: an idle engine past its pacing gap takes its oldest command: a RUN starts its segment at word 0 with both loop
levels inactive, a SETF adds one set, a WAITF whose set is there consumes it. -/
def Sys2Proof.Claims.EngineCommands : Prop :=
  ∀ s : State, let sq := s.choice.sq
    mayDequeue s sq = true →
    (∀ seg param group rest, queueOf (me s) sq = .run seg param group :: rest → Completes .engineRun s (fun t =>
      Dequeued s t sq ∧ (engOf (me t) sq).st = .running ∧ (engOf (me t) sq).seg = seg ∧ (engOf (me t) sq).param = param ∧
      (engOf (me t) sq).group = group ∧ (engOf (me t) sq).widx = 0 ∧ (engOf (me t) sq).rep = 0 ∧ (engOf (me t) sq).loop0.act = false ∧
      (engOf (me t) sq).loop1.act = false ∧ (engOf (me t) sq).dl = (engOf (me s) sq).dl)) ∧
    (∀ fl rest, queueOf (me s) sq = .setf fl :: rest → flagBad (me s) fl = false → Completes .setfCommand s (fun t => Dequeued s t sq ∧ (engOf (me t) sq).st = .idle ∧
      (flagV (me t) fl).toNat = min ((flagV (me s) fl).toNat + 1) 0xFFFFFFFF ∧ (∀ f, f ≠ fl → flagV (me t) f = flagV (me s) f))) ∧
    (∀ fl p rest, queueOf (me s) sq = .waitf fl p :: rest → flagBad (me s) fl = false → gangAborted s (me s) = false → 1 ≤ (flagV (me s) fl).toNat →
      Completes .waitfCommand s (fun t => Dequeued s t sq ∧ (engOf (me t) sq).st = .idle ∧ flagV (me t) fl = flagV (me s) fl - 1 ∧
        (∀ f, f ≠ fl → flagV (me t) f = flagV (me s) f) ∧ (me t).csr.tocnt = 0))

/-- R319, R322, R327: a WAITF command past its deadline returns its claim and is discarded, the timeout counted; where P would pass 2^32 − 1 it traps
ILLEGAL in the engine's name and leaves the counters (the model's choice, log 82). -/
def Sys2Proof.Claims.FlagCommandExpiry : Prop :=
  ∀ (s : State) (fl : BitVec 6) (t0 : W64) (dl : Nat), let sq := s.choice.sq
    sq ≠ .control → engineRuns (me s) = true → (engOf (me s) sq).st = .waitf fl → (engOf (me s) sq).wait = some (t0, dl) → 0 < dl →
    dl ≤ ((me s).ctc - t0).toNat → (flagV (me s) fl).toNat = 0 → flagBad (me s) fl = false → gangAborted s (me s) = false → escalates (me s) = false →
    ((flagP (me s) fl).toNat < 0xFFFFFFFF → Completes .waitfCommandExpiry s (fun t => (engOf (me t) sq).st = .idle ∧ (engOf (me t) sq).wait = none ∧
      (flagP (me t) fl).toNat = (flagP (me s) fl).toNat + 1 ∧ (∀ f, f ≠ fl → flagP (me t) f = flagP (me s) f) ∧ (∀ f, flagV (me t) f = flagV (me s) f) ∧
      (me t).csr = { (me s).csr with tocnt := (me s).csr.tocnt + 1 } ∧ (me t).ctl = (me s).ctl ∧ Frame.Elsewhere s t)) ∧
    ((flagP (me s) fl).toNat = 0xFFFFFFFF → (me s).csr.sup = false → (me s).pend = none → Completes .waitfCommandExpiry s (fun t =>
      bits (me t).csr.cause 7 0 = 0x01 ∧ bits (me t).csr.cause 9 8 = seqNo sq ∧ (me t).csr.tval = 0 ∧ (me t).csr.epc = (me s).ctl.pc ∧ (me t).csr.sup = true ∧
      (me t).frozen = true ∧ (me t).sync = (me s).sync ∧ Frame.regs s t [] ∧ Frame.preds s t [] ∧ Frame.Elsewhere s t))

/-- R304, R385: HALT with every queue empty, every engine idle and every WAITC class zero frees the executor and counts the instance as halted;
otherwise it waits. -/
def Sys2Proof.Claims.HaltWord : Prop :=
  ∀ (s : State) (g : Guard) (l : Launch) (n : Node), guardOk (me s).ctl g = true →
    tblGet none s.launches (me s).run.inst.launch = some l → l.nodes[(me s).run.inst.node]? = some n →
    (∀ e ∈ engineList, queueOf (me s) e.2 = [] ∧ (engOf (me s) e.2).st = .idle) →
    (classesZero (me s) = true → Completes (.halt g) s (fun t => (me t).run.st = .idle ∧ (me t).run.live = false ∧
      (listGet {} (launchAt t (me s).run.inst.launch).nodes (me s).run.inst.node).halted = n.halted + 1 ∧
      (listGet {} (launchAt t (me s).run.inst.launch).nodes (me s).run.inst.node).running = n.running - 1 ∧ t.ms = s.ms)) ∧
    (classesZero (me s) = false → Completes (.halt g) s (fun t => (me t).run.st = .halting ∧ (me t).ctl = (me s).ctl ∧ t.launches = s.launches ∧ t.ms = s.ms))

/-- R187, R190, R191: SBIND binds a stream register to a valid slot without poison at position 0 where its channel carries fewer than four; SFREE unbinds a bound one
and is EMPTY otherwise. -/
def Sys2Proof.Claims.StreamBinding : Prop :=
  ∀ (s : State) (g : Guard) (d c : Reg) (e : Bool) (q : BitVec 4) (x : BitVec 6) (ch : BitVec 2), guardOk (me s).ctl g = true →
    (Fresh s → cleanThen s [x] (checkBind s (curWord s) x.toNat) = .ok () → strmCount (unbindStrm (me s) q.toNat) ch < 4 →
      Completes (.sbind g d c e q x ch) s (fun t => Finished s t d 0 [] ∧
        (∃ n, strmAt (me t) q.toNat = some { bind := n, slot := slotOf (me s) x.toNat, t := x.toNat, ch := ch }) ∧
        (∀ k, k ≠ q.toNat → strmAt (me t) k = strmAt (me s) k) ∧ Frame.Elsewhere s t)) ∧
    (∀ b, strmAt (me s) q.toNat = some b → Completes (.sfree g d q) s (fun t => Ended s t d 0 [] ∧ strmAt (me t) q.toNat = none ∧
      (∀ k, k ≠ q.toNat → strmAt (me t) k = strmAt (me s) k) ∧ Frame.Elsewhere s t)) ∧
    (strmAt (me s) q.toNat = none → Completes (.sfree g d q) s (fun t => Ended s t d 8 [] ∧ (me t).cp = (me s).cp ∧ Frame.Elsewhere s t))

/-! ## Tensor homes, CSRs, traps, system words -/

namespace Sys2Proof.Claims

/-- CSRs with what they read as (R151, R155, R285, R312, R313, R382, R393, R442). -/
def csrValues : List (Nat × (State → W64)) :=
  [(0x000, fun s => (me s).csr.tocnt.setWidth 64 * 65536 + (if (me s).csr.dbgp then 256 else 0) + (if (me s).csr.lqto then 4 else 0) + (if (me s).csr.sup then 1 else 0)),
   (0x002, fun s => (me s).csr.cause), (0x003, fun s => (me s).csr.epc), (0x004, fun s => (me s).csr.dlmax.setWidth 64),
   (0x005, fun s => (me s).csr.toesc.setWidth 64), (0x006, fun s => (me s).csr.maxred.setWidth 64), (0x007, fun s => (me s).csr.spwin.setWidth 64 * 2097152),
   (0x010, fun s => (me s).csr.tseg), (0x011, fun s => (me s).csr.tpos), (0x012, fun s => (me s).csr.tval), (0x013, fun s => (me s).csr.tvec),
   (0x014, fun s => (me s).csr.tctl.setWidth 64), (0x100, fun s => (me s).csr.mpace.setWidth 64), (0x101, fun s => (me s).csr.vpace.setWidth 64),
   (0x102, fun s => (me s).csr.xpace.setWidth 64), (0x103, fun s => (me s).csr.estat), (0x200, fun s => (me s).csr2.ptroot),
   (0x201, fun s => (me s).csr2.xfaddr), (0x202, fun s => (me s).csr2.xfinfo.setWidth 64), (0x300, fun s => (me s).csr2.rrdepth.setWidth 64),
   (0x302, fun s => (me s).csr2.rttbase), (0x303, fun s => (me s).csr2.rttsz.setWidth 64), (0x401, fun s => (me s).csrd.bcbase),
   (0x403, fun s => (me s).csrd.bccnt), (0x500, fun s => (me s).csr2.lgen.setWidth 64 * 4294967296 + (me s).csr2.lnode.setWidth 64)]

/-- CSRs whose written bits software reads back, with the bits that are written. -/
def csrWritable : List (Nat × W64) :=
  [(0x003, BitVec.allOnes 64), (0x004, 0xFFFFFFFF), (0x005, 0xFFFF), (0x007, 0x007FFFFFFFE00000), (0x010, BitVec.allOnes 64), (0x012, BitVec.allOnes 64),
   (0x013, 0xFFFFFFFFFFFFFFF8), (0x014, 3), (0x015, BitVec.allOnes 64), (0x016, BitVec.allOnes 64), (0x017, BitVec.allOnes 64), (0x018, BitVec.allOnes 64),
   (0x100, 0xFFF), (0x101, 0xFFF), (0x102, 0xFFF), (0x200, 0x0007FFFFFFFF0000), (0x211, 0x0007FFFFFFFF0000), (0x212, 0x0007FFFFFFFF0000),
   (0x213, 0x0007FFFFFFFFFFF0), (0x300, 7), (0x301, 0xFFFFFFFF), (0x302, 0xFFFFFFFFFFFFFFF0), (0x401, 0x007FFFFFFFFFFFC0), (0x404, 0x1FF),
   (0x408, 0x007FFFFFFFFFF000), (0x412, 0xFFF)]

/-- Supervisor CSRs: no context may read or write them (R151, R155, R393, R442). -/
def csrSupervisor : List (BitVec 16) :=
  [0x002, 0x003, 0x010, 0x011, 0x012, 0x013, 0x014, 0x015, 0x016, 0x017, 0x018, 0x200, 0x210, 0x211, 0x212, 0x213, 0x214, 0x400, 0x408, 0x409]

/-- CSRs that a context reads and only supervisor mode writes (R129, R151, R312, R382, R455). -/
def csrReadOnly : List (BitVec 16) := [0x004, 0x005, 0x006, 0x007, 0x202, 0x501, 0x603]

/-- A word that changes CSRs has completed: registers and memory are as before. -/
structure CsrWord (s t : State) : Prop where
  next : Frame.nextWord s t
  regs : Frame.regs s t []
  preds : Frame.preds s t []
  memory : t.ms = s.ms

/-- The entry of handle h is t, every other entry as before. -/
def EntryAlone (s u : State) (h : Nat) (t : Tht) : Prop :=
  tblGet none u.tht h = some t ∧ ∀ k, k ≠ h → tblGet none u.tht k = tblGet none s.tht k

/-- Nothing that a context reads of the launch machinery but the queue has changed. -/
def QueueAlone (s t : State) : Prop := t.launches = s.launches ∧ t.ms = s.ms ∧ t.tht = s.tht

/-- An engine repeat has trapped at its schedule cycle (R393, R394): EPC names the next control word, TSEG, TPOS and SEQ the repeat, the core is
frozen in supervisor mode at TVEC; no register, flag, channel or vector register has changed, and nothing elsewhere. -/
structure EngTrapped (s t : State) (sq : Seq) (code : Nat) (tval : W64) : Prop where
  code : bits (me t).csr.cause 7 0 = code
  seq : bits (me t).csr.cause 9 8 = seqNo sq
  async : (me t).csr.cause.getLsbD 63 = false
  epc : (me t).csr.epc = (me s).ctl.pc
  tval : (me t).csr.tval = tval
  tseg : (me t).csr.tseg = (engOf (me s) sq).seg
  rep : bits (me t).csr.tpos 5 0 = (engOf (me s) sq).rep % 64
  word : bits (me t).csr.tpos 30 16 = (engOf (me s) sq).widx % 32768
  cycle : bits (me t).csr.tpos 63 32 = (engOf (me s) sq).cycle % 2 ^ 32
  sup : (me t).csr.sup = true
  frozen : (me t).frozen = true
  pc : (me t).ctl.pc = (me s).csr.tvec
  regs : Frame.regs s t []
  preds : Frame.preds s t []
  rest : (me t).sync = (me s).sync ∧ (me t).vec = (me s).vec ∧ (me t).cp = (me s).cp
  elsewhere : Frame.Elsewhere s t

/-- No channel holds a command, so that an instance that is killed is gone at once (R399, R409). -/
def NoCommands (c : Core) : Prop := ∀ ch : Fin 4, c.cp.ch.get ch = []

/-- The instance is being killed: its executor is kept for its channels, and nothing of memory has changed (R399, R409). -/
def Killing (s t : State) (cause : Nat) : Prop :=
  (me t).run.st = .killing ∧ (me t).run.live = (me s).run.live ∧ (me t).run.cause = cause ∧ (me t).cp = (me s).cp ∧ (me t).cwait = none ∧ (me t).pend = none ∧
    t.launches = s.launches ∧ t.ms = s.ms

/-- An engine repeat may trap now: the core is not in supervisor mode, and no control word awaits its reply (R397, R472). -/
def MayTrap (s : State) : Prop := (me s).csr.sup = false ∧ (me s).pend = none

end Sys2Proof.Claims

/-- R97, R113, R114, R472: TLIFT and TDROP accept a move where pages are reserved, are OK at the tensor's home, CLOSED away from their direction, TLIFT
raising DEMAND; THOME's reply holds the entry's fields. -/
def Obligations.TensorHomeWords : Prop :=
  ∀ (s : State) (g : Guard) (d a b : Reg) (x : BitVec 4) (t : Tht), guardOk (me s).ctl g = true →
    let h := (rd s a).setWidth 32
    let tgt := (rd s b).toNat
    ownTht s (ctxOf s) h = some t →
    (tgt ≤ 3 → t.ms = 0 → tierPresent s tgt = true →
      (∀ l, t.old < tgt → reserved s t.ctx t.npages tgt t.enc t.stack s.choice.list = some l → Completes (.tlift g d a b x) s (fun u =>
        Awaits s u ⟨.value 0 false, d, 0, (me s).ctl, []⟩ ∧ u.ms = s.ms ∧
        EntryAlone s u h.toNat { t with new := tgt, f := 0, ms := 1, mprio := x.toNat, newp := l, at_ := s.nextId, claim := .none,
                                        demand := min 0xFFFF (t.demand + 1) })) ∧
      (∀ l, tgt < t.old → reserved s t.ctx t.npages tgt t.enc t.stack s.choice.list = some l → Completes (.tdrop g d a b x) s (fun u =>
        Awaits s u ⟨.value 0 false, d, 0, (me s).ctl, []⟩ ∧ u.ms = s.ms ∧
        EntryAlone s u h.toNat { t with new := tgt, f := 0, ms := 1, mprio := x.toNat, newp := l, at_ := s.nextId, claim := .none })) ∧
      (tgt = t.old → Completes (.tlift g d a b x) s (fun u => Awaits s u ⟨.value 0 false, d, 0, (me s).ctl, []⟩ ∧
          EntryAlone s u h.toNat { t with demand := min 0xFFFF (t.demand + 1) }) ∧
        Completes (.tdrop g d a b x) s (fun u => Awaits s u ⟨.value 0 false, d, 0, (me s).ctl, []⟩ ∧ EntryAlone s u h.toNat t)) ∧
      (tgt < t.old → Completes (.tlift g d a b x) s (fun u => Awaits s u ⟨.value 7 false, d, 0, (me s).ctl, []⟩ ∧
          EntryAlone s u h.toNat { t with demand := min 0xFFFF (t.demand + 1) }))) ∧
    Completes (.thome g d a) s (fun u => ∃ v : W64, Awaits s u ⟨.value v false, d, 0, (me s).ctl, []⟩ ∧ bits v 63 38 = t.f % 2 ^ 26 ∧ bits v 37 8 = 0 ∧
      bits v 7 6 = t.old % 4 ∧ bits v 5 4 = t.new % 4 ∧ bits v 3 2 = t.ms % 4 ∧ bits v 1 0 = 0 ∧ Frame.Elsewhere s u)

/-- R369, R381: SPAWN of an aligned descriptor, with the earlier writes served: its address joins the launch queue with the context's next launch
generation, and its reply comes with the acceptance; a full queue answers CLOSED. -/
def Sys2Proof.Claims.SpawnWord : Prop :=
  ∀ (s : State) (g : Guard) (d a : Reg), guardOk (me s).ctl g = true → (rd s a).toNat % 64 = 0 → controlStores (me s) = [] →
    (256 ≤ s.lqueue.length → Completes (.spawn g d a) s (fun t => Awaits s t ⟨.value 7 false, d, 0, (me s).ctl, []⟩ ∧ t.lqueue = s.lqueue ∧ QueueAlone s t)) ∧
    (s.lqueue.length < 256 → Completes (.spawn g d a) s (fun t =>
      Awaits s t ⟨.spawn (rd s a), d, 0, (me s).ctl, []⟩ ∧
      t.lqueue = s.lqueue ++ [⟨ctxOf s, rd s a, (takeGen s (ctxOf s)).1, some s.ex.val⟩] ∧ QueueAlone s t))

/-- R310: RDCSR of a CSR that the mode may read writes its value to s[D] alone; WRCSR of one that the mode may write leaves the written bits to be
read back and the other CSRs as they were. -/
def Sys2Proof.Claims.CsrWords : Prop :=
  ∀ (s : State) (g : Guard) (d a : Reg) (num : BitVec 16), guardOk (me s).ctl g = true →
    (∀ e ∈ csrValues, num.toNat = e.1 → csrMay (me s) (csrReadAcc e.1) = true → WritesScalar (.rdcsr g d num) s d (e.2 s)) ∧
    (∀ e ∈ csrWritable, num.toNat = e.1 → csrMay (me s) (csrWriteAcc e.1) = true → Completes (.wrcsr g a num) s (fun t =>
      csrRead t e.1 = rd s a &&& e.2 ∧ CsrWord s t ∧ (∀ n ∈ csrValues.map (fun v => v.1), n ≠ e.1 → n ≠ 0x403 → csrRead t n = csrRead s n)))

/-- R310, R151, R155, R393, R442: outside supervisor mode, a read or a write of a supervisor CSR and a write of one that contexts only read trap
PROTECT; in supervisor mode the read executes. -/
def Sys2Proof.Claims.CsrPrivilege : Prop :=
  ∀ (s : State) (g : Guard) (d a : Reg), guardOk (me s).ctl g = true →
    ((me s).csr.sup = false → (∀ num ∈ csrSupervisor, Completes (.rdcsr g d num) s (fun t => Trapped s t 0x04 0) ∧
        Completes (.wrcsr g a num) s (fun t => Trapped s t 0x04 0)) ∧
      (∀ num ∈ csrReadOnly, Completes (.wrcsr g a num) s (fun t => Trapped s t 0x04 0)) ∧
      (∀ i ∈ [Instr.frrctlCommit g a, .frrselWrite g a, .xfinfoReplay g a, .eret g, .tlbinv g a 0], Completes i s (fun t => Trapped s t 0x04 0))) ∧
    ((me s).csr.sup = true → ∀ num ∈ csrSupervisor, ∃ v, WritesScalar (.rdcsr g d num) s d v)

/-- R155, R156, R439, R285, R475: the CSRs whose write acts: FRRSEL stages a register, FRRCTL commits or is refused with REF, XFINFO.REPLAY lets held
requests go on, KQPUSH pushes or sets OVF, TBCTL.EN clears FROZEN. -/
def Sys2Proof.Claims.CsrWritesThatAct : Prop :=
  ∀ (s : State) (g : Guard) (a : Reg) (k : BitVec 3), guardOk (me s).ctl g = true →
    let v := rd s a
    let ctl := bits ((me s).csr2.frrsel.setWidth 64) 7 4
    let idx := bits ((me s).csr2.frrsel.setWidth 64) 3 0
    let new : Frr := ⟨v.getLsbD 63, v.extractLsb' 8 4, v.getLsbD 0, (me s).csr2.frrbase, (me s).csr2.frrlim, (me s).csr2.frrscb, false⟩
    ((me s).csr.sup = true → Completes (.frrselWrite g a) s (fun t => CsrWord s t ∧
        (let f := frrAt s.ms (bits v 7 4) (bits v 3 0)
         (me t).csr2 = { (me s).csr2 with frrsel := v.setWidth 8, frrbase := f.base, frrlim := f.lim, frrscb := f.scb })) ∧
      (frrRefused s.ms ctl idx new = true → Completes (.frrctlCommit g a) s (fun t => Plain s t ∧
        frrAt t.ms ctl idx = { frrAt s.ms ctl idx with ref := true } ∧ (∀ c i, i < 16 → (c, i) ≠ (ctl, idx) → frrAt t.ms c i = frrAt s.ms c i) ∧
        t.ms.mem = s.ms.mem ∧ t.ms.l2 = s.ms.l2)) ∧
      (frrRefused s.ms ctl idx new = false → Completes (.frrctlCommit g a) s (fun t => Plain s t ∧ frrAt t.ms ctl idx = new ∧
        (∀ c i, i < 16 → (c, i) ≠ (ctl, idx) → frrAt t.ms c i = frrAt s.ms c i))) ∧
      (v.getLsbD 8 = true → Completes (.xfinfoReplay g a) s (fun t => CsrWord s t ∧ (me t).held = []))) ∧
    (((me s).sync.kq.get k.toFin).length < 16 → Completes (.kqpush g a k) s (fun t => CsrWord s t ∧ (me t).csr2 = (me s).csr2 ∧
      (me t).sync.kq.get k.toFin = (me s).sync.kq.get k.toFin ++ [some (v.setWidth 32)] ∧
      (∀ j, j ≠ k → (me t).sync.kq.get j.toFin = (me s).sync.kq.get j.toFin))) ∧
    (16 ≤ ((me s).sync.kq.get k.toFin).length → Completes (.kqpush g a k) s (fun t => CsrWord s t ∧ (me t).sync = (me s).sync ∧
      (me t).csr2.kqovf.getLsbD k.toNat = true)) ∧
    ((me s).csr.dbgp = true → v.getLsbD 0 = true → Completes (.tbctlEnableWrite g a) s (fun t => CsrWord s t ∧ (me t).csr = (me s).csr ∧
      (me t).csrd.tbctl = v.setWidth 32 &&& 0xFFFF00F1 ∧ (me t).csrd.tbctl.getLsbD 1 = false ∧ (me t).dbg.post = none))

/-- R53, R392 to R395, R397 to R399, R434: TRAP, BKPT without STOPBK and an illegal control word enter the handler, EPC naming the word; an illegal engine
word traps at its schedule cycle; in supervisor mode a control word's trap ends the instance, its node faulted: at once, or once its
channels have reached a chunk boundary (R409). -/
def Sys2Proof.Claims.TrapWords : Prop :=
  (∀ (s : State) (g : Guard) (num : BitVec 16) (w : W64), (me s).csr.sup = false →
    (guardOk (me s).ctl g = true → num.toNat < 128 → Completes (.trap g num) s (fun t => Trapped s t (0x80 + num.toNat) 0)) ∧
    (guardOk (me s).ctl g = true → (me s).csrd.dbgctl.getLsbD 1 = false → Completes (.bkpt g num) s (fun t => Trapped s t 0x0C (num.setWidth 64))) ∧
    Completes (.illegalOpcode .control w) s (fun t => Trapped s t 0x01 w)) ∧
  (∀ (s : State) (sq : Seq) (w : W64), sq ≠ .control → MayTrap s → Completes (.illegalOpcode sq w) s (fun t => EngTrapped s t sq 0x01 w)) ∧
  (∀ (s : State) (g : Guard) (num : BitVec 16) (l : Launch) (n : Node), guardOk (me s).ctl g = true → (me s).csr.sup = true → num.toNat < 128 →
    tblGet none s.launches (me s).run.inst.launch = some l → l.nodes[(me s).run.inst.node]? = some n →
    (NoCommands (me s) → Completes (.trap g num) s (fun t => (me t).run.st = .idle ∧ (me t).run.live = false ∧ bits (me t).csr.cause 7 0 = 0x80 + num.toNat ∧
      (listGet {} (launchAt t (me s).run.inst.launch).nodes (me s).run.inst.node).faulted = true ∧
      (l.fault = none → (launchAt t (me s).run.inst.launch).fault = some ((me s).run.inst.node, 0x80 + num.toNat)) ∧ t.ms = s.ms)) ∧
    (¬ NoCommands (me s) → Completes (.trap g num) s (fun t => Killing s t (0x80 + num.toNat) ∧ bits (me t).csr.cause 7 0 = 0x80 + num.toNat)))

/-- R396, R399, R44: ERET without KILL or ABANDON returns to EPC, its low three bits clear (the model's reading of R44, log 83), in context mode with TCTL clear and every register as it was, with KILL it ends the instance, at once or at a
chunk boundary of its channels;
a pending interrupt at a word boundary of a context enters the handler with ASYNC set and EPC the next word, nothing frozen. -/
def Sys2Proof.Claims.EretAndInterrupt : Prop :=
  (∀ (s : State) (g : Guard), guardOk (me s).ctl g = true → (me s).csr.sup = true →
    ((me s).csr.tctl = 0 → (me s).parked = none → Completes (.eret g) s (fun t => (me t).ctl.pc = (me s).csr.epc &&& ~~~7#64 ∧
      (me t).csr = { (me s).csr with sup := false, tctl := 0 } ∧ (me t).frozen = false ∧ (me t).ctl.loops = (me s).ctl.loops ∧
      Frame.regs s t [] ∧ Frame.preds s t [] ∧ Frame.Elsewhere s t)) ∧
    ((me s).csr.tctl.getLsbD 1 = true → (NoCommands (me s) → Completes (.eret g) s (fun t => (me t).run.st = .idle ∧ (me t).run.live = false ∧ t.ms = s.ms)) ∧
      (¬ NoCommands (me s) → Completes (.eret g) s (fun t => Killing s t (bits (me s).csr.cause 7 0))))) ∧
  (∀ (s : State) (x : Irq) (rest : List Irq),
    (me s).irq = x :: rest → irqDue (me s) = true → Completes .interrupt s (fun t =>
      bits (me t).csr.cause 7 0 = x.code % 256 ∧ bits (me t).csr.cause 9 8 = x.sq % 4 ∧ (me t).csr.cause.getLsbD 63 = true ∧
      (me t).csr = { (me s).csr with cause := (me t).csr.cause, epc := (me s).ctl.pc, tval := x.tval, sup := true } ∧
      (me t).ctl.pc = (me s).csr.tvec ∧ (me t).irq = rest ∧ (me t).frozen = (me s).frozen ∧ Frame.regs s t [] ∧ Frame.preds s t [] ∧ Frame.Elsewhere s t))

/-- R152, R159, R160: TLBINV drops the entries that its form names in every TLB; DCF leaves no line of the page in the cache ways or in the core's L1; CINV
drops L1 lines alone. -/
def Obligations.CacheAndTlbWords : Prop :=
  ∀ (s : State) (g : Guard) (d a c : Reg) (e : Bool) (off : BitVec 12), guardOk (me s).ctl g = true →
    ((me s).csr.sup = true → (me s).cwait = none → ∀ num : BitVec 16, num.toNat ≤ 2 → tlbQuiet s (dropsGlobal s (ctxOf s) num.toNat (rd s a)) s.nextId = true →
      Completes (.tlbinv g a num) s (fun t => Plain s t ∧
        (∀ n x, x ∈ (t.cores.get n).tlb ↔ x ∈ (s.cores.get n).tlb ∧ tlbDrops (ctxOf s) num.toNat (rd s a) x = false) ∧
        (∀ k x, x ∈ tblGet [] t.ms.dieTlb k → tlbDrops (ctxOf s) num.toNat (rd s a) x = false) ∧ Frame.memory s t)) ∧
    (Fresh s → inWindow (me s) (rd s a + off.signExtend 64) = false → ∀ x s', translate s (rd s a + off.signExtend 64) .read .control = (.ok x, s') →
      pageWrites (wcFlushSq s' .control) (ctxOf s) (pa50 x.pa / 65536) = [] → Completes (.dcf g d a c e off) s (fun t => Finished s t d 0 [] ∧
        (∀ k, pa50 (k * 128) / 65536 = pa50 x.pa / 65536 → tblGet none t.ms.l2 k = none) ∧
        (∀ pa, pa50 pa / 65536 = pa50 x.pa / 65536 → l1Get t pa = none))) ∧
    (∀ num : BitVec 16, num.toNat = 2 → Completes (.cinv g a num) s (fun t => Plain s t ∧ (me t).l1 = [] ∧ t.ms = s.ms)) ∧
    (∀ num : BitVec 16, num.toNat < 2 → inWindow (me s) (rd s a) = false → ∀ x s', translate s (rd s a) .read .control = (.ok x, s') →
      Completes (.cinv g a num) s (fun t => Plain s t ∧ l1Get t x.pa = none ∧ t.ms = s'.ms))

/-- R432 to R435, R439: SNAPBC advances BCCNT and sends a record while snapshots are on; BKPT under STOPBK completes and stops the core precisely; a stop
that the debug port asked for takes effect; a trace trigger arms its countdown. -/
def Obligations.DebugWords : Prop :=
  ∀ (s : State) (g : Guard) (num : BitVec 16),
    (guardOk (me s).ctl g = true → (me s).csrd.bcctl.getLsbD 31 = true → (me s).reqs.any (isRecord true) = false → (∀ i, ¬ EndsHere s i) →
      Completes (.snapbc g) s (fun t => (me t).csrd.bccnt = (me s).csrd.bccnt + 1 ∧ (me t).csrd.bcctl = (me s).csrd.bcctl ∧
        (∃ r, isRecord true r = true ∧ (me t).reqs = (me s).reqs ++ [r]) ∧ Plain s t ∧ t.ms = s.ms)) ∧
    (guardOk (me s).ctl g = true → (me s).csrd.bcctl.getLsbD 31 = false → Completes (.snapbc g) s (fun t => Frame.RegisterWord s t [] [])) ∧
    (guardOk (me s).ctl g = true → (me s).csrd.dbgctl.getLsbD 1 = true → (me s).run.group = none → Completes (.bkpt g num) s (fun t =>
      (me t).run.dstop = true ∧ (me t).csr = (me s).csr ∧ Frame.nextWord s t ∧ Frame.regs s t [] ∧ Frame.preds s t [] ∧ t.ms = s.ms)) ∧
    ((me s).run.dreq = true → (me s).run.live = true → (me s).run.group = none → Completes .preciseStop s (fun t =>
      (me t).run.dstop = true ∧ (me t).run.dreq = false ∧ (me t).csrd.dstops.get 0 = (me s).cseg ∧ (me t).csrd.dstopc.get 0 = BitVec.ofNat 32 (me s).ccycle ∧
      (me t).ctl = (me s).ctl ∧ t.ms = s.ms)) ∧
    (trcOn (me s) = true → (me s).dbg.post = none → bits (me s).csrd.tbtrig 2 0 = 1 → bits (me s).csrd.tbtrig 63 3 = bits (me s).ctl.pc 63 3 →
      0 < bits ((me s).csrd.tbctl.setWidth 64) 31 16 → Completes .traceTrigger s (fun t =>
        (me t).dbg.post = some (bits ((me s).csrd.tbctl.setWidth 64) 31 16) ∧ (me t).ctl = (me s).ctl ∧ Frame.Elsewhere s t))

/-! ## Vector words -/

namespace Sys2Proof.Claims

/-- A repeat of a word of a segment that is not abandoned has issued: one slot; the next repeat, or after the last one the next word, where no active
level ends here (R57, R308). -/
structure EngNext (s t : State) (sq : Seq) (rpt : Nat) : Prop where
  cycle : (engOf (me t) sq).cycle = (engOf (me s) sq).cycle + 1
  more : (engOf (me s) sq).rep < rpt → (engOf (me t) sq).rep = (engOf (me s) sq).rep + 1 ∧ (engOf (me t) sq).widx = (engOf (me s) sq).widx ∧
    (engOf (me t) sq).st = (engOf (me s) sq).st
  last : rpt ≤ (engOf (me s) sq).rep → (engOf (me s) sq).abandoned = false →
    ((engOf (me s) sq).loop0.act = true → (engOf (me s) sq).loop0.last ≠ (engOf (me s) sq).widx) →
    ((engOf (me s) sq).loop1.act = true → (engOf (me s) sq).loop1.last ≠ (engOf (me s) sq).widx) →
    (engOf (me t) sq).rep = 0 ∧ (engOf (me t) sq).widx = (engOf (me s) sq).widx + 1 ∧ (engOf (me t) sq).st = (engOf (me s) sq).st

/-- A repeat of the vector sequencer may issue with these rows in its sources, results due having landed: no wait, no pending register named, no poison,
and not nullified. -/
structure VecIssue (s : State) (m : Bool) (srcs names : List Nat) (rows : List Row) : Prop where
  wait : (me s).ve.wait = none
  pend : ∀ g ∈ (me (landVec s)).vec.gathers, g.load = true → g.dst ∉ srcs ++ names
  act : nullified (me (landVec s)) m = false
  poison : ∀ k, tblGet false (me (landVec s)).vec.vpoison k = false
  rows : ∃ c, takeRows (me s).ve srcs 0 (me (landVec s)) = .ok (rows.map (fun r => (r, none)), c)

/-- The repeat has issued with the results rs in flight, and no register, mask, address or memory byte is changed yet. -/
structure VecDone (s t : State) (rpt : Nat) (rs : List Irb) : Prop where
  irb : (me t).vec.irb = (me (landVec s)).vec.irb ++ rs
  slot : (me t).vec.slot = (me s).vec.slot + 1
  regs : (me t).vec.v = (me (landVec s)).vec.v ∧ (me t).vec.m = (me (landVec s)).vec.m ∧ (me t).vec.a = (me s).vec.a ∧ (me t).vec.act = (me s).vec.act
  eng : EngNext s t .vector rpt
  ctl : (me t).ctl = (me s).ctl
  elsewhere : Frame.Elsewhere s t

/-- One result of the repeat: register, latency, lanes, value (R198). -/
def inFlightTo (s : State) (d lat : Nat) (lanes : W64) (x : Row) : Irb :=
  { dest := .reg d, due := (me s).vec.slot + lat, order := (me s).vec.order, lanes := lanes, value := x }

/-- One result of the repeat for a mask. -/
def inFlightMask (s : State) (d lat : Nat) (lanes x : W64) : Irb :=
  { dest := .mask d, due := (me s).vec.slot + lat, order := (me s).vec.order, lanes := lanes, mask := x }

/-- A result due at the vector sequencer's next slot, of a word or of a gather all of whose lanes have arrived, writes lane k of a destination. -/
def DueAt (s : State) (r : Irb) (d : IrbDest) (k : Nat) : Prop :=
  ((r ∈ (me s).vec.irb ∧ r.due ≤ (me s).vec.slot) ∨
    (∃ g ∈ (me s).vec.gathers, g.load = true ∧ g.done = true ∧ g.due ≤ (me s).vec.slot ∧ r = gatherIrb g)) ∧
  r.dest = d ∧ r.lanes.getLsbD k = true

/-- Of the results due, that is the one of the latest slot and, of those, of the last issue that writes the lane. -/
def LandsLast (s : State) (r : Irb) (d : IrbDest) (k : Nat) : Prop :=
  DueAt s r d k ∧ ∀ x, DueAt s x d k → x ≠ r → x.due < r.due ∨ (x.due = r.due ∧ x.order < r.order)

/-- The word computes lane by lane: its latency and its function. -/
def laneWords1 : List ((VH → BitVec 10 → BitVec 10 → Instr) × Nat × (W32 → W32)) :=
  [(.vmov, 2, fun a => a), (.vabsF32, 2, f32Abs), (.vnegF32, 2, f32Neg), (.vrcpF32, 12, f32Rcp), (.vrsqF32, 12, f32Rsqrt), (.vexp2F32, 12, f32Exp2),
   (.vlog2F32, 12, f32Log2), (.vcvtF32I32, 3, fun a => encF32 (fpInt a.toInt)), (.vcvtI32F32Rz, 3, cvtI32Rz), (.vcvtI32F32Rne, 3, cvtI32Rne),
   (.vcvtBf16F32, 3, fun a => (encBf16 (decF32 a)).setWidth 32), (.vcvtF16F32, 3, fun a => (encF16 (decF32 a)).setWidth 32),
   (.vcvtE4m3F32, 3, fun a => (encE4m3 (decF32 a)).setWidth 32), (.vcvtE5m2F32, 3, fun a => (encE5m2 (decF32 a)).setWidth 32),
   (.vcvtF32Bf16, 3, fun a => encF32 (decBf16 (a.setWidth 16))), (.vcvtF32F16, 3, fun a => encF32 (decF16 (a.setWidth 16))),
   (.vcvtF32E4m3, 3, fun a => encF32 (decE4m3 (a.setWidth 8))), (.vcvtF32E5m2, 3, fun a => encF32 (decE5m2 (a.setWidth 8))),
   (.vcvtI8F32, 3, cvtI8), (.vcvtF32I8, 3, fun a => encF32 (fpInt (a.setWidth 8).toInt))]

/-- The same for two sources. -/
def laneWords2 : List ((VH → BitVec 10 → BitVec 10 → BitVec 10 → Instr) × Nat × (W32 → W32 → W32)) :=
  [(.vaddI32, 2, fun a b => a + b), (.vsubI32, 2, fun a b => a - b), (.vmulI32, 4, fun a b => a * b),
   (.vmulhI32, 4, fun a b => (a.signExtend 64 * b.signExtend 64).extractLsb' 32 32),
   (.vminI32, 2, fun a b => if a.toInt ≤ b.toInt then a else b), (.vmaxI32, 2, fun a b => if a.toInt ≤ b.toInt then b else a),
   (.vminuI32, 2, fun a b => if a.toNat ≤ b.toNat then a else b), (.vmaxuI32, 2, fun a b => if a.toNat ≤ b.toNat then b else a),
   (.vand, 2, fun a b => a &&& b), (.vor, 2, fun a b => a ||| b), (.vxor, 2, fun a b => a ^^^ b),
   (.vshl, 2, fun a b => if b.toNat < 32 then a <<< b.toNat else 0), (.vshr, 2, fun a b => if b.toNat < 32 then a >>> b.toNat else 0),
   (.vsra, 2, fun a b => a.sshiftRight (min b.toNat 31)),
   (.vaddsI32, 2, fun a b => BitVec.ofInt 32 (max (-2147483648) (min 2147483647 (a.toInt + b.toInt)))),
   (.vsubsI32, 2, fun a b => BitVec.ofInt 32 (max (-2147483648) (min 2147483647 (a.toInt - b.toInt)))),
   (.vaddI16x2, 2, addI16x2), (.vaddI8x4, 2, addI8x4), (.vaddF32, 4, f32Add), (.vsubF32, 4, f32Sub), (.vmulF32, 4, f32Mul), (.vminF32, 2, f32Min),
   (.vmaxF32, 2, f32Max), (.vmaxabsF32, 2, f32MaxAbs)]

/-- The same for two sources and VD. -/
def laneWords3 : List ((VH → BitVec 10 → BitVec 10 → BitVec 10 → Instr) × Nat × (W32 → W32 → W32 → W32)) :=
  [(.vdotI8x4, 4, dotI8x4), (.vfmaF32, 4, f32Fma), (.vfmaBf16x2, 4, fmaBf16x2)]

/-- The compares into a mask. -/
def laneCompares : List ((VH → BitVec 4 → BitVec 10 → BitVec 10 → Instr) × (W32 → W32 → Bool)) :=
  [(.vcmpeqI32, fun a b => decide (a = b)), (.vcmpltI32, fun a b => decide (a.toInt < b.toInt)), (.vcmpltuI32, fun a b => decide (a.toNat < b.toNat)),
   (.vcmpeqF32, f32Eq), (.vcmpltF32, f32Lt), (.vcmpleF32, f32Le), (.vcmpunF32, f32Un)]

/-- The register that a source field names on the current repeat. -/
def srcReg (s : State) (r : BitVec 10) (h : VH) : Nat := srcAt r h.step (me s).ve.rep

/-- The register that a destination field names on the current repeat. -/
def dstReg (s : State) (r : BitVec 10) (h : VH) : Nat := vidx r h.step (me s).ve.rep

/-- The lanes that a repeat writes: all, or with M the active mask's (R64). -/
def lanesWritten (s : State) (m : Bool) : W64 := if m then actMask (me (landVec s)) else BitVec.allOnes 64

/-- The word completes with one row in flight whose lanes are as given. -/
def Computes (i : Instr) (s : State) (rpt d lat : Nat) (lanes : W64) (val : Nat → W32) : Prop :=
  Completes i s (fun t => ∃ x : Row, (∀ k, k < 64 → lane x k = val k) ∧ VecDone s t rpt [inFlightTo s d lat lanes x])

/-- The scratchpad bytes of a 256-byte access at b as a row. -/
def RowAt (c : Core) (b : Nat) (x : Row) : Prop := ∀ i, i < 64 → ∀ k, k < 4 → (lane x i).extractLsb' (8 * k) 8 = spByte c ((b + 4 * i + k) % 2097152)

/-- The bytes at b of the lanes written are those of a row, and every other byte of the scratchpad is as before. -/
def RowStored (s t : State) (b : Nat) (lanes : W64) (x : Row) : Prop :=
  (∀ i k, i < 64 → k < 4 → lanes.getLsbD i = true → spByte (me t) ((b + 4 * i + k) % 2097152) = (lane x i).extractLsb' (8 * k) 8) ∧
  (∀ a, a < 2097152 → (∀ i k, i < 64 → k < 4 → lanes.getLsbD i = true → a ≠ (b + 4 * i + k) % 2097152) → spByte (me t) a = spByte (me s) a)

/-- A tagged vector access is not held up: nothing else waits on tags, no freeze, no expiry in its word. -/
def TagsFree (s : State) : Prop := (me s).spad.waiters = [] ∧ (me s).frozen = false ∧ (me s).ve.tdead = false ∧ gangAborted s (me s) = false

end Sys2Proof.Claims

/-- R206, R207, R213, R198, R64: the vector words that compute lane by lane put in flight, for the lanes written and with the word's latency, the
word's function of the source rows; registers change only as results land. -/
def Obligations.VectorLaneWords : Prop :=
  ∀ (s : State) (h : VH) (vd va vb : BitVec 10) (rows : List Row),
    let d := dstReg s vd h
    let lanes := lanesWritten s h.m
    (VecIssue s h.m [srcReg s va h] [d] rows → ∀ e ∈ laneWords1,
      Computes (e.1 h vd va) s h.rpt.toNat d e.2.1 lanes (fun k => e.2.2 (lane (row rows 0) k))) ∧
    (VecIssue s h.m [srcReg s va h, srcReg s vb h] [d] rows → ∀ e ∈ laneWords2,
      Computes (e.1 h vd va vb) s h.rpt.toNat d e.2.1 lanes (fun k => e.2.2 (lane (row rows 0) k) (lane (row rows 1) k))) ∧
    (VecIssue s h.m [srcReg s va h, srcReg s vb h, srcReg s vd h] [d] rows → ∀ e ∈ laneWords3,
      Computes (e.1 h vd va vb) s h.rpt.toNat d e.2.1 lanes (fun k => e.2.2 (lane (row rows 0) k) (lane (row rows 1) k) (lane (row rows 2) k)))

/-- R209 to R212: the compares and VMLOG put a mask in flight, VSEL chooses every lane by its bit of the active mask, VMACT sets the active mask, VNOP
takes a slot. -/
def Sys2Proof.Claims.VectorMaskWords : Prop :=
  ∀ (s : State) (h : VH) (vd va vb : BitVec 10) (md tt ma mb : BitVec 4) (rpt : BitVec 6) (rows : List Row),
    (VecIssue s h.m [srcReg s va h, srcReg s vb h] [] rows → ∀ e ∈ laneCompares, Completes (e.1 h md va vb) s (fun t =>
      ∃ x : W64, (∀ k, k < 64 → x.getLsbD k = e.2 (lane (row rows 0) k) (lane (row rows 1) k)) ∧
        VecDone s t h.rpt.toNat [inFlightMask s md.toNat 2 (lanesWritten s h.m) x])) ∧
    (VecIssue s h.m [] [] [] → Completes (.vmlog h md tt ma mb) s (fun t => ∃ x : W64,
      (∀ k, k < 64 → x.getLsbD k = tt.getLsbD ((if (mreg (me (landVec s)).vec ma.toNat).getLsbD k then 2 else 0) +
        (if (mreg (me (landVec s)).vec mb.toNat).getLsbD k then 1 else 0))) ∧
      VecDone s t h.rpt.toNat [inFlightMask s md.toNat 1 (lanesWritten s h.m) x])) ∧
    (VecIssue s false [srcReg s va h, srcReg s vb h] [dstReg s vd h] rows →
      Computes (.vsel h vd va vb) s h.rpt.toNat (dstReg s vd h) 2 (BitVec.allOnes 64) (fun k =>
        if (actMask (me (landVec s))).getLsbD k then lane (row rows 0) k else lane (row rows 1) k)) ∧
    Completes (.vmact md) s (fun t => (me t).vec.act = md ∧ (me t).vec.irb = (me (landVec s)).vec.irb ∧ (me t).vec.v = (me (landVec s)).vec.v ∧
      (me t).vec.slot = (me s).vec.slot + 1 ∧ EngNext s t .vector 0 ∧ Frame.Elsewhere s t) ∧
    Completes (.vnop rpt) s (fun t => VecDone s t rpt.toNat [])

/-- R215 to R220: quantisation to E2M1 and back, the reductions, the scan, permute, rotation, broadcast and the constants. -/
def Sys2Proof.Claims.VectorRowWords : Prop :=
  ∀ (s : State) (h : VH) (vd va vb : BitVec 10) (n : BitVec 6) (imm : BitVec 20) (rows : List Row),
    let d := dstReg s vd h
    let rpt := h.rpt.toNat
    let lanes := lanesWritten s h.m
    let all := BitVec.allOnes 64
    (VecIssue s false [srcReg s va h] [d, dstReg s vb h] rows → Completes (.vqntE2m1 h vd va vb) s (fun t =>
      VecDone s t rpt [inFlightTo s d 8 all (quantRow (row rows 0)).1,
        { inFlightTo s (dstReg s vb h) 8 all (quantRow (row rows 0)).2 with order := (me s).vec.order + 1 }])) ∧
    (VecIssue s false [srcReg s va h, srcReg s vb h] [d] rows → Completes (.vdqntE2m1 h vd va vb) s (fun t =>
      VecDone s t rpt [inFlightTo s d 4 all (dequantRow (row rows 0) (row rows 1))])) ∧
    (VecIssue s h.m [srcReg s va h] [d] rows →
      (∀ e ∈ [(Instr.vredaddF32 h vd va, f32Add, (0x80000000 : W32)), (.vredmaxF32 h vd va, f32Max, 0xFF800000), (.vredaddI32 h vd va, (fun a b => a + b), 0)],
        Computes e.1 s rpt d 8 lanes (fun _ => reduce e.2.1 e.2.2 lanes (row rows 0))) ∧
      Computes (.vscanI32 h vd va) s rpt d 8 lanes (fun k => ((List.range (k + 1)).filter (fun i => lanes.getLsbD i)).foldl (fun x i => x + lane (row rows 0) i) 0) ∧
      Computes (.vrot h vd va n) s rpt d 3 lanes (fun k => lane (row rows 0) ((k + n.toNat) % 64)) ∧
      Computes (.vbcast h vd va n) s rpt d 3 lanes (fun _ => lane (row rows 0) n.toNat)) ∧
    (VecIssue s h.m [srcReg s va h, srcReg s vb h] [d] rows →
      Computes (.vperm h vd va vb) s rpt d 4 lanes (fun k => if (lane (row rows 1) k).toNat < 64 then lane (row rows 0) (lane (row rows 1) k).toNat else 0)) ∧
    (VecIssue s h.m [] [d] [] →
      Computes (.viota h vd imm) s rpt d 2 lanes (fun k => imm.signExtend 32 + BitVec.ofNat 32 k) ∧
      Computes (.vmovi h vd imm) s rpt d 2 lanes (fun _ => moviVal imm))

/-- R198 to R201, R234, R400: at a drain slot the results due at it, gathers that have arrived among them, leave the buffer and land in their lanes of
registers and masks: a lane that several of them write holds the one of the latest slot, and of one slot the one issued last; a lane that none writes
is as before. The others stay in flight, and a slot passes while there are any. -/
def Sys2Proof.Claims.ResultsLand : Prop :=
  ∀ (s : State), draining s = true → Completes .irbLanding s (fun t =>
    (me t).vec.irb = (me s).vec.irb.filter (fun r => decide ((me s).vec.slot < r.due)) ∧
    (me t).vec.gathers.filter (fun g => g.load) = (me s).vec.gathers.filter (fun g => g.load && !(g.done && decide (g.due ≤ (me s).vec.slot))) ∧
    (∀ r n k, n < 768 → k < 64 → LandsLast s r (.reg n) k → lane (vreg (me t).vec n) k = lane r.value k) ∧
    (∀ n k, n < 768 → k < 64 → (∀ r, DueAt s r (.reg n) k → False) → lane (vreg (me t).vec n) k = lane (vreg (me s).vec n) k) ∧
    (∀ r n k, 0 < n → n < 16 → k < 64 → LandsLast s r (.mask n) k → (mreg (me t).vec n).getLsbD k = r.mask.getLsbD k) ∧
    (∀ n k, n < 16 → k < 64 → (∀ r, DueAt s r (.mask n) k → False) → (mreg (me t).vec n).getLsbD k = (mreg (me s).vec n).getLsbD k) ∧
    (me t).vec.slot = (me s).vec.slot + (if (me t).vec.irb.isEmpty && !(me t).vec.gathers.any (fun g => g.load && g.done) then 0 else 1) ∧
    (me t).vec.a = (me s).vec.a ∧ (me t).vec.act = (me s).vec.act ∧ (me t).ctl = (me s).ctl ∧ Frame.Elsewhere s t)

/-- R231, R227, R232: VLD and VST at an aligned scratchpad address; VLDFW with every word full leaves the tags, VSTEF with every word empty fills them. -/
def Obligations.VectorScratchpadWords : Prop :=
  ∀ (s : State) (h : VH) (vd : BitVec 10) (ab : BitVec 3) (off : BitVec 17) (x : Row),
    let b := vmAddr ((me s).vec.a.get ab.toFin) off h.step (me s).ve.rep
    let r := vd.toNat + (me s).ve.rep
    let lanes := lanesWritten s h.m
    let words := if h.m then vmIdx b lanes else vmIdx b (BitVec.allOnes 64)
    b % 16 = 0 → r < 768 →
    (VecIssue s h.m [] [r] [] → vmPoison (me s) b lanes = false → RowAt (me s) b x → Completes (.vld h vd ab off) s (fun t =>
      VecDone s t h.rpt.toNat [inFlightTo s r 6 lanes x] ∧ (me t).spad = (me s).spad)) ∧
    (VecIssue s h.m [r] [] [x] → Completes (.vst h vd ab off) s (fun t =>
      VecDone s t h.rpt.toNat [] ∧ RowStored s t b lanes x ∧ (∀ w, spTag (me t) w = spTag (me s) w))) ∧
    (VecIssue s h.m [] [r] [] → TagsFree s → (∀ w ∈ words, spTag (me s) w = true) → wordsPoison (me s) words = false → RowAt (me s) b x →
      Completes (.vldfw h vd ab off) s (fun t => VecDone s t h.rpt.toNat [inFlightTo s r 6 lanes x] ∧
        (∀ w, spTag (me t) w = spTag (me s) w) ∧ (∀ w, spWord (me t) w = spWord (me s) w))) ∧
    (VecIssue s h.m [r] [] [x] → TagsFree s → (∀ w ∈ words, spTag (me s) w = false) → Completes (.vstef h vd ab off) s (fun t =>
      VecDone s t h.rpt.toNat [] ∧ RowStored s t b lanes x ∧ (∀ w, w < 262144 → spTag (me t) w = (spTag (me s) w || decide (w ∈ words)))))

/-- R233, R234: VGATH and VSCAT of aligned addresses outside the window, with a free place, stay outstanding with each active lane sent or still to be
translated. -/
def Obligations.GatherWords : Prop :=
  (∀ (s : State) (h : VH) (vd va : BitVec 10) (rows : List Row),
    let a := srcReg s va h
    let d := srcReg s vd h
    let lanes := lanesWritten s h.m
    (me s).ve.gdead = false → outstanding (me (landVec s)) < 8 →
    (∀ i, i < 64 → lanes.getLsbD i = true → (lane (row rows 0) i).toNat % 4 = 0 ∧ inWindow (me s) (pairAddr (row rows 0) (row rows 1) i) = false) →
    (VecIssue s h.m [a, a + 1] [d] rows → Completes (.vgath h vd va) s (fun t => ∃ g ∈ (me t).vec.gathers, g.load = true ∧ g.dst = d ∧
      g.due = (me s).vec.slot + 4 ∧ g.active = lanes ∧
      (∀ i, i < 64 → lanes.getLsbD i = true → (i, pairAddr (row rows 0) (row rows 1) i) ∈ g.lanes ∨ ∃ pa so, (i, pa, so) ∈ g.sent) ∧
      (me t).vec.irb = (me (landVec s)).vec.irb ∧ (me t).vec.v = (me (landVec s)).vec.v ∧ EngNext s t .vector h.rpt.toNat ∧ (me t).ctl = (me s).ctl)) ∧
    (VecIssue s h.m [a, a + 1, d] [] rows → Completes (.vscat h vd va) s (fun t => ∃ g ∈ (me t).vec.gathers, g.load = false ∧ g.got = row rows 2 ∧
      g.active = lanes ∧ (∀ i, i < 64 → lanes.getLsbD i = true → (i, pairAddr (row rows 0) (row rows 1) i) ∈ g.lanes ∨
        ∃ id ∈ g.ids, (me t).reqs.any (fun r => r.id == id) = true ∨ (me t).wc.any (fun w => w.id == id) = true) ∧
      (me t).vec.irb = (me (landVec s)).vec.irb ∧ (me t).vec.v = (me (landVec s)).vec.v ∧ EngNext s t .vector h.rpt.toNat ∧ (me t).ctl = (me s).ctl)))

/-- R233, R350, R351, R353: the arrival of a lane of VGATH, once the lanes of its word issued before it are served, puts the word at its address into the lane and no other, and the gather is complete once no lane is
left. -/
def Obligations.GatherLaneArrival : Prop :=
  (∀ (s : State) (g : Gather) (i pa : Nat) (so : Bool), (∀ x ∈ (me s).vec.gathers, x.lanes = []) →
    (me s).vec.gathers.find? (fun x => x.id == s.choice.n) = some g → g.load = true → g.sent.find? (fun x => x.1 == s.choice.m) = some (i, pa, so) →
    i < 64 → pa % 4 = 0 → l1Hit s .vector pa 4 false so = none → laneTurn (me s) g i pa = true → laneReady (me s) g i pa so = true →
    Frame.LinesWhole s.ms →
    slicePoison (sliceTouch s.ms pa 4) pa 4 = false →
    Completes .gatherLaneArrival s (fun t => ∃ y ∈ (me t).vec.gathers, y.id = g.id ∧
      (∀ k, k < 4 → (lane y.got i).extractLsb' (8 * k) 8 = Frame.byteAt s (pa + k)) ∧ (∀ j, j < 64 → j ≠ i → lane y.got j = lane g.got j) ∧
      y.sent = g.sent.filter (fun x => x.1 != i) ∧ y.done = y.sent.isEmpty ∧ Frame.memory s t ∧ (me t).ctl = (me s).ctl))

/-- R238: VDEFER appends the active lanes of up to four registers in ascending order; VDRAIN takes up to 64 entries off into registers and m15. -/
def Obligations.DeferralQueue : Prop :=
  ∀ (s : State) (h : VH) (va : BitVec 10) (c : BitVec 2) (rows : List Row),
    let f := srcReg s va h
    let regs := (List.range (c.toNat + 1)).map (fun i => f + i)
    let act := (List.range 64).filter (fun i => (lanesWritten s h.m).getLsbD i)
    (VecIssue s h.m regs [] rows → (me s).vec.dq.length + act.length ≤ 512 → Completes (.vdefer h va c) s (fun t =>
      (me t).vec.dq = (me s).vec.dq ++ act.map (fun i => (List.range 4).map (fun k => if k ≤ c.toNat then lane (row rows k) i else 0)) ∧
      VecDone s t h.rpt.toNat [])) ∧
    (VecIssue s false [] regs [] → (∀ e ∈ (me s).vec.dq, e ≠ []) → Completes (.vdrain h va c) s (fun t =>
      (me t).vec.dq = (me s).vec.dq.drop 64 ∧ (me t).vec.irb.length = (me (landVec s)).vec.irb.length + c.toNat + 2 ∧
      (∀ k, k ≤ c.toNat → ∃ r ∈ (me t).vec.irb, r.dest = .reg (f + k) ∧ r.due = (me s).vec.slot + 4 ∧ r.lanes = BitVec.allOnes 64 ∧
        ∀ j, j < 64 → lane r.value j = listGet 0 (listGet [] ((me s).vec.dq.take 64) j) k) ∧
      (∃ r ∈ (me t).vec.irb, r.dest = .mask 15 ∧ r.due = (me s).vec.slot + 4 ∧ ∀ j, j < 64 → r.mask.getLsbD j = decide (j < (me s).vec.dq.length)) ∧
      EngNext s t .vector h.rpt.toNat ∧ (me t).ctl = (me s).ctl ∧ Frame.Elsewhere s t))

/-- R307: VSETA asks for its parameter word and waits in its slot; the word's arrival puts its bits 20 to 0 into a[n]. -/
def Sys2Proof.Claims.AddressLoad : Prop :=
  (∀ (s : State) (n : BitVec 3) (off : BitVec 24), (me s).vec.vload = none → (me s).ve.wait = none → 0 < engDl (me s) .vector →
    gangAborted s (me s) = false → Completes (.vseta n off) s (fun t => (me t).vec.vload = some (n, (me s).ve.param + off.setWidth 64) ∧
      (me t).ve.wait = some ((me s).ctc, engDl (me s) .vector) ∧ (me t).vec.a = (me s).vec.a ∧ (me t).ve.widx = (me s).ve.widx ∧ (me t).ctl = (me s).ctl ∧
      Frame.Elsewhere s t)) ∧
  (∀ (s s' : State) (n : BitVec 3) (va : W64) (bs : List Byte), (me s).vec.vload = some (n, va) → engWaits s .vector = true →
    isHeld (me s) .vparam = false → gangAborted s (me s) = false → plainPiece s .vector va 8 = (.ok bs, s') → bs.length = 8 →
    Completes .parameterWordArrival s (fun t => (∀ k, k < 21 → ((me t).vec.a.get n.toFin).getLsbD k = (bs.getD (k / 8) 0).getLsbD (k % 8)) ∧
      (∀ m : BitVec 3, m ≠ n → (me t).vec.a.get m.toFin = (me s).vec.a.get m.toFin) ∧ (me t).vec.vload = none ∧ (me t).ve.wait = none ∧
      (me t).csr.tocnt = 0 ∧ EngNext s t .vector 0 ∧ (me t).ctl = (me s).ctl ∧ t.ms = s'.ms))

/-! ## Engine sequencing -/

namespace Sys2Proof.Claims

/-- Of the executor, the record of one engine sequencer, its vector registers and requests, its synchronisation state and its CSRs may have changed; no
other engine, no control register, no scratchpad byte, no channel, nothing of the matrix nest, and nothing elsewhere. -/
structure EngAlone (s t : State) (sq : Seq) : Prop where
  others : ∀ q, q ≠ sq → q ≠ .control → engOf (me t) q = engOf (me s) q
  ctl : (me t).ctl = (me s).ctl
  spad : (me t).spad = (me s).spad
  cp : (me t).cp = (me s).cp
  mx : (me t).mx = (me s).mx
  elsewhere : Frame.Elsewhere s t

/-- An acquire has dropped the lines of the L1 that the executor reads through, of its fused cluster where it has one; nothing else elsewhere. -/
structure Acquired (s t : State) : Prop where
  own : (me t).l1 = []
  machine : t = { s with cores := t.cores, nextId := t.nextId }
  others : ∀ n, n ≠ s.ex → t.cores.get n =
    if (me s).fused = true ∧ n.val / 8 = s.ex.val / 8 then { s.cores.get n with l1 := [] } else s.cores.get n

/-- Of an executor whose word has acquired, control registers outside the list of loop levels are as they were. -/
structure LoopsAcquired (s t : State) (ls : List (Fin 4)) : Prop where
  regs : Frame.regs s t []
  preds : Frame.preds s t []
  loops : ∀ i, i ∉ ls → (me t).ctl.loops.get i = (me s).ctl.loops.get i
  acquired : Acquired s t

/-- The same as EngAlone, of a word that has acquired. -/
structure EngAcquired (s t : State) (sq : Seq) : Prop where
  others : ∀ q, q ≠ sq → q ≠ .control → engOf (me t) q = engOf (me s) q
  ctl : (me t).ctl = (me s).ctl
  spad : (me t).spad = (me s).spad
  cp : (me t).cp = (me s).cp
  mx : (me t).mx = (me s).mx
  acquired : Acquired s t

/-- The same, with no CSR and nothing of the synchronisation state changed. -/
structure EngQuiet (s t : State) (sq : Seq) : Prop where
  alone : EngAlone s t sq
  csr : (me t).csr = (me s).csr
  sync : (me t).sync = (me s).sync

/-- The wait of an engine sequencer is past its deadline, no poll, and settles without a trap: no gang has aborted and the timeouts in a row are not
yet TOESC (R319). -/
def EngLate (s : State) (sq : Seq) : Prop :=
  engineRuns (me s) = true ∧ sq ≠ .control ∧ gangAborted s (me s) = false ∧ escalates (me s) = false ∧
    ∃ t0 dl, (engOf (me s) sq).wait = some (t0, dl) ∧ 0 < dl ∧ dl ≤ ((me s).ctc - t0).toNat

/-- One more timeout is counted, and of the CSRs at most ESTAT has changed beside. -/
def CountedLate (s t : State) : Prop := (me t).csr = { (me s).csr with tocnt := (me s).csr.tocnt + 1, estat := (me t).csr.estat }

/-- The segment of an engine is abandoned at its current word. -/
def Abandoned (t : State) (sq : Seq) : Prop := (engOf (me t) sq).st = .ending ∧ (engOf (me t) sq).abandoned = true ∧ (engOf (me t) sq).wait = none

/-- A level of an engine holds a count and a body after the loop word, is active, and its first body word follows; the other level is as it was. -/
structure ELevelOpen (s t : State) (sq : Seq) (lev len trips : Nat) : Prop where
  count : (getELoop (engOf (me t) sq) lev).count = trips
  start : (getELoop (engOf (me t) sq) lev).start = (engOf (me s) sq).widx + 1
  len : (getELoop (engOf (me t) sq) lev).len = len
  act : (getELoop (engOf (me t) sq) lev).act = true
  other : getELoop (engOf (me t) sq) (1 - lev) = getELoop (engOf (me s) sq) (1 - lev)
  widx : (engOf (me t) sq).widx = (engOf (me s) sq).widx + 1

/-- The body of a loop word is skipped, with both levels as they were. -/
def ESkipped (s t : State) (sq : Seq) (len : Nat) : Prop :=
  (engOf (me t) sq).widx = (engOf (me s) sq).widx + 1 + len ∧ (engOf (me t) sq).loop0 = (engOf (me s) sq).loop0 ∧
    (engOf (me t) sq).loop1 = (engOf (me s) sq).loop1

end Sys2Proof.Claims

/-- R258, R71, R320, R305, R306, R308: the words that order an engine: a NOP takes its slots; SETDL writes the engine's deadline register alone; a
rendezvous word without a group passes and with its group's id stops there, and a stop past its deadline abandons its segment; a loop word
opens its level, or skips its body for a count of zero; END ends the segment and its membership once the words before it have completed. -/
def Obligations.EngineFlowWords : Prop :=
  ∀ (s : State),
    (∀ rpt, Completes (.mnop rpt) s (fun t => EngNext s t .matrix rpt.toNat ∧ EngQuiet s t .matrix) ∧
      Completes (.xnop rpt) s (fun t => EngNext s t .copy rpt.toNat ∧ EngQuiet s t .copy)) ∧
    (∀ dl : BitVec 24, ∀ e ∈ [(Instr.vsetdl dl, Seq.vector), (.msetdl dl, .matrix), (.xsetdl dl, .copy)], Completes e.1 s (fun t =>
      (engOf (me t) e.2).dl = dl.setWidth 32 ∧ EngNext s t e.2 0 ∧ EngQuiet s t e.2)) ∧
    (∀ id : BitVec 10, ∀ e ∈ [(Instr.vrdv id, Seq.vector), (.mrdv id, .matrix), (.xrdv id, .copy)],
      ((engOf (me s) e.2).group = none → Completes e.1 s (fun t => EngNext s t e.2 0 ∧ EngQuiet s t e.2)) ∧
      (∀ n, (engOf (me s) e.2).group = some n → n % 1024 = id.toNat → Completes e.1 s (fun t => (engOf (me t) e.2).st = .stopped ∧
        (engOf (me t) e.2).widx = (engOf (me s) e.2).widx ∧ (engOf (me t) e.2).wait = some ((me s).ctc, engDl (me s) e.2) ∧ EngQuiet s t e.2))) ∧
    ((engOf (me s) s.choice.sq).st = .stopped → EngLate s s.choice.sq → Completes .rendezvousStopExpiry s (fun t =>
      Abandoned t s.choice.sq ∧ CountedLate s t ∧ (me t).sync = (me s).sync ∧ EngAlone s t s.choice.sq)) ∧
    (∀ (lev : BitVec 1) (len trips : BitVec 12), ∀ e ∈ [(Instr.vloop lev len trips, Seq.vector), (.xloop lev len trips, .copy)],
      eLoopBad s e.2 lev.toNat len.toNat = false → Completes e.1 s (fun t => EngQuiet s t e.2 ∧
        (if trips = 0 then ESkipped s t e.2 len.toNat else ELevelOpen s t e.2 lev.toNat len.toNat trips.toNat))) ∧
    (∀ e ∈ [(Instr.vend, Seq.vector), (.mend, .matrix), (.xend, .copy)], endReady (me s) e.2 = true → Completes e.1 s (fun t =>
      (engOf (me t) e.2).st = .idle ∧ (engOf (me t) e.2).group = none ∧ (engOf (me t) e.2).wait = none ∧ EngAlone s t e.2 ∧ (me t).csr = (me s).csr ∧
      (∀ n, (engOf (me s) e.2).group = some n → ∀ x ∈ (me t).sync.groups, x.num = n → ∀ m ∈ x.members, m.sq = e.2 → m.ended = true)))

/-- R325, R326, R319: a set word whose earlier words have completed adds one set to its flag; a wait word whose flag has one consumes it, TOCNT ← 0; one
past its deadline returns its claim and abandons the segment, the matrix sequencer also recording TIMEOUT. -/
def Sys2Proof.Claims.EngineFlagWords : Prop :=
  ∀ (s : State) (fl : BitVec 6), flagBad (me s) fl = false →
    (∀ e ∈ [(Instr.vsetf fl, Seq.vector), (.msetf fl, .matrix), (.xsetf fl, .copy)], setReady (me (wcFlushSq s e.2)) e.2 = true →
      Completes e.1 s (fun t => FlagAlone s t fl (min ((flagV (me s) fl).toNat + 1) 0xFFFFFFFF) (flagP (me s) fl).toNat ∧ EngNext s t e.2 0 ∧
        EngAlone s t e.2 ∧ (me t).csr = (me s).csr)) ∧
    (∀ e ∈ [(Instr.vwaitf fl, Seq.vector), (.mwaitf fl, .matrix), (.xwaitf fl, .copy)],
      (gangAborted s (me s) = false → 1 ≤ (flagV (me s) fl).toNat → Completes e.1 s (fun t =>
        FlagAlone s t fl ((flagV (me s) fl).toNat - 1) (flagP (me s) fl).toNat ∧ EngNext s t e.2 0 ∧ EngAlone s t e.2 ∧
        (me t).csr = { (me s).csr with tocnt := 0 })) ∧
      (s.choice.sq = e.2 → engWaits s e.2 = true → curInstr s e.2 = some e.1 → EngLate s e.2 → (flagV (me s) fl).toNat = 0 →
        (flagP (me s) fl).toNat < 0xFFFFFFFF →
        Completes .flagWaitExpiry s (fun t => Abandoned t e.2 ∧ CountedLate s t ∧ flagP (me t) fl = flagP (me s) fl + 1 ∧
          (∀ f, flagV (me t) f = flagV (me s) f) ∧ (∀ f, f ≠ fl → flagP (me t) f = flagP (me s) f) ∧
          (e.2 = .matrix → bits (me t).csr.estat 39 32 = 1) ∧ EngAlone s t e.2)))

/-- R296, R309, R294, R355: LOOPQ, VLOOPQ and XLOOPQ take their count off the head of a count queue, a DEVICE acquire; past their deadline the body is
skipped, and LQTO, VQ or XQ says so. -/
def Sys2Proof.Claims.LoopsFromCountQueues : Prop :=
  (∀ (s : State) (g : Guard) (k lv : BitVec 3) (len : BitVec 16) (n : W32) (r : List (Option W32)), guardOk (me s).ctl g = true → Fresh s →
    nests (me s).ctl (lvl lv) ((me s).ctl.pc + 8 * len.setWidth 64) = true → kqOf (me s) k = some n :: r →
    (0 < n.toNat → 0 < len.toNat → (∀ i, i ≠ lvl lv → ¬ EndsHere s i) → Completes (.loopq g k lv len) s (fun t =>
      Opened s t (lvl lv) len (n.setWidth 64) ∧ LoopsAcquired s t [lvl lv] ∧ kqOf (me t) k = r ∧ (me t).csr = { (me s).csr with tocnt := 0 })) ∧
    (n = 0 → Completes (.loopq g k lv len) s (fun t => (me t).ctl.pc = (me s).ctl.pc + 8 * len.setWidth 64 + 8 ∧ LoopsAcquired s t [] ∧
      kqOf (me t) k = r ∧ (me t).csr = { (me s).csr with tocnt := 0 }))) ∧
  (∀ (s : State) (w : CWait) (k lv : BitVec 3) (len : BitVec 16), (me s).cwait = some w → w.kind = .loopq k lv len → controlRuns (me s) = true →
    nests (me s).ctl (lvl lv) ((me s).ctl.pc + 8 * len.setWidth 64) = true → kqOf (me s) k = [] → gangAborted s (me s) = false →
    w.dl ≤ ((me s).ctc - w.t0).toNat → w.poll = false → w.e = false → escalates (me s) = false → Completes .loopqExpiry s (fun t =>
      (me t).ctl.pc = (me s).ctl.pc + 8 * len.setWidth 64 + 8 ∧ LoopsAlone s t [] ∧
      (me t).csr = { (me s).csr with tocnt := (me s).csr.tocnt + 1, lqto := true } ∧ (me t).cwait = none)) ∧
  (∀ (s : State) (lev : BitVec 1) (k : BitVec 3) (len : BitVec 12), ∀ e ∈ [(Instr.vloopq lev k len, Seq.vector, 43), (.xloopq lev k len, .copy, 44)],
    eLoopBad s e.2.1 lev.toNat len.toNat = false →
    (∀ n r, kqOf (me s) k = some n :: r → gangAborted s (me s) = false → Completes e.1 s (fun t => kqOf (me t) k = r ∧
      (if n = 0 then ESkipped s t e.2.1 len.toNat else ELevelOpen s t e.2.1 lev.toNat len.toNat n.toNat) ∧ EngAcquired s t e.2.1 ∧
      (me t).csr = { (me s).csr with tocnt := 0 })) ∧
    (s.choice.sq = e.2.1 → engWaits s e.2.1 = true → curInstr s e.2.1 = some e.1 → EngLate s e.2.1 → kqOf (me s) k = [] →
      Completes .queueLoopExpiry s (fun t => ESkipped s t e.2.1 len.toNat ∧ (me t).csr.estat.getLsbD e.2.2 = true ∧ CountedLate s t ∧ EngAlone s t e.2.1)))

/-! ## The matrix engine -/

namespace Sys2Proof.Claims

/-- A word of the matrix segment has issued, and of the executor only the matrix engine's record m is left to say; nothing elsewhere has changed. -/
structure MatWord (s t : State) (rpt : Nat) : Prop where
  eng : EngNext s t .matrix rpt
  others : (me t).ve = (me s).ve ∧ (me t).xe = (me s).xe
  ctl : (me t).ctl = (me s).ctl
  spad : (me t).spad = (me s).spad
  sync : (me t).sync = (me s).sync
  elsewhere : Frame.Elsewhere s t

/-- A configuration word has written the shadow table alone, one field of one level at most. -/
structure TableWord (s t : State) : Prop where
  word : MatWord s t 0
  mx : (me t).mx = { (me s).mx with shadow := (me t).mx.shadow }
  csr : (me t).csr = (me s).csr
  cp : (me t).cp = (me s).cp

/-- Of a table, the levels alone have changed: level lv by f, the others not. -/
def LevelAlone (x y : MTab) (lv : BitVec 3) (f : MLev → MLev) : Prop :=
  y = { x with lev := y.lev } ∧ ∀ i : Fin 6, y.lev.get i = if i.val = lv.toNat then f (x.lev.get i) else x.lev.get i

/-- Component d of a stride is inc, the others as they were. -/
def DimAlone (x y : Vector (BitVec 12) 5) (d : BitVec 3) (inc : BitVec 12) : Prop :=
  ∀ i : Fin 5, y.get i = if i.val = d.toNat then inc else x.get i

end Sys2Proof.Claims

/-- R244: each configuration word writes its fields of the shadow table in its slot, and nothing else. -/
def Obligations.MatrixTableWords : Prop :=
  ∀ (s : State) (lv role dim : BitVec 3) (trip : BitVec 24) (inc : BitVec 12) (opnd : BitVec 2) (x : BitVec 6) (unb : Bool) (fa fb : BitVec 4)
    (mode spn hsz : BitVec 2) (blk acci bank : Bool) (diag : BitVec 16),
    let old := (me s).mx.shadow
    Completes (.mlvl lv role trip) s (fun t => TableWord s t ∧ LevelAlone old (me t).mx.shadow lv (fun l => { l with role := role, trip := trip })) ∧
    Completes (.mstra lv dim inc) s (fun t => TableWord s t ∧ ∃ v : MLev → Vector (BitVec 12) 5,
      LevelAlone old (me t).mx.shadow lv (fun l => { l with stra := v l }) ∧ ∀ l, DimAlone l.stra (v l) dim inc) ∧
    Completes (.mstrb lv dim inc) s (fun t => TableWord s t ∧ ∃ v : MLev → Vector (BitVec 12) 5,
      LevelAlone old (me t).mx.shadow lv (fun l => { l with strb := v l }) ∧ ∀ l, DimAlone l.strb (v l) dim inc) ∧
    Completes (.mstrc lv dim inc) s (fun t => TableWord s t ∧ ∃ v : MLev → Vector (BitVec 12) 5,
      LevelAlone old (me t).mx.shadow lv (fun l => { l with strc := v l }) ∧ ∀ l, DimAlone l.strc (v l) dim inc) ∧
    Completes (.mbind opnd x unb) s (fun t => TableWord s t ∧ (me t).mx.shadow = { old with bind := (me t).mx.shadow.bind } ∧
      ∀ o : BitVec 2, (me t).mx.shadow.bind.get o.toFin = if o = opnd then (if unb then none else some x) else old.bind.get o.toFin) ∧
    Completes (.mfmt fa fb mode spn blk acci bank) s (fun t => TableWord s t ∧
      (me t).mx.shadow = { old with fa := fa, fb := fb, mode := mode, spn := spn, blk := blk, acci := acci, bank := bank }) ∧
    Completes (.mhld hsz diag) s (fun t => TableWord s t ∧ (me t).mx.shadow = { old with hsz := hsz, diag := diag })

/-- R249, R250, R254: MGO with a legal table and an idle nest activates the table; the nest takes its free bank for the next reduction; a tile step whose
requests have been served is consumed, an INT8 dense one adding its products modulo 2^32; a request of a step ahead records its bytes, all of them or those up to an atomic
unit's end. -/
def Obligations.MatrixReductions : Prop :=
  ∀ (s : State), let m := (me s).mx
    (∀ x, m.mgoNext = none → tableOk (me s) m.shadow = true → checkNest s m.shadow (curEng s .matrix) = .ok x → m.live = false →
      gangAborted s (me s) = false → Completes .mgo s (fun t => MatWord s t 0 ∧ (me t).csr = { (me s).csr with tocnt := 0 } ∧
        (me t).mx.active = m.shadow ∧ (me t).mx.shadow = m.shadow ∧ (me t).mx.live = true ∧ (me t).mx.idx = [0, 0, 0, 0, 0, 0] ∧
        (me t).mx.next = m.shadow.bank ∧ (me t).mx.bank0 = m.bank0 ∧ (me t).mx.bank1 = m.bank1 ∧ (∃ n, (me t).mx.mgo = some n) ∧ (me t).mx.mgoNext = none)) ∧
    (∀ a b x, nestRuns (me s) = true → (bankOf m m.next).st = .free → (bankOf m m.next).poison = false →
      checkNest s m.active (curEng s .matrix) = .ok (a, b, x) → Completes .reductionStart s (fun t => (∃ r, (me t).mx.red = some r ∧ r.a = a ∧ r.b = b ∧ r.m = x ∧ r.bank = m.next ∧ r.step = 0 ∧ r.lines = []) ∧
        (bankOf (me t).mx m.next).st = .active ∧ (bankOf (me t).mx m.next).acc = (if m.active.acci then (bankOf m m.next).acc else []) ∧
        bankOf (me t).mx (!m.next) = bankOf m (!m.next) ∧ (me t).mx.started = m.started + 1 ∧ (me t).ctl = (me s).ctl ∧
        (me t).csr = { (me s).csr with tocnt := 0 } ∧ Frame.Elsewhere s t)) ∧
    (∀ r, m.red = some r → (me s).run.live = true → (me s).run.dstop = false → tileHeld (me s) = false → 2 < s.choice.k → r.step < (level m.active 0).trip.toNat →
      missingUnit m r r.step = none → m.active.mode = 0 → m.active.spn = 0 → m.active.fa = 5 → Completes .tileFetchReturn s (fun t =>
        (∃ q, (me t).mx.red = some q ∧ q.step = r.step + 1 ∧ q.bank = r.bank ∧
          ∀ l ∈ r.lines, l.step = r.step → ∀ p, l.page = some p → p ∈ q.pins) ∧
        (∀ i j, i < 128 → j < 128 → accAt (bankOf (me t).mx r.bank).acc i j = accAt (bankOf m r.bank).acc i j +
          BitVec.ofInt 32 ((List.range 128).map (fun e => elemInt (tileElem m r 0 r.step e i) * elemInt (tileElem m r 1 r.step j e))).sum) ∧
        bankOf (me t).mx (!r.bank) = bankOf m (!r.bank) ∧ (me t).ctl = (me s).ctl ∧ Frame.Elsewhere s t)) ∧
    (∀ (r : Red) (run : Run1) (ex a : Nat) (s' : State), let k := r.step + s.choice.k
      let b := redSlot r s.choice.n
      let g := originOf m.active b s.choice.n (idxAt m k)
      let addr := elemN b g run.row (coordAt b g 0 run.e) / 2
      let all := run.n * esize2 (tFmt b) / 2
      let n := unitCut s (decide (2 ≤ tSpace b)) addr all
      m.red = some r → (me s).run.live = true → (me s).run.dstop = false → tileHeld (me s) = false → s.choice.n ∈ operands m.active → 0 < s.choice.k → s.choice.k ≤ 2 →
      k < (level m.active 0).trip.toNat → fetched r s.choice.n k s.choice.m = false → (tileRuns m r s.choice.n k)[s.choice.m]? = some run →
      partOf r s.choice.n k s.choice.m = { opnd := s.choice.n, step := k, unit := s.choice.m } → locate s b addr .read .matrix = (.ok (.spad ex a), s') →
      Completes .tileFetchReturn s (fun t => ∃ q, (me t).mx.red = some q ∧ ∃ x ∈ q.lines, x.opnd = s.choice.n ∧ x.step = k ∧ x.unit = s.choice.m ∧
        x.data = spRead (coreAt s ex) a n ∧ x.poison = spPoison (coreAt s ex) a n ∧ x.whole = decide (n = all) ∧
        (me t).ctl = (me s).ctl ∧ Frame.memory s t))

/-- R250, R257, R258, R260, R313: a reduction retires into its bank, HELD with its index record, or with poison rolls back and traps POISON, TVAL its ordinal;
MDRAIN discards the oldest retirement, or enqueues a drain command that holds it, or with nothing to drain records EMPTY; the command's read frees the
bank; MZERO clears the banks it names. -/
def Obligations.MatrixRetirementAndDrains : Prop :=
  ∀ (s : State), let m := (me s).mx
    (∀ r, m.red = some r → (level m.active 0).trip.toNat ≤ r.step → (me s).run.live = true → (me s).run.dstop = false →
      (r.poison = false → r.bad = false → (bankOf m r.bank).poison = false → m.active.mode ≠ 2 → r.closed = false → Completes .accumulatorRetirement s (fun t =>
        bankOf (me t).mx r.bank = { st := .held, acc := (bankOf m r.bank).acc, idx := m.idx, ord := m.retired } ∧
        bankOf (me t).mx (!r.bank) = bankOf m (!r.bank) ∧ (me t).mx.red = none ∧ (me t).mx.retired = m.retired + 1 ∧ (me t).mx.next = (!r.bank) ∧
        (nextIdx m.active (usedLevels m.active) (usedLevels m.active) m.idx = none → (me t).mx.live = false ∧ (me t).mx.mgo = none) ∧
        (∀ i, nextIdx m.active (usedLevels m.active) (usedLevels m.active) m.idx = some i → (me t).mx.idx = i ∧ (me t).mx.live = m.live) ∧
        (me t).csr = (me s).csr ∧ (me t).ctl = (me s).ctl ∧ Frame.Elsewhere s t)) ∧
      (r.poison = true → (me s).me.st ≠ .ending → (me s).csr.sup = false → (me s).pend = none → Completes .accumulatorRetirement s (fun t =>
        bits (me t).csr.cause 7 0 = 0x07 ∧ bits (me t).csr.cause 9 8 = 1 ∧ (me t).csr.tval = BitVec.ofNat 64 (m.started - 1) ∧
        bankOf (me t).mx r.bank = { st := .free, acc := r.start } ∧ (me t).mx.red = none ∧ (me t).frozen = true ∧ (me t).ctl.pc = (me s).csr.tvec ∧
        Frame.Elsewhere s t))) ∧
    (∀ (rpt : BitVec 6) (ch : BitVec 2) (o : Order) (dmode : BitVec 2), gangAborted s (me s) = false →
      (∀ b, oldestHeld m = some b →
        (dmode = 2 → Completes (.mdrain rpt ch o dmode false) s (fun t => MatWord s t rpt.toNat ∧ (bankOf (me t).mx b).st = .free ∧
          bankOf (me t).mx (!b) = bankOf m (!b) ∧ (me t).cp = (me s).cp ∧ (me t).csr = { (me s).csr with tocnt := 0 })) ∧
        (∀ c, dmode ≠ 2 → (bankOf m b).poison = false → captureC s (dmode == 1) = .ok c → (chanOf (me s) ch).length < 8 → Completes (.mdrain rpt ch o dmode false) s (fun t =>
          MatWord s t rpt.toNat ∧ (bankOf (me t).mx b).taken = true ∧ (bankOf (me t).mx b).st = .held ∧ bankOf (me t).mx (!b) = bankOf m (!b) ∧
          (∃ x, chanOf (me t) ch = chanOf (me s) ch ++ [x] ∧ x.td = c ∧ x.acq = o.acq ∧ x.rel = o.rel ∧ x.scope = o.scope ∧
            x.kind = .drain (dmode == 1) (if b then 1 else 0) (accInt m.active) (originOf m.active c 2 (bankOf m b).idx) none)))) ∧
      (oldestHeld m = none → m.live = false → Completes (.mdrain rpt ch o dmode false) s (fun t => MatWord s t rpt.toNat ∧
        bits (me t).csr.estat 39 32 = 8 ∧ (me t).cp = (me s).cp ∧ (∀ b, bankOf (me t).mx b = bankOf m b)))) ∧
    (∀ x rest add b int g, chanOf (me s) (BitVec.ofNat 2 s.choice.n) = x :: rest → x.kind = .drain add (if b then 1 else 0) int g none →
      (bankOf m b).taken = true → (bankOf m b).poison = false → Completes .drainTileReadDone s (fun t => (bankOf (me t).mx b).st = .free ∧
        (∃ r, chanOf (me t) (BitVec.ofNat 2 s.choice.n) = { x with kind := .drain add (if b then 1 else 0) int g (some (bankOf m b).acc) } :: r) ∧
        bankOf (me t).mx (!b) = bankOf m (!b) ∧ (me t).ctl = (me s).ctl ∧ Frame.Elsewhere s t)) ∧
    (∀ z0 z1 : Bool, gangAborted s (me s) = false → (z0 = true → m.bank0.st ≠ .active) → (z1 = true → m.bank1.st ≠ .active) →
      Completes (.mzero z0 z1) s (fun t => MatWord s t 0 ∧ (me t).csr = { (me s).csr with tocnt := 0 } ∧
        (∀ e ∈ [(z0, false), (z1, true)], if e.1 then (bankOf (me t).mx e.2).st = .free ∧ (bankOf (me t).mx e.2).acc = [] else
          bankOf (me t).mx e.2 = bankOf m e.2))) ∧
    (∀ t0 dl, m.wait = some (t0, dl) → 0 < dl → dl ≤ ((me s).ctc - t0).toNat → engineRuns (me s) = true → gangAborted s (me s) = false →
      escalates (me s) = false → m.red = none → nestWaitOver (me s) = false → Completes .matrixWaitExpiry s (fun t => Abandoned t .matrix ∧ CountedLate s t ∧
        bits (me t).csr.estat 39 32 = 1 ∧ (me t).mx.live = false ∧ (me t).ctl = (me s).ctl ∧ Frame.Elsewhere s t))

/-! ## The copy engine -/

namespace Sys2Proof.Claims

/-- The repeat has enqueued the command x at the tail of a channel, with its number, XDL and what its release covers; nothing else of the channels has
changed. -/
structure CopyQueued (s t : State) (ch : BitVec 2) (rpt : Nat) (x : CCmd) : Prop where
  chan : ∃ id before, chanOf (me t) ch = chanOf (me s) ch ++ [{ x with id := id, dl := (me s).xe.dl, before := before }]
  chans : ∀ c, c ≠ ch → chanOf (me t) c = chanOf (me s) c
  slots : (me t).cp.slots = (me s).cp.slots ∧ (me t).cp.strms = (me s).cp.strms
  eng : EngNext s t .copy rpt
  ctl : (me t).ctl = (me s).ctl
  csr : (me t).csr = (me s).csr
  spad : (me t).spad = (me s).spad

/-- Command i of a channel is y; the others of the channels and the control registers are as they were. -/
structure CmdAlone (s t : State) (ch : BitVec 2) (i : Nat) (y : CCmd) : Prop where
  cmd : chanOf (me t) ch = listSet (chanOf (me s) ch) i y
  chans : ∀ c, c ≠ ch → chanOf (me t) c = chanOf (me s) c
  ctl : (me t).ctl = (me s).ctl
  csr : (me t).csr = (me s).csr

/-- The wait of a channel's head request, at command i, has lasted the deadline that it began with, in no aborted gang (R173, R317). -/
def HeadLate (s : State) (ch : BitVec 2) (i : Nat) (x : CCmd) : Prop :=
  chansRun (me s) = true ∧ gangAborted s (me s) = false ∧ waitingCmd (me s) ch = some (i, x) ∧
    ∃ t0, x.wait = some t0 ∧ x.wdl ≤ ((me s).ctc - t0).toNat

/-- The command x cut short at its head request with TIMEOUT, unless it has met poison or an abort (R173, R174). -/
def CutAt (x y : CCmd) (n : Nat) : Prop :=
  y.cut = some n ∧ y.rd = n ∧ y.wait = none ∧ y.held = false ∧ y.kind = x.kind ∧ y.wr = x.wr ∧ y.st = (if x.st = 4 ∨ x.st = 5 then x.st else 1)

/-- The record of a handle has changed to t, and no other. -/
def EntryNow (s u : State) (h : Nat) (t : Tht) : Prop :=
  tblGet none u.tht h = some t ∧ ∀ k, k ≠ h → tblGet none u.tht k = tblGet none s.tht k

/-- Under the tensor's encryption the bytes of the page p2 are those that the page p1 held, and no other physical page's bytes have changed but
p1's and those of the pages that are freed. -/
def PageMoved (s t : State) (x : Tht) (p1 p2 : Nat) (freed : List Nat) : Prop :=
  (∀ i, i < 65536 → Frame.byteAt t (withEnc x.key x.enc (p2 * 65536) + i) = Frame.byteAt s (withEnc x.key x.enc (p1 * 65536) + i)) ∧
    ∀ a, pa50 a / 65536 ≠ p1 → pa50 a / 65536 ≠ p2 → pa50 a / 65536 ∉ freed → Frame.byteAt t a = Frame.byteAt s a

/-- The page in flight of an entry may commit from its OLD home p1 to its NEW home p2, with no write held at it. -/
def PageDue (s : State) (h : Nat) (t : Tht) (p1 p2 : Nat) : Prop :=
  h < 2 ^ 32 ∧ tblGet none s.tht h = some t ∧ mayCommit s h t = true ∧ t.dead = false ∧ Frame.LinesWhole s.ms ∧ listGet 0 t.oldp t.f = p1 ∧
    listGet 0 t.newp t.f = p2 ∧ p1 ≠ p2 ∧ p1 < 2 ^ 34 ∧ p2 < 2 ^ 34 ∧ (∀ k ∈ s.holds, ¬ (k.h.toNat = h ∧ k.page = t.f))

end Sys2Proof.Claims

/-- R171, R179 to R184, R192, R115, R116, R169: with room in its channel and its checks passed, a transfer word's repeat enqueues its command with the
slots as they stand; a slot that is not valid traps PROTECT, and one that is poisoned POISON, with nothing enqueued (R406). -/
def Obligations.CopyWordsEnqueue : Prop :=
  ∀ (s : State) (h : XH) (td ts ti : BitVec 6) (ch : BitVec 2) (o : Order) (tag : Bool) (pw : BitVec 10) (npg : BitVec 16),
    (chanOf (me s) ch).length < 8 →
    let d := slotOf (me s) td.toNat
    let b := slotOf (me s) ts.toNat
    let x := slotOf (me s) ti.toNat
    let rpt := h.rpt.toNat
    let cmd : CCmd := { td := d, ts := b, k := stepK s h, acq := o.acq, rel := o.rel, scope := o.scope }
    (slotsClean s [td, ts, ti] = .ok () →
    (checkCopy s d b tag = .ok () → Completes (.xcopy h td ts ch o tag) s (fun t =>
      CopyQueued s t ch rpt { cmd with kind := .copy, tag := tag } ∧ Frame.Elsewhere s t)) ∧
    (checkAdd s d b = .ok () → Completes (.xadd h td ts ch o) s (fun t => CopyQueued s t ch rpt { cmd with kind := .add } ∧ Frame.Elsewhere s t)) ∧
    (checkIndexed s d b x true tag = .ok () → Completes (.xgath h td ts ti ch o tag) s (fun t =>
      CopyQueued s t ch rpt { cmd with kind := .gath, ti := x, tag := tag } ∧ Frame.Elsewhere s t)) ∧
    (checkIndexed s d b x false false = .ok () → Completes (.xscat h td ts ti ch o) s (fun t =>
      CopyQueued s t ch rpt { cmd with kind := .scat, ti := x } ∧ Frame.Elsewhere s t)) ∧
    (checkFill s d tag = .ok () → ∀ bs s', plainRead .copy 1 s (paramAt (me s) pw.toNat) = (.ok bs, s') → Completes (.xfill h td ch o tag pw) s (fun t =>
      CopyQueued s t ch rpt { cmd with kind := .fill (some (field64 bs 0 8)) (paramAt (me s) pw.toNat), ts := [], tag := tag } ∧ t.ms = s'.ms)) ∧
    (useSlots s [d] = .ok () → Completes (.xdcf h td ch) s (fun t =>
      CopyQueued s t ch rpt { kind := .xdcf, td := d, k := stepK s h, rel := true, scope := 3 } ∧ Frame.Elsewhere s t)) ∧
    (tValid d = true → (ownTht s (ctxOf s) (tHandle d)).isSome = true → Completes (.xmove h td npg ch) s (fun t =>
      CopyQueued s t ch rpt { kind := .move (tHandle d) npg.toNat 0 false, td := d } ∧ Frame.Elsewhere s t)) ∧
    (tValid d = false → MayTrap s → ∀ i ∈ [Instr.xcopy h td ts ch o tag, .xadd h td ts ch o, .xgath h td ts ti ch o tag, .xscat h td ts ti ch o,
      .xfill h td ch o tag pw, .xdcf h td ch, .xmove h td npg ch], Completes i s (fun t => EngTrapped s t .copy 0x04 0))) ∧
    ((me s).cp.bad.getLsbD td.toNat = true → MayTrap s → ∀ i ∈ [Instr.xcopy h td ts ch o tag, .xadd h td ts ch o, .xgath h td ts ti ch o tag,
      .xscat h td ts ti ch o, .xfill h td ch o tag pw, .xdcf h td ch, .xmove h td npg ch], Completes i s (fun t => EngTrapped s t .copy 0x07 0))

/-- R172 to R174, R184, R103: a channel's next request: what an XFILL's next request writes enters the data queue, a data queue's next write leaves for its home; the head
command completes with its status in ESTAT; a head request that has waited XDL ends its command there with TIMEOUT. -/
def Obligations.CopyCommandSteps : Prop :=
  ∀ (s : State) (x : CCmd) (rest : List CCmd), let ch := chNo s.choice.n
    (chanOf (me s) ch = x :: rest → s.choice.m = 0 → s.choice.flag = false → (∃ v va, x.kind = .fill (some v) va) → x.acq = false →
      mayStep (me s) ch 0 false = true → x.rd < unitsOf x → queued (me s) ch < 64 → Completes .addressQueueRequest s (fun t => ∃ it : CItem,
        CmdAlone s t ch 0 { takeBack (me s) x with rd := x.rd + 1, buf := x.buf ++ [it], run := 0, got := [], wait := none } ∧
        (∀ v va r, x.kind = .fill (some v) va → listGet [] (unitList x) x.rd = [r] → 0 < r.n → tFmt x.td ≠ 4 →
          it = { at_ := rowAddr x.td (dstG x) r.row r.e, data := (List.replicate r.n (leBytes (esize2 (tFmt x.td) / 2) v.toNat)).flatten }) ∧
        Frame.Elsewhere s t)) ∧
    (∀ it more a s', chanOf (me s) ch = x :: rest → s.choice.m = 0 → s.choice.flag = true → alone x = false → x.kind ≠ .add → isDrain x = false →
      x.buf = it :: more → it.data ≠ [] → mayStep (me s) ch 0 true = true → heldPage s x (it.at_ + x.part) = none →
      locate s x.td (it.at_ + x.part) .write .copy = (.ok (.pa a), s') → Completes .addressQueueRequest s (fun t =>
        (∃ r ∈ (me t).reqs, r.pa = a ∧ r.spad = none ∧ r.sq = .copy ∧ r.kind = .store (itemPart it x.part) ∧ r.id = s'.nextId) ∧
        (∃ y, chanOf (me t) ch = y :: rest ∧ s'.nextId ∈ y.ids ∧ y.kind = x.kind ∧ y.wait = (if x.held then none else x.wait) ∧
          (if it.data.length ≤ x.part + (itemPart it x.part).length then y.buf = more ∧ y.wr = x.wr + 1 ∧ y.part = 0
           else y.buf = x.buf ∧ y.wr = x.wr ∧ y.part = x.part + (itemPart it x.part).length)) ∧ t.ms = s'.ms ∧ (me t).ctl = (me s).ctl)) ∧
    (chanOf (me s) ch = x :: rest → chansRun (me s) = true → sent x = true → tileUnread x = false → servedAll s x = true →
      Completes .copyCommandCompletion s (fun t => chanOf (me t) ch = rest ∧ (∀ c, c ≠ ch → chanOf (me t) c = chanOf (me s) c) ∧
        (x.st = 0 → (me t).csr = (me s).csr) ∧ (x.st ≠ 0 → x.st < 256 → bits (me t).csr.estat (8 * ch.toNat + 7) (8 * ch.toNat) = x.st) ∧
        (me t).ctl = (me s).ctl ∧ Frame.Elsewhere s { t with sectors := s.sectors })) ∧
    (∀ i, HeadLate s ch i x → i < (chanOf (me s) ch).length → x.kind = .copy →
      (heldAtPage s ch = false → isHeld (me s) (.chan ch.toNat) = true → Completes .commandWaitExpiry s (fun t => ∃ y, CmdAlone s t ch i y ∧ CutAt x y (if x.held then x.wr else x.rd) ∧ t.ms = s.ms)) ∧
      (heldAtPage s ch = true → x.held = true → Completes .heldWriteExpiry s (fun t => ∃ y, CmdAlone s t ch i y ∧ CutAt x y x.wr ∧
        heldAtPage t ch = false ∧ t.ms = s.ms)))

/-- R97, R100, R101, R104 to R107, R118: a tier copy engine claims the first move of the queue; a page in flight commits, its bytes at NEW and F one higher;
the last page ends the move, OLD the home it had gone to, and marks the bound contexts' HREQ; a claim passes to the engine with the fewest moves; DEMAND
halves at every millisecond. -/
def Obligations.TensorMoves : Prop :=
  ∀ (s : State) (h : Nat) (t : Tht),
    (∀ d, movesRun s = true → d < 4 → served s d false < 4 → (∀ k, k < d → 4 ≤ served s k false) → h < 2 ^ 32 → (h, t) ∈ unclaimed s →
      (∀ y ∈ unclaimed s, y ≠ (h, t) → moveBefore (h, t) y = true) → Completes .moveClaim s (fun u =>
        EntryNow s u h { t with ms := 2, claim := .tce d false, flight := true } ∧ u.ms = s.ms ∧ u.cores = s.cores)) ∧
    (∀ d p p1 p2, s.choice.n = h → PageDue s h t p1 p2 → t.claim = .tce d p →
      (t.f + 1 < t.npages → Completes .pageCommit s (fun u => PageMoved s u t p1 p2 [] ∧ EntryNow s u h { t with f := t.f + 1, flight := movesRun s })) ∧
      (t.npages ≤ t.f + 1 → p2 ∉ t.oldp → Completes .moveFinalCommit s (fun u => PageMoved s u t p1 p2 t.oldp ∧
        EntryNow s u h { t with old := t.new, f := 0, ms := 0, oldp := t.newp, newp := [], claim := .none, flight := false } ∧
        ∀ n : Fin 288, (s.cores.get n).run.live = true → (∃ e ∈ (s.cores.get n).cp.slots, (tHandle e.2).toNat = h) →
          (u.cores.get n).run.hreq = hreqAfter (decide (256 ≤ n.val)) (kAffin (nodeOf s (s.cores.get n).run.inst).ker) t.old t.new (s.cores.get n).run.hreq))) ∧
    (∀ ex ch, s.choice.n = h → h < 2 ^ 32 → tblGet none s.tht h = some t → t.claim = .chan ex ch → ex < 288 → moveCmd (coreAt s ex) (chNo ch) h = none →
      Completes .claimPass s (fun u => ∃ d, d < 4 ∧ (∀ k, k < 4 → served s d true ≤ served s k true) ∧
        EntryNow s u h { t with claim := .tce d true, flight := t.flight || movesRun s } ∧ u.ms = s.ms)) ∧
    (s.dev.halvings < s.gtc.toNat / 1000000 → Completes .demandHalving s (fun u => u.dev.halvings = s.dev.halvings + 1 ∧
      (∀ k, tblGet none u.tht k = (tblGet none s.tht k).map (fun x => { x with demand := x.demand / 2 })) ∧ u.ms = s.ms ∧ u.cores = s.cores))

/-! ## Slots, streams, and the waits of the vector and copy sequencers -/

namespace Sys2Proof.Claims

/-- Slot n holds b; a stream that was bound to it is unbound; no slot load is in progress, and the sequencer goes on. -/
structure SlotWritten (s t : State) (n : Nat) (b : List Byte) (rpt : Nat) : Prop where
  slot : slotOf (me t) n = b
  slots : ∀ k, k ≠ n → slotOf (me t) k = slotOf (me s) k
  unbound : ∀ q x, strmAt (me s) q = some x → x.t = n → strmAt (me t) q = none
  xload : (me t).cp.xload = none
  wait : (me t).xe.wait = none
  chans : ∀ c, chanOf (me t) c = chanOf (me s) c
  eng : EngNext s t .copy rpt
  ctl : (me t).ctl = (me s).ctl
  spad : (me t).spad = (me s).spad

/-- A repeat's slot load has issued: its parameter word's address, and the wait under XDL. -/
def SlotAsked (s t : State) (x : XLoad) : Prop :=
  (me t).cp = { (me s).cp with xload := some x } ∧ (me t).xe = { (me s).xe with wait := some ((me s).ctc, engDl (me s) .copy) } ∧
    (me t).ctl = (me s).ctl ∧ (me t).csr = (me s).csr ∧ Frame.Elsewhere s t

/-- The vector sequencer's segment goes on to the end of its word and is abandoned there, an ESTAT bit saying why (R204). -/
structure WordDies (s t : State) (bit : Nat) : Prop where
  abandoned : (me t).ve.abandoned = true
  running : (me t).ve.st = .running ∧ (me t).ve.rep = (me s).ve.rep ∧ (me t).ve.widx = (me s).ve.widx
  wait : (me t).ve.wait = none
  estat : (me t).csr.estat.getLsbD bit = true
  late : CountedLate s t
  sync : (me t).sync = (me s).sync
  ctl : (me t).ctl = (me s).ctl
  elsewhere : Frame.Elsewhere s t

end Sys2Proof.Claims

/-- R169, R170, R185, R186, R313: XTSRLD and XPATCH ask for their parameter word and wait; its arrival writes the slot, streams bound to it unbound; past XDL
the slot's RVALID is clear and its channel records TIMEOUT, the sequencer going on. -/
def Obligations.SlotLoads : Prop :=
  ∀ (s : State),
    (∀ (rpt x : BitVec 6) (ch : BitVec 2) (pw : BitVec 10) (h : XH) (fld : BitVec 5) (add : Bool), (me s).cp.xload = none →
      Completes (.xtsrld rpt x ch pw) s (fun t => SlotAsked s t ⟨x.toNat + (me s).xe.rep, (me s).xe.param + BitVec.ofNat 64 (8 * pw.toNat), (me s).xe.rep, none, ch⟩) ∧
      Completes (.xpatch h x fld add ch pw) s (fun t => SlotAsked s t
        ⟨x.toNat, (me s).xe.param + BitVec.ofInt 64 (8 * (pw.toNat + (me s).xe.rep * h.step.toInt)), (me s).xe.rep, some (fld.toNat, add), ch⟩)) ∧
    (∀ x s' bs, (me s).cp.xload = some x → engWaits s .copy = true → isHeld (me s) .xparam = false → plainRead .copy 1 s x.pw = (.ok bs, s') →
      (∀ f add, x.patch = some (f, add) → 1 < f → f ≤ 20 → slotsClean s' [BitVec.ofNat 6 x.t] = .ok () → tValid (slotOf (me s) x.t) = true →
        checkTsr s' (curEng s' .copy) (patched (slotOf (me s) x.t) f add (field64 bs 0 8)) = .ok () → Completes .slotLoadCompletion s (fun t =>
          SlotWritten s t x.t (patched (slotOf (me s) x.t) f add (field64 bs 0 8)) (curRpt s) ∧ (me t).csr = (me s).csr ∧ t.ms = s'.ms)) ∧
      (∀ b s'', x.patch = none → (field64 bs 0 8).toNat % 64 = 0 → plainRead .copy 8 s' (field64 bs 0 8 + BitVec.ofNat 64 (64 * x.n)) = (.ok b, s'') →
        checkTsr s'' (curEng s'' .copy) b = .ok () → Completes .slotLoadCompletion s (fun t =>
          SlotWritten s t x.t (resolve s'' (ctxOf s'') b) (curRpt s) ∧ (me t).csr = (me s).csr ∧ t.ms = s''.ms))) ∧
    (∀ x t0 dl, (me s).cp.xload = some x → (me s).xe.wait = some (t0, dl) → engineRuns (me s) = true → (me s).xe.st = .running →
      gangAborted s (me s) = false → dl ≤ ((me s).ctc - t0).toNat → (slotOf (me s) x.t).length = 64 → Completes .slotWriteExpiry s (fun t =>
        (∃ b, SlotWritten s t x.t b (curRpt s) ∧ tValid b = false ∧ b.take 63 = (slotOf (me s) x.t).take 63) ∧
        bits (me t).csr.estat (8 * x.ch.toNat + 7) (8 * x.ch.toNat) = 1 ∧ Frame.Elsewhere s t))

/-- R187, R188, R190, R203, R469: XSTRM binds a stream at position 0 where its channel carries fewer than four, and past XDL records TIMEOUT; a prefetched row
arrives behind the rows before it once its last request has returned, with the address of its poison where it met any, a clipped one as zeros. -/
def Sys2Proof.Claims.CopyStreams : Prop :=
  ∀ (s : State) (q : BitVec 4) (x : BitVec 6) (ch : BitVec 2),
    ((me s).xe.wait = none → cleanThen s [x] (checkBind s (curEng s .copy) x.toNat) = .ok () → strmCount (unbindStrm (me s) q.toNat) ch < 4 → gangAborted s (me s) = false →
      Completes (.xstrm q x ch) s (fun t => (∃ n, strmAt (me t) q.toNat = some { bind := n, slot := slotOf (me s) x.toNat, t := x.toNat, ch := ch }) ∧
        (∀ k, k ≠ q.toNat → strmAt (me t) k = strmAt (me s) k) ∧ EngNext s t .copy 0 ∧ (me t).ctl = (me s).ctl ∧ (me t).csr = (me s).csr ∧
        Frame.Elsewhere s t)) ∧
    (∀ t0 dl, engWaits s .copy = true → curInstr s .copy = some (.xstrm q x ch) → (me s).xe.wait = some (t0, dl) → gangAborted s (me s) = false →
      4 ≤ strmCount (me s) ch → dl ≤ ((me s).ctc - t0).toNat → Completes .streamBindExpiry s (fun t => (me t).cp = (me s).cp ∧
        bits (me t).csr.estat (8 * ch.toNat + 7) (8 * ch.toNat) = 1 ∧ (me t).xe.wait = none ∧ EngNext s t .copy 0 ∧ (me t).ctl = (me s).ctl ∧
        Frame.Elsewhere s t)) ∧
    (∀ b, strmAt (me s) s.choice.n = some b → strmMay (me s) b.ch = true → 0 < strmInFlight b →
      let at_ := strmRow b.slot (strmArrived b)
      let m := rowLen b.slot at_.1 at_.2
      let arrives (t : State) (v : Row) (bad : Option W64) : Prop :=
        strmAt (me t) s.choice.n = some { b with rows := b.rows ++ [(v, bad)] } ∧ (∀ k, k ≠ s.choice.n → strmAt (me t) k = strmAt (me s) k) ∧
        (me t).vec = (me s).vec ∧ (me t).ctl = (me s).ctl
      let at0 := rowAddr b.slot at_.1 at_.2 0
      ((gOut at_.1 = true ∨ m = 0) → (∀ p ∈ (me s).parts, p.at_ ≠ .strm s.choice.n) → Completes .streamRowArrival s (fun t => ∃ v : Row, (∀ i, i < 64 → lane v i = 0) ∧ arrives t v none ∧ Frame.Elsewhere s t)) ∧
      (∀ y s', gOut at_.1 = false → readWide s (.strm s.choice.n) b.bind b.slot at0 (elemBytes (tFmt b.slot) m) = (.ok (some y), s') →
        Completes .streamRowArrival s (fun t => ∃ v : Row, arrives t v (if y.poison then some (BitVec.ofNat 64 at0) else none) ∧ t.ms = s'.ms ∧
          ∀ i k, i < 64 → k < 4 → (lane v i).extractLsb' (8 * k) 8 = y.data.getD (4 * i + k) 0)) ∧
      (∀ s', gOut at_.1 = false → readWide s (.strm s.choice.n) b.bind b.slot at0 (elemBytes (tFmt b.slot) m) = (.ok none, s') →
        Completes .streamRowArrival s (fun t => t = s')))

/-- R204, R232, R234, R307, R319: the waits of the vector sequencer past their deadline. A stream read: it and the later ones of its word give zero; a tagged
access: none takes place; a stall on gathers: every pending register is written and none stays pending; each abandons the segment after
its word. A VSETA leaves its address register, and the segment ends there. -/
def Obligations.VectorWaitExpiries : Prop :=
  ∀ (s : State), (me s).ve.st = .running → EngLate s .vector →
    (∀ srcs i, (me s).ve.wfor = .stream srcs → takeRows (me s).ve srcs 0 (me s) = .error (i, false) → Completes .streamTimeout s (fun t =>
      WordDies s t 40 ∧ (me t).ve.qdead = some ((me s).ve.rep, i) ∧ (me t).vec = (me s).vec ∧ (me t).cp = (me s).cp)) ∧
    ((me s).ve.wfor = .tag → (myTag (me s) .vector).isSome = true → tagDone (me s) .vector = false → (me s).ve.tdead = false →
      Completes .tagWaitExpiry s (fun t => WordDies s t 41 ∧ (me t).ve.tdead = true ∧ myTag (me t) .vector = none ∧ (me t).vec = (me s).vec ∧
        (∀ w, spWord (me t) w = spWord (me s) w ∧ spTag (me t) w = spTag (me s) w))) ∧
    (∀ regs, (me s).ve.wfor = .gather regs false → regs.any (pendingReg (showGathers regs (me s).vec)) = true → Completes .gatherWaitExpiry s (fun t =>
      WordDies s t 42 ∧ (me t).ve.gdead = true ∧ (∀ g ∈ (me t).vec.gathers, g.load = false) ∧ (∀ n, pendingReg (me t).vec n = false) ∧
        (me t).vec.irb = (me (landVec s)).vec.irb)) ∧
    ((me s).ve.wfor = .param → (me s).vec.vload.isSome = true → Completes .vsetaExpiry s (fun t => Abandoned t .vector ∧ CountedLate s t ∧
      (me t).csr.estat.getLsbD 45 = true ∧ (me t).vec.a = (me s).vec.a ∧ (me t).vec.vload = none ∧ (me t).ctl = (me s).ctl ∧ Frame.Elsewhere s t))

/-! ## Routing and collectives -/

namespace Sys2Proof.Claims

/-- A message of a kind is in flight from this executor to another. -/
def SentTo (t : State) (ctx dst : Nat) (k : MsgKind) : Prop := ∃ m ∈ t.msgs, m.src = t.ex.val ∧ m.ctx = ctx ∧ m.dst = dst ∧ m.kind = k

/-- A message stands first of its number among those for this executor. -/
def Arriving (s : State) (m : Msg) : Prop := s.msgs.find? (fun y => y.id == s.choice.n && y.dst == s.ex.val) = some m

/-- The message has been taken out of flight. -/
def Taken (t : State) (m : Msg) : Prop := ∀ y ∈ t.msgs, y.id ≠ m.id

/-- Executor n runs the instance that armed the RAT that a late message names, or is the one whose turn it is and runs an instance of the context that has
taken its place (R285). -/
def CountsFor (s : State) (m : Msg) (h : Hdr) (n : Nat) : Prop :=
  ratHome s m.ctx h = some n ∨ (ratHome s m.ctx h = none ∧ n = s.ex.val ∧ (me s).run.live = true ∧ ctxOf s = m.ctx)

/-- The message is counted late at executor n, saturating, and nothing of its RATs has changed (R273, R285). -/
def CountedAway (s t : State) (m : Msg) (n : Nat) : Prop :=
  t.msgs = s.msgs.filter (fun y => y.id != m.id) ∧ (coreAt t n).csr2 = { (coreAt s n).csr2 with ratlate := (coreAt t n).csr2.ratlate } ∧
    (coreAt t n).csr2.ratlate.toNat = min ((coreAt s n).csr2.ratlate.toNat + 1) 0xFFFFFFFF ∧ (coreAt t n).rats = (coreAt s n).rats ∧
    (coreAt t n).ctl = (coreAt s n).ctl ∧ t.ms = s.ms

/-- The command of a channel that stands alone has ended with a status. -/
def CmdEnded (s t : State) (ch : BitVec 2) (i : Nat) (x : CCmd) (code : Nat) : Prop :=
  CmdAlone s t ch i { x with fin := true, wait := none, st := worse x.st code }

end Sys2Proof.Claims

/-- R281 to R284, R193, R170: with room in its channel, its descriptor read and its checks passed, each routing word and XCOLL enqueues its command; XROUTE's
is a DEVICE release with RRDEPTH as it stands, XCOLL's a SYSTEM acquire and release. -/
def Obligations.RoutingWordsEnqueue : Prop :=
  ∀ (s : State) (h : XH) (ts tq rpt : BitVec 6) (ch : BitVec 2) (rat ring : BitVec 4) (o : Order) (pw : BitVec 10),
    (chanOf (me s) ch).length < 8 →
    let a := slotOf (me s) ts.toNat
    let q := slotOf (me s) tq.toNat
    (slotsClean s [ts, tq] = .ok () → routeSlots s [a, q] = .ok () → 2 ≤ tRank a → tFmt a ≠ 4 → tBox a 1 ≤ 128 → tFmt q = 5 → tRank q = 2 → tBox q 0 = 64 → tBox q 1 = tBox a 1 →
      Completes (.xroute ts tq ch rat) s (fun t => Frame.Elsewhere s t ∧
        CopyQueued s t ch 0 { kind := .route rat.toNat (me s).csr2.rrdepth.toNat 0 none, ts := a, ti := q, rel := true, scope := 3 })) ∧
    (slotsClean s [ts] = .ok () → routeSlots s [a] = .ok () → tFmt a = 6 → 2 ≤ tRank a → Completes (.xrret h ts ring ch o) s (fun t => Frame.Elsewhere s t ∧
      CopyQueued s t ch h.rpt.toNat { kind := .rret ring.toNat none, ts := a, k := stepK s h, acq := o.acq, rel := o.rel, scope := o.scope })) ∧
    Completes (.xrcloseClose ring ch) s (fun t => CopyQueued s t ch 0 { kind := .ringClose ring.toNat } ∧ Frame.Elsewhere s t) ∧
    Completes (.xrcloseRelease ring ch) s (fun t => CopyQueued s t ch 0 { kind := .ringRelease ring.toNat } ∧ Frame.Elsewhere s t) ∧
    (isHeld (me s) .xparam = false → ∀ b s',
      (readDesc (paramAt (me s) pw.toNat) false s = (.ok b, s') → ratOk (b.drop 8) = true → Completes (.xratRat rat ch pw) s (fun t =>
        CopyQueued s t ch 0 { kind := .ratArm rat.toNat (b.drop 8) } ∧ t.ms = s'.ms)) ∧
      (readDesc (paramAt (me s) pw.toNat) true s = (.ok b, s') → (8 < b.length → ringOk (b.drop 8) = true) → Completes (.xratRing ring ch pw) s (fun t =>
        CopyQueued s t ch 0 { kind := .ringCfg ring.toNat (if b.length ≤ 8 then none else some (b.drop 8)) } ∧ t.ms = s'.ms)) ∧
      (readColl (paramAt (me s) pw.toNat) s = (.ok b, s') → Completes (.xcoll rpt ch pw) s (fun t =>
        CopyQueued s t ch rpt.toNat { kind := .coll (b.drop 8) (field64 b 0 8) none, acq := true, rel := true, scope := 4 } ∧ t.ms = s'.ms)))

/-- R270, R272 to R274, R277, R278, R282, R285, R474: a placement for no ring, for another context's or expert's ring, too long for its slots, or for a full
ring of which it evicts nobody, is refused; one for a ring with room is admitted behind its occupants; one for a full ring
that evicts takes the weakest occupant's slot; each is answered. An answer reaches its row; a return is written to its buffer and reaches its row, which
is settled where nothing more is outstanding; others are counted late, or wait for the instance that armed their RAT. -/
def Obligations.RoutingArrivals : Prop :=
  ∀ (s : State) (m : Msg), Arriving s m →
    (∀ n cap win hdr payload marks, m.kind = .place n cap win hdr payload marks → heldAway s m n = false → mayAdmit s m n = true →
      (ringAt (me s) n = none → Completes .placementArrival s (fun t => SentTo t m.ctx hdr.ex (.answer hdr 1) ∧ m ∉ t.msgs ∧
        (me t).rings = (me s).rings ∧ t.ms = s.ms ∧ (me t).ctl = (me s).ctl)) ∧
      (∀ r, ringAt (me s) n = some r → (m.ctx ≠ r.ctx ∨ resident (me s) = false ∨ hdr.expert.toNat ≠ ringExpert r.desc ∨
          ringSlot r.desc - 64 < payload.length ∨ (min cap (ringNslot r.desc) ≤ r.occ.length ∧ victim r hdr.gate = none)) →
        Completes .placementArrival s (fun t => SentTo t m.ctx hdr.ex (.answer hdr 1) ∧ m ∉ t.msgs ∧ (me t).rings = (me s).rings ∧ t.ms = s.ms ∧
          (me t).ctl = (me s).ctl)) ∧
      (∀ r slot out s1 s2, let h := { hdr with gtc := s.gtc }
        let va := slotVa r.desc r.win slot
        ringAt (me s) n = some r → m.ctx = r.ctx → resident (me s) = true → hdr.expert.toNat = ringExpert r.desc → payload.length ≤ ringSlot r.desc - 64 →
        ((r.occ.length < min cap (ringNslot r.desc) ∧ slot = freeSlot r ∧ out = none) ∨
          (min cap (ringNslot r.desc) ≤ r.occ.length ∧ ∃ v, victim r hdr.gate = some v ∧ slot = v.1 ∧ out = some v)) →
        (if r.held = some m.id ∧ liesIn r.at_ (va + 64) payload.length then (.ok (), s) else ringWrite s n r m va (hdrBytes h) []) = (.ok (), s1) →
        ringWrite s1 n r m (va + 64) payload marks = (.ok (), s2) → Completes .placementArrival s (fun t =>
          (∃ q, ringAt (me t) n = some q ∧ q.desc = r.desc ∧ q.win = r.win ∧ q.closed = r.closed ∧ q.held = none ∧ q.first = some (r.first.getD s.gtc) ∧
            q.ticks = (if r.occ.isEmpty then win else r.ticks) ∧
            q.occ = (match out with | none => r.occ | some v => r.occ.filter (fun o => o.1 != v.1)) ++ [(slot, h)]) ∧
          SentTo t m.ctx hdr.ex (.answer h 0) ∧ (∀ v, out = some v → SentTo t m.ctx v.2.ex (.answer v.2 2)) ∧ t.ms = s2.ms ∧ (me t).ctl = (me s).ctl))) ∧
    (∀ h what, m.kind = .answer h what → heldBack s m = false →
      (∀ y ∈ s.msgs.takeWhile (fun y => y.id != m.id), ¬ (y.src = m.src ∧ y.dst = m.dst)) →
      (∀ n, ratTakes s m.ctx h = false → CountsFor s m h n → Completes .answerArrival s (fun t => CountedAway s t m n)) ∧
      (let t0 := ratAt (me s) h.rat
       let r := listGet {} t0.rows h.row
       ratTakes s m.ctx h = true → what = 0 → t0.todo = [] → h.row < t0.rows.length → h.j < r.pos.length → listGet .none r.pos h.j = .pending →
       r.supplied = true → r.outcome = 0 → Completes .answerArrival s (fun t =>
         ratAt (me t) h.rat = { t0 with rows := listSet t0.rows h.row { r with pos := listSet r.pos h.j .placed } } ∧
         t.msgs = s.msgs.filter (fun y => y.id != m.id) ∧ (∀ k, k ≠ h.rat → ratAt (me t) k = ratAt (me s) k) ∧ (me t).ctl = (me s).ctl ∧ t.ms = s.ms))) ∧
    (∀ h data marks, m.kind = .ret h data marks → heldBack s m = false →
      (∀ n, ratTakes s m.ctx h = false → CountsFor s m h n → Completes .returnArrival s (fun t => CountedAway s t m n)) ∧
      (∀ s1, let t0 := ratAt (me s) h.rat
       let r := listGet {} t0.rows h.row
       let r' := { r with pos := listSet r.pos h.j .returned, poison := r.poison || !marks.isEmpty }
       let more (i : Nat) : Prop := i ≠ h.j ∧ (listGet .none r.pos i = .queued ∨ listGet .none r.pos i = .pending ∨ listGet .none r.pos i = .placed)
       ratTakes s m.ctx h = true → h.row < t0.rows.length → h.j < 8 → r.pos.length = 8 → listGet .none r.pos h.j = .placed →
       data.length = 4 * ratRw t0.desc → returnMay (me s) h data.length = true → r.supplied = true → r.read = true → r.outcome = 0 →
       ratWrite s h.rat (rbufVa t0.desc h.row h.j) data marks = (.ok (), s1) →
       ((∃ i, i < 8 ∧ more i) → t0.todo = [] → Completes .returnArrival s (fun t =>
         ratAt (me t) h.rat = { t0 with rows := listSet t0.rows h.row r', since := none } ∧ t.msgs = s.msgs.filter (fun y => y.id != m.id) ∧
         (∀ k, k ≠ h.rat → ratAt (me t) k = ratAt (me s) k) ∧ (me t).ctl = (me s).ctl ∧ t.ms = s1.ms)) ∧
       ((∀ i, i < 8 → ¬ more i) → (∃ k, k < t0.rows.length ∧ k ≠ h.row ∧ (listGet {} t0.rows k).supplied = true ∧ (listGet {} t0.rows k).outcome = 0) →
         Completes .returnArrival s (fun t => (ratAt (me t) h.rat).rows = listSet t0.rows h.row { r' with outcome := 1 } ∧
           t.msgs = s.msgs.filter (fun y => y.id != m.id) ∧ (∀ k, k ≠ h.rat → ratAt (me t) k = ratAt (me s) k) ∧ (me t).ctl = (me s).ctl)))) ∧
    (heldBack s m = true → (∀ n cap win hdr payload marks, m.kind ≠ .place n cap win hdr payload marks) →
      Completes .answerArrival s (fun t => t = s) ∧ Completes .returnArrival s (fun t => t = s))

/-- R274, R281, R283, R284, R195, R456: WIN closes a window; D closes a RAT, the expiry counted; XRAT and XRCLOSE past XDL end TIMEOUT; credits reach the step of
a collective, or are kept until it runs; a piece of its step is applied to BUF, its bit of MAP set, and acknowledged; 50 ms of suspend entry end the wait for collective steps. -/
def Obligations.RoutingExpiries : Prop :=
  ∀ (s : State), let n := s.choice.n
    (∀ r t0, ringAt (me s) n = some r → r.first = some t0 → resident (me s) = true → r.ticks ≠ 0 → r.ticks ≤ (s.gtc - t0).toNat → mayClose (me s) n r = true →
      Completes .windowAutoClose s (fun t =>
        ringAt (me t) n = some { r with closed := some (r.win, r.occ.length), win := r.win + 1, occ := [], first := none, ticks := 0 } ∧
        kqOf (me t) (ringKq r.desc) = kqOf (me s) (ringKq r.desc) ++ [some (BitVec.ofNat 32 r.occ.length)] ∧
        (∀ k, k ≠ ringKq r.desc → kqOf (me t) k = kqOf (me s) k) ∧ (me t).ctl = (me s).ctl ∧ Frame.Elsewhere s t)) ∧
    (∀ ch i x h row t0 d, routeCmd (me s) n = some (ch, i, x) → x.kind = .route n h row (some (t0, d)) → chansRun (me s) = true → (ratAt (me s) n).closed = false →
      gangAborted s (me s) = false → 0 < d → d ≤ ((me s).ctc - t0).toNat →
      escalates (me s) = false → Completes .xrouteDeadlineExpiry s (fun t => (ratAt (me t) n).closed = true ∧
        (me t).csr = { (me s).csr with tocnt := (me s).csr.tocnt + 1 } ∧ (me t).ctl = (me s).ctl)) ∧
    (∀ i x k d, HeadLate s (chNo n) i x → x.kind = .ratArm k d → (ratAt (me s) k).st = 2 → Completes .ratBusyWaitExpiry s (fun t =>
      CmdEnded s t (chNo n) i x 1 ∧ (me t).rats = (me s).rats ∧ Frame.Elsewhere s t)) ∧
    (∀ i x k r, HeadLate s (chNo n) i x → x.kind = .ringClose k → ringAt (me s) k = some r → r.closed = none → mayClose (me s) k r = false → Completes .countQueueRoomExpiry s (fun t =>
      CmdEnded s t (chNo n) i x 1 ∧ (me t).rings = (me s).rings ∧ Frame.Elsewhere s t)) ∧
    (∀ ch k x d va c, s.choice.flag = false → s.choice.k ≠ 1 → colCmd (me s) n s.choice.m = some (ch, k, x, d, va, c) → mayStep (me s) ch k true = true →
      Completes .collectivePieceArrival s (fun t =>
        CmdAlone s t ch k { x with kind := .coll d va (some (grant c s.choice.v.toNat)), wait := none } ∧ Frame.Elsewhere s t)) ∧
    (s.choice.flag = false → s.choice.k ≠ 1 → colCmd (me s) n s.choice.m = none → Completes .collectivePieceArrival s (fun t =>
      (0, n, s.choice.m, s.choice.v.toNat) ∈ t.dev.early ∧ t = { s with dev := { s.dev with early := t.dev.early } })) ∧
    (∀ ch k x d va c map sent y s1 s2 s3 s4, let b := s.choice.v.toNat
      let at_ := pieceVa d (colTakes d c.step) b
      let marks : Marks := s.choice.pairs.map (fun e => (e.1, e.2.toNat))
      s.choice.flag = true → colCmd (me s) n s.choice.m = some (ch, k, x, d, va, c) → mayStep (me s) ch k true = true → b < colPieces d →
      s.choice.data.length = pieceLen d b → cprMaps s d = (.ok (map, sent), s1) →
      (map.getLsbD b = true → Completes .collectivePieceArrival s (fun t => t = colSend s1 (colPrev d) 2 (colGen d) c.step b [] [])) ∧
      (map.getLsbD b = false → (if colReduces d c.step then readMem s1 at_ s.choice.data.length else (.ok {}, s1)) = (.ok y, s2) →
        writeMem s2 ch.toNat x.id at_ (if colReduces d c.step then addPiece (colFmt d == 7) s.choice.data y.data else s.choice.data) (marks ++ y.marks) =
          (.ok (), s3) →
        cprWrite s3 x d 8 (leBytes 8 (map ||| (1 <<< b)).toNat) = (.ok (), s4) → Completes .collectivePieceArrival s (fun t =>
          CmdAlone s t ch k { x with wait := none, st := if y.poison || !marks.isEmpty then worse x.st 5 else x.st } ∧ t.ms = s4.ms ∧
          t.dev = (colSend s4 (colPrev d) 2 (colGen d) c.step b [] []).dev))) ∧
    (∀ t0, s.dev.sus.st = .entering t0 → quiesceTicks ≤ (s.gtc - t0).toNat → Completes .collectiveQuiesceExpiry s (fun t =>
      (∀ i : Fin 288, t.cores.get i = { s.cores.get i with run := { (s.cores.get i).run with quiesce := false } }) ∧ t = { s with cores := t.cores }))

/-! ## Seams, the hand-over, the expiry of a waiting word -/

namespace Sys2Proof.Claims

/-- SEAM stands in its wait in context time, its condition holds, and no gang of the launch has aborted. -/
def AtSeam (s : State) (w : CWait) (idx : Nat) : Prop :=
  (me s).cwait = some w ∧ w.kind = .seam idx ∧ contextOn (me s) = true ∧ (me s).run.dstop = false ∧ seamCond (me s) = true ∧ gangAborted s (me s) = false

/-- The hand-over of a source executor to another, whose record is written, both numbers being of executors. -/
def HandoverDue (s : State) (h : Handover) : Prop :=
  s.handovers.find? (fun x => x.src == s.choice.n) = some h ∧ h.written = true ∧ movesRun s = true ∧ h.src < 288 ∧ h.dst < 288 ∧ h.src ≠ h.dst

/-- A scratchpad word lies in a live range of a seam table entry (R86). -/
def Live (ent : List Byte) (w : Nat) : Prop := ∃ r ∈ seamRanges ent, r.1 / 8 ≤ w ∧ w < (r.1 + r.2) / 8

/-- The waiting word at the pc is this WAITC, past its deadline, whatever its predicate now (R51), and its condition does not hold. -/
def WaitcLate (s : State) (w : CWait) (g : Guard) (d c : Reg) (e : Bool) (ld st cp tl : BitVec 3) : Prop :=
  (me s).cwait = some w ∧ w.kind = .waitc ld st cp tl ∧ w.e = e ∧ (∃ x, imemWord (me s) (me s).ctl.pc = some x ∧ decodeControl x = .ok (.waitc g d c e ld st cp tl)) ∧
    controlRuns (me s) = true ∧ (me s).frozen = false ∧ w.dl ≤ ((me s).ctc - w.t0).toNat ∧
    gangAborted s (me s) = false ∧ waitcCond (me s) ld st cp tl = false

end Sys2Proof.Claims

/-- R131, R117: SEAM with a bad index traps SEAM; with its condition met it stands at its word for the seam instant, where it ends OK unless a rebind or
a hand-over is due. -/
def Sys2Proof.Claims.SeamWord : Prop :=
  ∀ (s : State) (g : Guard) (d c : Reg) (e : Bool) (idx : BitVec 14), guardOk (me s).ctl g = true → (me s).cwait = none →
    (seamBad s idx.toNat = true → (me s).csr.sup = false → Completes (.seam g d c e idx) s (fun t => Trapped s t 0x0B (idx.setWidth 64))) ∧
    (seamBad s idx.toNat = false → gangAborted s (me s) = false → seamCond (me s) = true → Completes (.seam g d c e idx) s (fun t =>
      (∃ w, me t = { me s with cwait := some w, remain := none } ∧ w.kind = .seam idx.toNat ∧ w.d = d ∧ w.e = e ∧ w.t0 = (me s).ctc) ∧
      Frame.Elsewhere s t ∧ (contextOn (me s) = true → (me s).run.dstop = false → (me s).run.hreq = .none → Completes .seamInstant t (fun u => Finished s u d 0 [])))) ∧
    (seamBad s idx.toNat = false → gangAborted s (me s) = false → seamCond (me s) = false → (me s).remain = none →
      min (dlOf s c) (me s).csr.dlmax.toNat = 0 → Completes (.seam g d c e idx) s (fun t => Ended s t d 1 [] ∧ (me t).cwait = none))

/-- R119, R124, R127: the seam instant: OK where HREQ is clear; the rebind of a Crown core, which resolves each slot with a handle anew, sets OPT and clears HREQ;
the strike of a hand-over, which reserves the Crown core, SEAM staying at its word; OK where no Crown core is free. -/
def Sys2Proof.Claims.SeamInstant : Prop :=
  ∀ (s : State) (w : CWait) (idx : Nat), AtSeam s w idx →
    ((me s).run.hreq = .none → Completes .seamInstant s (fun t => Finished s t w.d 0 [] ∧ Frame.Elsewhere s t)) ∧
    ((me s).run.hreq = .rebind → isRoot s = false → Completes .seamInstant s (fun t =>
      rd t w.d = 0 ∧ (me t).run.hreq = .none ∧ (me t).cwait = none ∧ Frame.nextWord s t ∧ Frame.regs s t [w.d] ∧ Frame.preds s t [] ∧
      (∀ k, slotOf (me t) k = if tHandle (slotOf (me s) k) = 0 then slotOf (me s) k else resolve s (ctxOf s) (slotOf (me s) k)) ∧
      (me t).csr.opt = BitVec.ofNat 2 (optOf t (ctxOf t) (me t).cp.slots) ∧ (me t).spad = (me s).spad ∧ t.ms = s.ms)) ∧
    ((me s).run.hreq = .handover → (me s).vec.dq = [] → (me s).run.preq = false → ∀ n, handoverCore s = some n → Completes .seamInstant s (fun t =>
      t.handovers = s.handovers ++ [{ src := s.ex.val, dst := n, d := w.d, idx := idx }] ∧ (me t).run.st = .handover ∧ (coreAt t n).run.st = .handover ∧
      (coreAt t n).run.reserved = true ∧ (coreAt t n).run.live = false ∧ (me t).ctl = (me s).ctl ∧ (me t).csr = { (me s).csr with tocnt := 0 } ∧
      (me t).spad = (me s).spad ∧ t.ms = s.ms)) ∧
    ((me s).run.hreq = .handover → handoverCore s = none → Completes .seamInstant s (fun t => Finished s t w.d 0 [] ∧ Frame.Elsewhere s t))

/-- R118, R121 to R124, R133, R380: the record written once the wait is over; the commit: the Crown core holds the registers, the live scratchpad ranges and
the live vector registers, its caches are empty, HOVERS counts, SEAM ends OK there and the source is free; a poisoned record cancels; the policy's request. -/
def Obligations.HandoverEvents : Prop :=
  ∀ (s : State) (h : Handover),
    (myHandover s = some h → h.written = false → ksrReady s (me s) = true → (me s).wc = [] → Completes .ksrWriteDone s (fun t =>
      myHandover t = some { h with written := true, ksr := ksrRecord s s.ex.val h.idx (seamEnt s h.idx) } ∧ (me t).run.live = false ∧ (me t).ctl = (me s).ctl ∧ (me t).csr = (me s).csr ∧
      (me t).spad = (me s).spad ∧ t.ms = s.ms ∧ ∀ n, n ≠ s.ex → t.cores.get n = s.cores.get n)) ∧
    (HandoverDue s h → h.bad = true → Completes .handoverCommit s (fun t =>
      t.handovers = s.handovers.filter (fun x => x.src != h.src) ∧ (coreAt t h.src).run.st = .running ∧ (coreAt t h.src).run.live = true ∧
      (coreAt t h.src).ctl.rd h.d = 0 ∧ (∀ r, r ≠ h.d → (coreAt t h.src).ctl.rd r = (coreAt s h.src).ctl.rd r) ∧
      (coreAt t h.src).ctl.pc = (loopEnd 4 (coreAt s h.src).ctl (coreAt s h.src).ctl.pc none []).1.pc ∧
      (coreAt t h.dst).run.st = .idle ∧ (coreAt t h.dst).run.reserved = false ∧ t.ms = s.ms)) ∧
    (HandoverDue s h → h.bad = false → (∃ r, (coreAt s h.dst).run.res = some r ∧ r.image = (coreAt s h.src).run.inst.image) →
      let ent := execHandoverCommit.asEx' s h.src seamEnt h.idx
      let a := coreAt s h.src
      Completes .handoverCommit s (fun t => let b := coreAt t h.dst
        t.handovers = s.handovers.filter (fun x => x.src != h.src) ∧ (coreAt t h.src).run.st = .idle ∧ (coreAt t h.src).run.live = false ∧
        b.run.st = .running ∧ b.run.live = true ∧ b.run.inst = a.run.inst ∧ b.run.hreq = .none ∧
        b.ctl.rd h.d = 0 ∧ (∀ r, r ≠ h.d → b.ctl.rd r = a.ctl.rd r) ∧ (∀ p, b.ctl.rdP p = a.ctl.rdP p) ∧
        b.ctl.pc = (loopEnd 4 a.ctl a.ctl.pc none []).1.pc ∧ b.csr.hovers.toNat = min (a.csr.hovers.toNat + 1) 0xFFFF ∧ b.l1 = [] ∧ b.tlb = [] ∧
        (∀ w, w < 262144 → (Live ent w → spWord b w = spWord a w ∧ spTag b w = spTag a w) ∧ (¬ Live ent w → spWord b w = 0 ∧ spTag b w = false)) ∧
        (∀ r ∈ seamVregs ent, vreg b.vec r = vreg a.vec r) ∧ t.ms = s.ms)) ∧
    (s.dev.sched.hopol = true → isRoot s = true → (me s).run.live = true → (me s).run.st = .running → kAffin (myKernel s) ≠ 1 →
      (∃ e ∈ (me s).cp.slots, (ownTht s (ctxOf s) (tHandle e.2)).isSome = true) →
      (∀ e ∈ (me s).cp.slots, ∀ x, ownTht s (ctxOf s) (tHandle e.2) = some x → 1 ≤ x.old) → (∃ n, n < 256 ∧ freeEx s n = true) →
      Completes .handoverPolicy s (fun t => t = setMe s { me s with run := { (me s).run with hreq := .handover } }))

/-- R317, R319: the expiry of a waiting WAITC: TIMEOUT, counted unless it polls, or the DEADLINE trap where E is set or the count reaches TOESC. -/
def Sys2Proof.Claims.DeadlineExpiry : Prop :=
  ∀ (s : State) (w : CWait) (g : Guard) (d c : Reg) (e : Bool) (ld st cp tl : BitVec 3), WaitcLate s w g d c e ld st cp tl →
    (w.poll = true → Completes .deadlineExpiry s (fun t => Ended s t d 1 [] ∧ (me t).cwait = none)) ∧
    (w.poll = false → e = false → escalates (me s) = false → Completes .deadlineExpiry s (fun t =>
      rd t d = (if d = 0 then 0 else 1) ∧ (me t).csr = { (me s).csr with tocnt := (me s).csr.tocnt + 1 } ∧ (me t).cwait = none ∧
      Frame.nextWord s t ∧ Frame.regs s t [d] ∧ Frame.preds s t [] ∧ Frame.Elsewhere s t)) ∧
    (w.poll = false → (e = true ∨ escalates (me s) = true) → (me s).csr.sup = false → Completes .deadlineExpiry s (fun t =>
      bits (me t).csr.cause 7 0 = 0x06 ∧ (me t).csr.epc = (me s).ctl.pc ∧ (me t).csr.tocnt = 0 ∧ (me t).csr.sup = true ∧
      (me t).ctl.pc = (me s).csr.tvec ∧ (me t).cwait = none ∧ Frame.regs s t [] ∧ Frame.preds s t [] ∧ Frame.Elsewhere s t))

/-! ## The attention decode engines -/

namespace Sys2Proof.Claims

/-- A TreeSum operand list of R39: 64 slots, those past the chunk's n keys at −0.0. -/
def chunkSlots (n : Nat) (f : Nat → W32) : List W32 := (List.range 64).map (fun j => if j < n then f j else 0x80000000)

/-- One chunk of R39 takes a head from h to h'. ks and vs are the key and value rows of the chunk's keys, sc their scores. -/
structure ChunkOf (scale : W32) (q : List Fp) (ks vs : List (List Fp)) (sc : List W32) (h h' : AdeHead) : Prop where
  scores : sc = ks.map (fun k => f32Mul (encF32 (Fp.sum ((q.zip k).map (fun (p : Fp × Fp) => Fp.mul p.1 p.2)))) scale)
  max : h'.m = sc.foldl f32Max h.m
  sum : let alpha : W32 := if h'.m = 0xFF800000 then 0x3F800000 else f32Exp2 (f32Sub h.m h'.m)
        let p (j : Nat) : W32 := if h'.m = 0xFF800000 then 0 else f32Exp2 (f32Sub (listGet 0 sc j) h'.m)
        h'.l = f32Fma h.l alpha (tree f32Add 6 (chunkSlots ks.length p)) ∧ h'.o.length = h.o.length ∧
        ∀ d, d < h.o.length → listGet 0 h'.o d = f32Fma (listGet 0 h.o d) alpha
          (tree f32Add 6 (chunkSlots ks.length (fun j => encF32 (Fp.mul (decF32 (p j)) (listGet (.fin false 0 0) (listGet [] vs j) d)))))

/-- The sectors of the chunk in progress: those that the engine has read, and the others as it reads them now. -/
def sectorsNow (s : State) (a : Ade) : List (List Byte × Bool) := a.got ++ ((chunkSectors a).drop a.got.length).map (sectorRead s a)

/-- The decoded rows of the keys (false) or values of the chunk in progress, from its sectors l, those of the keys first. -/
def adRows (a : Ade) (v : Bool) (l : List (List Byte × Bool)) : List (List Fp) :=
  let first := if v then (chunkKeys a).length * rowSectors a.cmd false else 0
  (List.range (chunkKeys a).length).map (fun i =>
    rowElems (((l.drop (first + i * rowSectors a.cmd v)).take (rowSectors a.cmd v)).flatMap (fun x => x.1)) (adBytes a.cmd v) (adDim a.cmd))

/-- The first candidate for dispatch is a STEM node whose command b is read and whose engine is free. -/
def StemFirst (s : State) (c : Cand) (b : List Byte) (l : Launch) : Prop :=
  dispatchRuns s = true ∧ (∃ r, candidates s = c :: r) ∧ c.idx = none ∧ tblGet none s.launches c.place = some l ∧ c.node < l.nodes.length ∧
    (listGet {} l.nodes c.node).typ = 2 ∧ (ctxRead s l.ctx (listGet {} l.nodes c.node).argb 128).1 = some b ∧ tblGet none s.ades (adeOf s l.ctx b) = none

/-- A node of a launch. -/
def nodeAt (s : State) (place node : Nat) : Node := listGet {} (launchAt s place).nodes node

end Sys2Proof.Claims

/-- R140, R141: the dispatch of a STEM node: its engine takes the command, at −∞ and zero for every head, or with the cause of the first check that fails. -/
def Sys2Proof.Claims.AttentionDispatch : Prop :=
  ∀ (s : State) (c : Cand) (b : List Byte) (l : Launch), StemFirst s c b l →
    let code := adCheck s l.ctx b
    (adIllegal b = true → code = 0x01) ∧
    (adIllegal b = false → (adForeign s l.ctx (adK b) = true ∨ adForeign s l.ctx (adV b) = true) → code = 0x04) ∧
    Completes .adeDispatch s (fun t => (nodeAt t c.place c.node).running = 1 ∧ (nodeAt t c.place c.node).nextWid = 1 ∧ t.cores = s.cores ∧
      (code ≠ 0 → tblGet none t.ades (adeOf s l.ctx b) =
        some { launch := c.place, node := c.node, ctx := l.ctx, root := rootOf s l.ctx, key := keyOf s l.ctx, cmd := b, cause := code }) ∧
      (code = 0 → ∃ q hs, tblGet none t.ades (adeOf s l.ctx b) =
          some { launch := c.place, node := c.node, ctx := l.ctx, root := rootOf s l.ctx, key := keyOf s l.ctx, cmd := b, q := q, heads := hs } ∧
        hs.length = adHeads b ∧ ∀ h ∈ hs, h.m = 0xFF800000 ∧ h.l = 0 ∧ h.o = List.replicate (adDim b) 0))

/-- R39, R102, R142, R144, R145, R349, R469: the engine reads the next sectors of the chunk in progress and, with the last of them, makes the chunk by R39's
arithmetic, keeping poison; a sector comes from the tensor's cells, and of a tensor that is no longer registered it is zeros (the model's choice, log 111); the
command of a context that has ended makes none, nor does any while a suspend is entering or in force. -/
def Sys2Proof.Claims.AttentionChunk : Prop :=
  ∀ (s : State) (a : Ade), tblGet none s.ades s.choice.n = some a →
    (a.aborted = true ∨ movesRun s = false → Completes .adeChunkDone s (fun t => t = s)) ∧
    (∀ e, ((ownTht s a.ctx (if e.1 then adV a.cmd else adK a.cmd)) = none → sectorRead s a e = (zeros 32, false)) ∧
      (∀ x, ownTht s a.ctx (if e.1 then adV a.cmd else adK a.cmd) = some x → (sectorRead s a e).1.length = 32 ∧
        (∀ i, i < 32 → (sectorRead s a e).1.getD i 0 = cellByte s.ms (tensorPa x (e.2 + i))) ∧
        ((sectorRead s a e).2 = true ↔ ∃ i, i < 32 ∧ memPoison s.ms (tensorPa x (e.2 + i)) = true))) ∧
    (let left := (chunkSectors a).drop a.got.length
     let n := takeSectors s left.length
     adeMay s a = true → n < left.length → Completes .adeChunkDone s (fun t => t = { s with ades := t.ades } ∧
      tblGet none t.ades s.choice.n = some { a with got := a.got ++ (left.take n).map (sectorRead s a) })) ∧
    (let left := (chunkSectors a).drop a.got.length
     adeMay s a = true → a.head < a.heads.length → left ≠ [] → takeSectors s left.length = left.length →
     Completes .adeChunkDone s (fun t => t = { s with ades := t.ades } ∧
      ∃ h' sc, let h := listGet {} a.heads a.head
        let l := sectorsNow s a
        ChunkOf (adScale a.cmd) ((List.range (adDim a.cmd)).map (fun d => decF32 (BitVec.ofNat 32 (field a.q (4 * (a.head * adDim a.cmd + d)) 4))))
          (adRows a false l) (adRows a true l) sc h h' ∧
        h'.poison = (h.poison || l.any (fun x => x.2)) ∧
        tblGet none t.ades s.choice.n = some { a with
          got := []
          heads := listSet a.heads a.head h'
          head := if adKeys a.cmd ≤ 64 * (a.chunk + 1) then a.head + 1 else a.head
          chunk := if adKeys a.cmd ≤ 64 * (a.chunk + 1) then 0 else a.chunk + 1 }))

/-- R143, R144, R145, R39, R349: the end of a command: one that failed a check, or whose context has ended, writes nothing but its status record, and the node faults (FAULTED,
the cause byte and the keys processed of one that did not finish are the model's choices, log 93 to 95); with every head done the
contexts O / L are written, sectors at a time; once all are, with no head poisoned the node is done, and with one it faults. -/
def Sys2Proof.Claims.AttentionEnd : Prop :=
  ∀ (s : State) (a : Ade) (l : Launch), tblGet none s.ades s.choice.n = some a → movesRun s = true → tblGet none s.launches a.launch = some l →
    a.node < l.nodes.length →
    ((a.cause ≠ 0 ∨ a.aborted = true) → (∀ h ∈ a.heads, h.poison = false) → Completes .adeCompletion s (fun t =>
      tblGet none t.ades s.choice.n = none ∧ (nodeAt t a.launch a.node).faulted = true ∧ (nodeAt t a.launch a.node).running = 0 ∧
      (l.fault = none → (launchAt t a.launch).fault = some (a.node, a.cause)) ∧ (stOk s a = false → t.ms = s.ms) ∧
      (stOk s a = true → ∀ x s1, rootTranslate s a.root a.key (adSt a.cmd) .write = (.ok x, s1) → Frame.LinesWhole s1.ms → pa50 x.pa + 16 ≤ 2 ^ 51 →
        (∀ i, i < 16 → Frame.byteAt t (x.pa + i) = (adeRecord (if a.cause ≠ 0 then 6 else 4) a.cause 0 (adeKeys a) s.gtc).getD i 0) ∧ Frame.memoryBut s1 t x.pa 16))) ∧
    (a.cause = 0 → a.aborted = false → adHeads a.cmd ≤ a.head →
      let left := outSectors a - a.out
      let n := takeSectors s left
      (n < left → Completes .adeCompletion s (fun t => t.ms = (writeHeads s a a.out n).ms ∧ t.launches = s.launches ∧
        tblGet none t.ades s.choice.n = some { a with out := a.out + n })) ∧
      (n = left → (∀ h ∈ a.heads, h.poison = false) → Completes .adeCompletion s (fun t =>
        tblGet none t.ades s.choice.n = none ∧ (nodeAt t a.launch a.node).done = true ∧
        (nodeAt t a.launch a.node).faulted = (listGet {} l.nodes a.node).faulted ∧ (adSt a.cmd = 0 → t.ms = (writeHeads s a a.out n).ms))) ∧
      (n = left → (∃ h ∈ a.heads, h.poison = true) → Completes .adeCompletion s (fun t =>
        tblGet none t.ades s.choice.n = none ∧ (nodeAt t a.launch a.node).faulted = true ∧ (nodeAt t a.launch a.node).running = 0 ∧
        (l.fault = none → (launchAt t a.launch).fault = some (a.node, 7)) ∧ (adSt a.cmd = 0 → t.ms = (writeHeads s a a.out n).ms)))) ∧
    (∀ (h : AdeHead) (d : Nat), d < h.o.length →
      listGet 0 (headOut h) d = if h.l = 0 ∨ h.l = 0x80000000 then 0 else f32Div (listGet 0 h.o d) h.l)

/-! ## Launches, dispatch, kernel entry, completion -/

namespace Sys2Proof.Claims

/-- Node i is dispatched by the first candidate with an executor: its next instance, to executor ex. -/
def DispatchDue (s : State) (c : Cand) (ex : Nat) (l : Launch) : Prop :=
  movesRun s = true ∧ nextDispatch (refill (sweepGroups s)) = some (c, ex) ∧ ex < 288 ∧ tblGet none s.launches c.place = some l ∧ c.node < l.nodes.length

/-- The bytes of a completion record (R384). -/
def completionBytes (s : State) (l : Launch) (st cause fnode miss : Nat) : List Byte :=
  leBytes 1 st ++ leBytes 1 cause ++ leBytes 2 fnode ++ leBytes 2 miss ++ zeros 2 ++ leBytes 4 l.gen.toNat ++ zeros 4 ++
    leBytes 8 ((l.nodes.map (fun (n : Node) => if n.typ = 2 then 0 else n.halted)).sum) ++ leBytes 8 s.gtc.toNat

/-- Of a launch only the pool parts of its nodes have changed (R373). -/
def SameButPool (x y : Option Launch) : Prop :=
  let bare (l : Launch) : Launch := { l with nodes := l.nodes.map (fun n => { n with part := none }) }
  x.map bare = y.map bare

/-- The status, cause and node of a record: a refused launch, a fault, or none. -/
def recordFields (l : Launch) : Nat × Nat × Nat :=
  match l.refused, l.fault with
  | some i, _ => (7, 0, i)
  | none, some (n, c) => (6, c, n)
  | none, none => (0, 0, 0xFFFF)

end Sys2Proof.Claims

/-- R369, R371, R446, R456: a doorbell appends its descriptor, or is dropped and counted where the queue is full or a suspend refuses; acceptance takes the oldest descriptor: one
that cannot be read is refused, and one whose nodes pass every check becomes a launch whose nodes without edges are ready. -/
def Sys2Proof.Claims.LaunchQueue : Prop :=
  ∀ s : State,
    (∀ x, s.choice.n < 1024 → ctxAt s s.choice.n = some x → hostServed s = true → s.lqueue.length < 256 → Completes .launchDoorbell s (fun t =>
      t.lqueue = s.lqueue ++ [⟨s.choice.n, s.choice.v, x.gen, none⟩] ∧ t.launches = s.launches ∧ t.cores = s.cores ∧ t.ms = s.ms ∧ t.dev = s.dev ∧
      ctxAt t s.choice.n = some { x with gen := if x.gen + 1 = 0 then 1 else x.gen + 1 })) ∧
    (s.choice.n < 1024 → (hostServed s = false ∨ ctxAt s s.choice.n = none ∨ 256 ≤ s.lqueue.length) → Completes .launchDoorbell s (fun t =>
      t.lqueue = s.lqueue ∧ tblGet 0 t.dev.lqdrop s.choice.n = min 0xFFFFFFFF (tblGet 0 s.dev.lqdrop s.choice.n + 1) ∧ t.cores = s.cores ∧ t.ctxs = s.ctxs)) ∧
    (∀ e r p, s.lqueue = e :: r → freePlace s = some p → queueServed s = true → s.dev.sec.lcs ≠ 4 →
      let s0 := { s with lqueue := r, nextId := s.nextId + 1 }
      ((ctxRead s0 e.ctx e.va 64).1 = none → Completes .launchAccept s (fun t => t.lqueue = r ∧
        ∃ l, tblGet none t.launches p = some l ∧ l.refused = some 0xFFFF ∧ l.ctx = e.ctx ∧ l.gen = e.gen)) ∧
      (∀ b s1 img ns s2, ctxRead s0 e.ctx e.va 64 = (some b, s1) → e.va.toNat % 64 = 0 → descOk b = true → imageOf s1 e.ctx (field64 b 0 8) = some img →
        readNodes e.ctx img (field64 b 8 8) (field b 16 2) s1 0 = (ns, s2) → (∀ x ∈ ns, kGang x.1.ker = false) → refusal s2 e.ctx b ns (some []) = none →
        Completes .launchAccept s (fun t => t.lqueue = r ∧
          (∃ l, tblGet none t.launches p = some l ∧ l.refused = none ∧ l.ctx = e.ctx ∧ l.gen = e.gen ∧ l.image = field64 b 0 8 ∧ l.accepted = s.nextId ∧
            l.nodes.length = ns.length ∧ ∀ i, i < ns.length → (listGet {} l.nodes i).left = (listGet ({}, false) ns i).1.left ∧
              ((listGet {} l.nodes i).left = 0 → (listGet {} l.nodes i).ready = true)) ∧
          (∀ n q va, e.spawn = some n → n < 288 → (coreAt s n).pend = some q → q.kind = .spawn va →
            (coreAt t n).pend = some { q with kind := .value (BitVec.ofNat 64 (e.gen.toNat * 2 ^ 32)) false }))))

/-- R374, R375, R378, R404: dispatch of the first candidate that an executor may run: the next instance of its node, its boot mailbox written, or a pre-empted
instance with its image; and the host's own boot. -/
def Sys2Proof.Claims.DispatchAndBoot : Prop :=
  ∀ s : State,
    (∀ (c : Cand) (ex : Nat) (l : Launch), DispatchDue s c ex l → let n := listGet {} l.nodes c.node
     c.idx = none → (kCluster n.ker = false ∨ onRoot (refill (sweepGroups s)) n = true) → Completes .dispatch s (fun t => let r := (coreAt t ex).run
       r.inst = ⟨c.place, c.node, BitVec.ofNat 64 n.nextWid, l.ctx, l.image, n.kidx, n.argb⟩ ∧ r.live = true ∧
       r.st = (if (∃ x, (coreAt s ex).run.res = some x ∧ x.image = l.image) then .entering else .loading) ∧
       r.mailbox = leBytes 8 l.image.toNat ++ leBytes 8 (BitVec.ofNat 64 n.nextWid).toNat ++ leBytes 8 n.argb.toNat ++ leBytes 4 n.kidx ++ leBytes 4 (if 1024 ≤ c.place then 0 else c.place) ∧
       (nodeAt t c.place c.node).nextWid = n.nextWid + 1 ∧ (nodeAt t c.place c.node).running = n.running + 1 ∧ t.ms = s.ms)) ∧
    (∀ (c : Cand) (ex : Nat) (l : Launch) i x, DispatchDue s c ex l → c.idx = some i → s.stopped[i]? = some x → x.core.run.group = none → Completes .dispatch s (fun t =>
      (coreAt t ex).run.st = .restoring ∧ (coreAt t ex).run.live = true ∧ (coreAt t ex).ctl = x.core.ctl ∧ (coreAt t ex).csr = x.core.csr ∧
      (coreAt t ex).spad = x.core.spad ∧ (coreAt t ex).vec = x.core.vec ∧ (∀ y, y ∈ t.stopped ↔ y ∈ s.stopped ∧ y.inst ≠ x.inst) ∧ t.ms = s.ms)) ∧
    (∀ img, let b := s.choice.data
      let n := s.choice.n
      tblGet none s.images (field b 0 8) = some img → n < 288 → bootable s n = true → movesRun s = true → s.dev.sec.lcs ≠ 4 → field b 24 4 < img.kernels.length →
        let ker := listGet [] img.kernels (field b 24 4)
        Completes .bootMailboxWrite s (fun t =>
        (coreAt t n).run.inst = ⟨1024 + n, 0, field64 b 8 8, img.ctx, field64 b 0 8, field b 24 4, field64 b 16 8⟩ ∧ (coreAt t n).run.live = true ∧
        (∃ l, tblGet none t.launches (1024 + n) = some l ∧ l.ctx = img.ctx ∧ l.compl = kCompl ker ∧ (listGet {} l.nodes 0).argsz = kArgsz ker) ∧
        (∀ k, k ≠ n → k < 288 → coreAt t k = { coreAt s k with fused := (coreAt t k).fused, l1 := (coreAt t k).l1 } ∧
          (kFuse ker = false → coreAt t k = coreAt s k)) ∧ t.ms = s.ms))

/-- R92, R224, R355, R378, R379: the overlay loader fills the instruction memories; kernel entry sets s59, s60, s61, s63 and the pc, every other register zero, no
predicate but p15 set, the supervisor registers of the context, every tag empty, zeroes the scratchpad after another context, and acquires. -/
def Sys2Proof.Claims.KernelEntry : Prop :=
  ∀ (s : State) (img : Image) (x : Ctxt), let i := (me s).run.inst
    tblGet none s.images i.image.toNat = some img → ctxAt s i.ctx = some x →
    (awake s = true → (me s).run.st = .loading → Completes .overlayLoadDone s (fun t => (me t).run.st = .entering ∧ (me t).ctl = (me s).ctl ∧
      ∃ r, (me t).run.res = some r ∧ r.image = i.image ∧ r.segs = segsOf img ∧ r.ctrl.map (fun z => z.base) = img.ctrl.map (fun z => z.base) ∧
        r.ctrl = (loadSects img.ctx img.ctrl s).1)) ∧
    (awake s = true → (me s).run.group = none → (me s).run.st = .entering → (me s).reqs = [] → (me s).wc = [] → Completes .kernelEntry s (fun t =>
      let k := listGet [] img.kernels i.kidx
      rd t 59 = i.wid ∧ rd t 60 = i.argb ∧ rd t 61 = img.got ∧ rd t 63 = (x.spwin ++ 0#21).signExtend 64 + 0x200000 ∧
      (∀ r, r ≠ 59 → r ≠ 60 → r ≠ 61 → r ≠ 63 → rd t r = 0) ∧ (∀ p, (me t).ctl.rdP p = (p == 15)) ∧ (∀ j, ((me t).ctl.loops.get j).act = false) ∧
      (me t).ctl.pc = img.base + field64 k 8 8 ∧ (me t).run.st = .running ∧ (me t).run.live = true ∧
      (me t).csr = { dlmax := x.dlmax, toesc := x.toesc, maxred := x.maxred, spwin := x.spwin, tvec := x.tvec, dbgp := x.dbgp } ∧
      (me t).csr2.ptroot = x.ptroot ∧ (∀ w, spTag (me t) w = false) ∧
      (∀ w, spWord (me t) w = if (me s).run.lastCtx = some i.ctx then spWord (me s) w else 0) ∧ (∀ r, vreg (me t).vec r = Vector.replicate 64 0) ∧
      Acquired s t))

/-- R384, R385, R473: the completion record of a launch that is refused or over: its 32 bytes at COMPL, or in the context's LFAIL registers where COMPL is
zero or does not translate; the place is free, and nodes that waited may enter the ready pool. -/
def Sys2Proof.Claims.CompletionRecord : Prop :=
  ∀ (s : State) (l : Launch), tblGet none s.launches s.choice.n = some l → awake s = true → l.gang = none →
    (l.refused ≠ none ∨ launchOver s s.choice.n l = true) →
    let b := completionBytes s l (recordFields l).1 (recordFields l).2.1 (recordFields l).2.2 0xFFFF
    (∀ x s1, l.compl ≠ 0 → l.compl.toNat % 32 = 0 → ctxTranslate s l.ctx l.compl .write = (.ok x, s1) → Frame.LinesWhole s1.ms → pa50 x.pa + 32 ≤ 2 ^ 51 →
      Completes .completionRecord s (fun t => tblGet none t.launches s.choice.n = none ∧ (∀ k, k ≠ s.choice.n → SameButPool (tblGet none s.launches k) (tblGet none t.launches k)) ∧
        (∀ i, i < 32 → Frame.byteAt t (x.pa + i) = b.getD i 0) ∧ Frame.memoryBut s1 t x.pa 32)) ∧
    ((l.compl = 0 ∨ ∃ e s1, ctxTranslate s l.ctx l.compl .write = (.error e, s1)) → Completes .completionRecord s (fun t =>
      tblGet none t.launches s.choice.n = none ∧ tblGet [] t.dev.lfail l.ctx = b ∧
      tblGet 0 t.dev.lfailcnt l.ctx = min 0xFFFFFFFF (tblGet 0 s.dev.lfailcnt l.ctx + 1) ∧ t.ms = s.ms))

/-! ## Gangs, pre-emption -/

namespace Sys2Proof.Claims

/-- The launch at the choice's place is of a gang in a state. -/
def GangAt (s : State) (l : Launch) (g : Gang) : Prop := tblGet none s.launches s.choice.n = some l ∧ l.gang = some g

/-- The launch's gang is now g, nothing else of the launch and no other launch having changed. -/
def GangNow (s t : State) (l : Launch) (g : Gang) : Prop :=
  tblGet none t.launches s.choice.n = some { l with gang := some g } ∧ (∀ k, k ≠ s.choice.n → tblGet none t.launches k = tblGet none s.launches k) ∧ t.ms = s.ms

/-- The port carries other than time traffic: it is up, between two devices with distinct numbers (R450). -/
def Carries (s : State) (i : Fin 18) : Prop := (s.dev.ports.get i).up = true ∧ (s.dev.ports.get i).timeOnly = false

/-- A flit has left by a port, with some sequence number and its CRC. -/
def LeftBy (t : State) (i : Fin 18) (f : Flit) : Prop :=
  ∃ q, (i.val, { f with seq := q, crc := Config.crc64 (flitBytes { f with seq := q }) }) ∈ t.dev.out

/-- A member of the launch runs here, and its supervisor has been sent GANG_ABORT with this TVAL. -/
def AbortRaised (s t : State) (v : W64) : Prop :=
  ∀ i : Fin 288, (s.cores.get i).run.st ≠ .idle → (s.cores.get i).run.inst.launch = s.choice.n →
    (t.cores.get i).irq = irqIns ⟨0x0A, 0, v, none, s.gtc, unitSrc 0⟩ (s.cores.get i).irq ∧ (t.cores.get i).ctl = (s.cores.get i).ctl

/-- A candidate that waits past PREDL with no executor, and the one instance that it pre-empts. -/
def PreemptDue (s : State) (c : Cand) (ex : Nat) : Prop :=
  (∃ r, candidates s = c :: r) ∧ s.dev.sched.predl.toNat * 1000 ≤ (s.gtc - c.since).toNat ∧ targetFor s c = none ∧ inProgress s c = false ∧
    victimFor s c = some ex ∧ ex < 288 ∧ (coreAt s ex).run.group = none ∧ movesRun s = true

/-- What a stop leaves of a core c in d: every register of every sequencer and engine with their loops and deadlines, the masks, slots, streams but for their
rows, nest, rings, RATs, tags and scratchpad; ESTAT, the queues of commands and requests, what waits and the debug unit apart (R41, R401). -/
def StopKeeps (c d : Core) (gtc : W64) : Prop :=
  d = { c with run := { c.run with st := .saving, preq := false, stopAt := gtc }, csr := { c.csr with estat := d.csr.estat },
               csrd := { c.csrd with slctl := d.csrd.slctl }, dbg := d.dbg, reqs := d.reqs, wc := d.wc, parts := [], parked := d.parked,
               spad := { c.spad with waiters := d.spad.waiters },
               cp := { c.cp with ch := d.cp.ch, strms := c.cp.strms.map (fun (e : Nat × Option Strm) => (e.1, e.2.map (fun (x : Strm) => { x with rows := [] }))) } }

end Sys2Proof.Claims

/-- R386, R387: a gang launch arms and sends ARM to every other device from every port that carries it; each acknowledgement within GANGDL counts, the last commits; a missing one at
GANGDL aborts with the lowest missing device and tells every device; an ABORT that arrives aborts. An abort reaches the supervisor of every member here. -/
def Obligations.GangEvents : Prop :=
  ∀ (s : State) (l : Launch) (g : Gang), GangAt s l g →
    (g.state = 0 → Completes .gangArm s (fun t => GangNow s t l { g with state := 1, armedAt := s.gtc } ∧ t.cores = s.cores ∧
      ∀ d ∈ g.devs, d ≠ s.dev.sysdev.toNat → ∀ i : Fin 18, Carries s i → LeftBy t i (gangFlit s d 1 g.id g.miss.toNat))) ∧
    (g.state = 1 → (s.gtc - g.armedAt).toNat ≤ g.dl → g.dl < 2 ^ 32 →
      ((∀ d ∈ g.devs, d ≠ s.dev.sysdev.toNat → d ∈ g.acks ++ [s.choice.m]) → Completes .gangAckArrival s (fun t =>
        GangNow s t l { g with acks := g.acks ++ [s.choice.m], state := 2 } ∧ t.cores = s.cores ∧ t.dev = s.dev)) ∧
      ((∃ d ∈ g.devs, d ≠ s.dev.sysdev.toNat ∧ d ∉ g.acks ++ [s.choice.m]) → Completes .gangAckArrival s (fun t =>
        GangNow s t l { g with acks := g.acks ++ [s.choice.m] } ∧ t.cores = s.cores ∧ t.dev = s.dev))) ∧
    (∀ d, awake s = true → g.state = 1 → g.dl < 2 ^ 32 → g.dl ≤ (s.gtc - g.armedAt).toNat → d ∈ missing s g → (∀ e ∈ missing s g, d ≤ e) → d < 65536 →
      Completes .gangDeadlineExpiry s (fun t => GangNow s t l { g with state := 3, miss := BitVec.ofNat 16 d } ∧
        AbortRaised s t (BitVec.ofNat 64 (d * 65536 + 3)) ∧
        ∀ e ∈ g.devs, e ≠ s.dev.sysdev.toNat → ∀ i : Fin 18, Carries s i → LeftBy t i (gangFlit s e 2 g.id d))) ∧
    (g.state ≠ 3 → s.choice.m < 65536 → Completes .gangAbortMessage s (fun t =>
      GangNow s t l { g with state := 3, miss := BitVec.ofNat 16 s.choice.m } ∧ AbortRaised s t (BitVec.ofNat 64 (s.choice.m * 65536 + 3)) ∧ t.dev = s.dev))

/-- R116, R367, R376, R401, R402, R404: the first candidate that has waited PREDL pre-empts its victim, whose claims on moves pass on; the stop keeps every register and the scratchpad; once its requests are served and the host has acknowledged its writes, the
image is held and the executor free; a restored instance runs on from its registers, its slots resolved anew and nothing of the last instance left in its L1. -/
def Obligations.Preemption : Prop :=
  ∀ s : State,
    (∀ c ex, PreemptDue s c ex → Completes .preemptRequest s (fun t =>
      (coreAt t ex).run.preq = true ∧ (coreAt t ex).run.pfor = some (c.place, c.node, c.wid) ∧ (coreAt t ex).ctl = (coreAt s ex).ctl ∧
      (∀ k, k ≠ ex → k < 288 → coreAt t k = coreAt s k) ∧ t = { s with cores := t.cores, tht := t.tht } ∧ ∀ h,
        (tblGet none t.tht h).map (fun x => { x with claim := .none, flight := false }) = (tblGet none s.tht h).map (fun x => { x with claim := .none, flight := false }))) ∧
    ((me s).run.preq = true → (me s).run.live = true → (me s).run.dstop = false → (me s).run.st = .running → frozenEngine (me s) = none → (me s).mx.live = false →
      atStop (me (stopAllMoves s)) = true → (me s).cwait = none → Completes .preemptStop s (fun t => StopKeeps (me s) (me t) s.gtc ∧ t.ms = s.ms ∧
        ∀ n, n ≠ s.ex → t.cores.get n = s.cores.get n)) ∧
    ((me s).run.st = .saving → (me s).reqs = [] → (me s).wc = [] → (me s).run.group = none → (∀ a ∈ s.acks, a.ex ≠ s.ex.val) → Completes .imageSaveDone s (fun t =>
      (∃ x, t.stopped = s.stopped ++ [x] ∧ x.inst = (me s).run.inst ∧ x.ex = s.ex.val ∧ x.since = (me s).run.stopAt ∧ x.dir = imageDir (me s) ∧ x.core.ctl = (me s).ctl ∧ x.core.csr = (me s).csr ∧
        x.core.spad = (me s).spad ∧ x.core.vec = (me s).vec ∧ x.core.sync = (me s).sync ∧ x.core.cp = (me s).cp ∧ x.core.mx = (me s).mx) ∧
      (me t).run.st = .idle ∧ (me t).run.live = false ∧ (me t).sync = {} ∧ t.ms = s.ms ∧ ∀ n, n ≠ s.ex → t.cores.get n = s.cores.get n)) ∧
    ((me s).run.st = .restoring → (me s).run.group = none → imageIn (me s) = true → Completes .restore s (fun t =>
      (me t).run.st = .running ∧ (me t).run.inst = (me s).run.inst ∧ (me t).ctl = (me s).ctl ∧ (me t).csr = (me s).csr ∧ (me t).csrd.bccnt = 0 ∧
      (me t).spad = (me s).spad ∧ (me t).vec = (me s).vec ∧ (me t).sync = (me s).sync ∧ (me t).rats = (me s).rats ∧
      (∀ k, slotOf (me t) k = if tHandle (slotOf (me s) k) = 0 then slotOf (me s) k else resolve s (ctxOf s) (slotOf (me s) k)) ∧
      Acquired s t))

/-! ## Errors, retirement, eviction -/

namespace Sys2Proof.Claims

/-- The choice's unit has reported no internal error with this one. -/
def NoReport (s : State) : Prop := s.choice.flag = false

/-- The executor changes, and nothing else of the machine. -/
def CoreOnly (s t : State) : Prop := t = { s with cores := t.cores } ∧ ∀ n, n ≠ s.ex → t.cores.get n = s.cores.get n

end Sys2Proof.Claims

/-- R405, R406, R407: where an uncorrectable error strikes: a memory sector, a scratchpad word, a vector or scalar register is poisoned and keeps its bits; a fatal error ends the
instance with cause POISON, once its channels are empty; a reported internal error is recorded with its unit and time. -/
def Sys2Proof.Claims.UncorrectableError : Prop :=
  ∀ s : State,
    (s.choice.flag = true → Completes .uncorrectableError s (fun t => t.dev = { s.dev with errs := s.dev.errs ++ [(s.choice.target, s.gtc)] })) ∧
    (NoReport s →
    (∀ n, n < 2 ^ 46 → s.choice.site = .memory n → Completes .uncorrectableError s (fun t => memPoison t.ms (32 * n) = true ∧ t.ms.mem = s.ms.mem ∧
      (∀ k, k < 2 ^ 46 → k ≠ n → memPoison t.ms (32 * k) = memPoison s.ms (32 * k)) ∧ t = { s with ms := t.ms })) ∧
    (∀ w, w < 262144 → s.choice.site = .spad w → Completes .uncorrectableError s (fun t => CoreOnly s t ∧
      me t = { me s with spad := { (me s).spad with poison := (me t).spad.poison } } ∧ tblGet false (me t).spad.poison w = true ∧
      ∀ k, k ≠ w → tblGet false (me t).spad.poison k = tblGet false (me s).spad.poison k)) ∧
    (∀ r, r < 768 → s.choice.site = .vreg r → Completes .uncorrectableError s (fun t => CoreOnly s t ∧
      me t = { me s with vec := { (me s).vec with vpoison := (me t).vec.vpoison } } ∧ tblGet false (me t).vec.vpoison r = true ∧
      ∀ k, k ≠ r → tblGet false (me t).vec.vpoison k = tblGet false (me s).vec.vpoison k)) ∧
    (∀ r : Reg, s.choice.site = .sreg r → Completes .uncorrectableError s (fun t => CoreOnly s t ∧
      me t = { me s with ctl := { (me s).ctl with bad := (me t).ctl.bad } } ∧ ∀ i, i < 64 → (me t).ctl.bad.getLsbD i = ((me s).ctl.bad.getLsbD i || i == r.toNat))) ∧
    (∀ n, n < 64 → s.choice.site = .tslot n → Completes .uncorrectableError s (fun t => CoreOnly s t ∧
      me t = { me s with cp := { (me s).cp with bad := (me t).cp.bad } } ∧ ∀ i, i < 64 → (me t).cp.bad.getLsbD i = ((me s).cp.bad.getLsbD i || i == n))) ∧
    (s.choice.site = .fatal → (me s).run.live = true → (me s).parked = none → ((me s).cp.ch.all (fun l => l.isEmpty)) = false → Completes .uncorrectableError s (fun t =>
      (me t).run.st = .killing ∧ (me t).run.cause = 7 ∧ (me t).cp = (me s).cp ∧ t.launches = s.launches ∧ t.ms = s.ms)) ∧
    (∀ l, s.choice.site = .fatal → (me s).run.live = true → (me s).parked = none → ((me s).cp.ch.all (fun l => l.isEmpty)) = true → tblGet none s.launches (me s).run.inst.launch = some l →
      (me s).run.inst.node < l.nodes.length → Completes .uncorrectableError s (fun t =>
        (me t).run.st = .idle ∧ (me t).run.live = false ∧ (nodeAt t (me s).run.inst.launch (me s).run.inst.node).faulted = true ∧
        (l.fault = none → (launchAt t (me s).run.inst.launch).fault = some ((me s).run.inst.node, 7)) ∧ t.ms = s.ms)))

/-- R407, R408, R11: a core that has reported three errors within a second is retired at once: absent, its instance pre-empted or, where the image cannot be written, ended; a replacement is asked for where its die has no spare left for it; a
slice waits for the next reset and asks for a replacement. R158, R153: the eviction of a line writes its dirty sectors to memory and drops it, the other sectors
reading as they fill. -/
def Sys2Proof.Claims.RetirementAndEviction : Prop :=
  ∀ s : State,
    (∀ n, s.choice.flag = false → s.choice.target = .core n → n < 256 → threeErrors s (.core n) = true → n ∉ s.dev.absent → s.handovers = [] →
      (coreAt s n).run.group = none → Completes .unitRetire s (fun t => t.dev.absent = s.dev.absent ++ [n] ∧ t.dev.retired = s.dev.retired ++ [.core n] ∧
        ((coreAt s n).run.live = true → s.choice.k = 0 → (coreAt t n).run.preq = true) ∧
        ((coreAt s n).run.live = true → s.choice.k ≠ 0 → ((coreAt s n).cp.ch.all (fun l => l.isEmpty)) = true → (coreAt t n).run.st = .idle ∧ (coreAt t n).run.live = false) ∧
        (s.dev.spares.toList[n / 64]?.getD 0 ≤ (s.dev.absent.filter (fun k => k / 64 == n / 64)).length → t.dev.sec.replaceReq = true) ∧
        ((coreAt s n).run.live = false → t.cores = s.cores))) ∧
    (∀ n, s.choice.flag = false → s.choice.target = .slice n → threeErrors s (.slice n) = true → .slice n ∉ s.dev.retired → .slice n ∉ s.dev.pendingRetire →
      Completes .unitRetire s (fun t => t.dev.pendingRetire = s.dev.pendingRetire ++ [.slice n] ∧ t.dev.sec.replaceReq = true ∧ t.dev.retired = s.dev.retired ∧
        t.cores = s.cores ∧ t.ms = s.ms)) ∧
    (∀ l, tblGet none s.ms.l2 s.choice.n = some l → l.data.length = 128 → l.sideDirty = false → Completes .l2LineEviction s (fun t =>
      tblGet none t.ms.l2 s.choice.n = none ∧ (∀ k, k ≠ s.choice.n → tblGet none t.ms.l2 k = tblGet none s.ms.l2 k) ∧ t = { s with ms := t.ms } ∧
      (∀ i, i < 128 → Frame.byteAt t (s.choice.n * 128 + i) = if l.dirty.getLsbD (i / 32) then l.data.getD i 0 else (fillLine s.ms s.choice.n).data.getD i 0) ∧
      ((∀ u, u / 2 = pa50 (s.choice.n * 128) / 128 → sameTag s.ms (encOf (s.choice.n * 128)) u = true) →
        ∀ i, i < 128 → tblGet memDefault t.ms.mem (pa50 (s.choice.n * 128) + i) =
          if l.dirty.getLsbD (i / 32) then l.data.getD i 0 else tblGet memDefault s.ms.mem (pa50 (s.choice.n * 128) + i))))

/-! ## The host interface -/

namespace Sys2Proof.Claims

/-- The ring's next command is these bytes, read and legal (R447, R448). -/
def RingNext (s : State) (b : List Byte) : Prop :=
  hostServed s = true ∧ s.dev.hcq.overrun = false ∧ s.dev.hcq.head ≠ s.dev.hcq.tail ∧ s.choice.flag = false ∧ isHost (hcqSlot s.dev.hcq) = true ∧
    b = sliceRead s.ms (hcqSlot s.dev.hcq) 64 ∧ hcqBad b = false ∧ Frame.LinesWhole s.ms ∧ pa50 (hcqSlot s.dev.hcq) + 64 ≤ 2 ^ 51

/-- The ring's command has ended: its status in byte 1 of its slot, results from byte o of it, HCQHEAD one higher, no other byte of the slot changed. -/
def RingEnded (s t : State) (status o : Nat) (results : List Byte) : Prop :=
  t.dev.hcq = { s.dev.hcq with head := s.dev.hcq.head + 1 } ∧ Frame.byteAt t (hcqSlot s.dev.hcq + 1) = BitVec.ofNat 8 status ∧
    (∀ i, i < results.length → Frame.byteAt t (hcqSlot s.dev.hcq + o + i) = results.getD i 0) ∧
    ∀ i, i < 64 → i ≠ 1 → ¬ (o ≤ i ∧ i < o + results.length) → Frame.byteAt t (hcqSlot s.dev.hcq + i) = Frame.byteAt s (hcqSlot s.dev.hcq + i)

/-- What the ring command leaves alone: executors, launches, and what the listed fields are not. -/
def RingFrame (s t : State) : Prop := t.cores = s.cores ∧ t.launches = s.launches ∧ t.images = s.images

/-- Context n has ended: the keys of its tensors are gone (R136), no executor takes it for its last one (R224), its attention decode commands stop (R145), and the rest of executors, launches
and images is as it was. -/
def ContextGone (s t : State) (n : Nat) : Prop :=
  t.launches = s.launches ∧ t.images = s.images ∧
    (∀ i : Fin 288, let r := (s.cores.get i).run
      t.cores.get i = { s.cores.get i with run := { r with lastCtx := if r.lastCtx = some n then none else r.lastCtx } }) ∧
    (∀ k, tblGet none t.tht k = (tblGet none s.tht k).map (fun x => if x.ctx = n then { x with key := 0 } else x)) ∧
    ∀ k, tblGet none t.ades k = (tblGet none s.ades k).map (fun a => if a.ctx = n then { a with aborted := true } else a)

end Sys2Proof.Claims

/-- R356, R445, R446, R448, R405: host reads of registers and of memory; a host write; the ring registers, whose base and size change only while the ring is empty; HCQTAIL in its
range, or OVERRUN; a command to the mailbox makes it busy; the clearing of OVERRUN. -/
def Sys2Proof.Claims.HostAccess : Prop :=
  ∀ s : State, let q := s.choice
    (q.flag = true → q.n = 8 → q.v.toNat % 8 = 0 → Completes .hostRead s (fun t =>
      t = { s with dev := { s.dev with hread := leBytes 8 (barRead s q.v.toNat).toNat } })) ∧
    barRead s 8 = s.dev.sysdev.setWidth 64 ∧ barRead s 0x2000 = s.dev.hcq.base ∧ (barRead s 0x2008).toNat = s.dev.hcq.size % 2 ^ 64 ∧ barRead s 0x2010 = s.dev.hcq.tail ∧ barRead s 0x2018 = s.dev.hcq.head ∧
    (q.flag = false → awake s = true → hostReaches q.v.toNat = true → q.v.toNat < 2 ^ 51 → 0 < q.n → q.n ≤ 64 → q.v.toNat % 128 + q.n ≤ 128 → Frame.LinesWhole s.ms →
      slicePoison (sliceTouch s.ms q.v.toNat q.n) q.v.toNat q.n = false →
      Completes .hostRead s (fun t => t.dev.hread = (List.range q.n).map (fun i => Frame.byteAt s (q.v.toNat + i)) ∧ t.cores = s.cores ∧ Frame.memory s t)) ∧
    (awake s = true → hostReaches q.v.toNat = true → q.v.toNat < 2 ^ 51 → Frame.LinesWhole s.ms → q.v.toNat + q.data.length ≤ 2 ^ 51 → Completes .hostWrite s (fun t =>
      (∀ i, i < q.data.length → Frame.byteAt t (q.v.toNat + i) = q.data.getD i 0) ∧ Frame.memoryBut s t q.v.toNat q.data.length ∧ t = { s with ms := t.ms })) ∧
    (q.k = 8 → q.n = 0x2000 → Completes .bar0RegisterWrite s (fun t =>
      t.dev.hcq = (if s.dev.hcq.tail = s.dev.hcq.head then { s.dev.hcq with base := q.v &&& ~~~0xFFF } else s.dev.hcq) ∧ t = { s with dev := { s.dev with hcq := t.dev.hcq } })) ∧
    (q.k = 8 → q.n = 0x2008 → Completes .bar0RegisterWrite s (fun t => t = { s with dev := { s.dev with hcq := t.dev.hcq } } ∧
      (s.dev.hcq.tail ≠ s.dev.hcq.head → t.dev.hcq = s.dev.hcq) ∧
      (s.dev.hcq.tail = s.dev.hcq.head → ∃ e, 4 ≤ e ∧ e ≤ 12 ∧ t.dev.hcq = { s.dev.hcq with size := 2 ^ e } ∧ (2 ^ e ≤ q.v.toNat ∨ e = 4) ∧ (q.v.toNat < 2 ^ (e + 1) ∨ e = 12)))) ∧
    (q.k = 8 → q.n = 0x2010 → s.dev.hcq.overrun = false → Completes .bar0RegisterWrite s (fun t =>
      t.dev.hcq = (if s.dev.hcq.head.toNat ≤ q.v.toNat ∧ q.v.toNat ≤ s.dev.hcq.head.toNat + s.dev.hcq.size then { s.dev.hcq with tail := q.v }
        else { s.dev.hcq with overrun := true }) ∧ t = { s with dev := { s.dev with hcq := t.dev.hcq } })) ∧
    (q.k = 8 → q.n = 0x3000 → s.dev.mbox.busy = false → 1 ≤ bits q.v 7 0 → bits q.v 7 0 ≤ 8 → bits q.v 7 0 ≠ 6 → bits q.v 15 8 = 0 → bits q.v 63 32 = 0 →
      s.dev.sec.fwOk = true → Completes .bar0RegisterWrite s (fun t =>
        t.dev.mbox = { s.dev.mbox with cmd := q.v, disc := false, busy := true } ∧ t = { s with dev := { s.dev with mbox := t.dev.mbox } })) ∧
    (s.dev.hcq.overrun = true → Completes .hcqerrOverrunClear s (fun t =>
      t = { s with dev := { s.dev with hcq := { s.dev.hcq with overrun := false, tail := s.dev.hcq.head } } }))

/-- R447, R448, R383, R107, R136, R145, R153, R224: the commands of the host ring: CREATE_CONTEXT with a share that its dies have left, DESTROY_CONTEXT of a context in which nothing runs,
REGISTER, whose pages are zeroed, whose entry stands at its tier and whose handle is in the slot, and DEREGISTER, after which the handle is gone, or goes with the page in flight; each
ends OK, or CLOSED. -/
def Sys2Proof.Claims.HostRingCommands : Prop :=
  ∀ (s : State) (b : List Byte), RingNext s b →
    (field b 0 1 = 1 → ∀ n, freeCtx s = some n →
      (field b 8 1 ≤ 10 → shareFits s (field b 8 1) (BitVec.ofNat 4 (field b 9 1)) = true → Completes .createContext s (fun t =>
        RingEnded s t 0 4 (leBytes 4 n) ∧ RingFrame s t ∧
        ctxAt t n = some { share := field b 8 1, dies := BitVec.ofNat 4 (field b 9 1), key := s.nextId + 1, dbgp := field b 10 1 == 1, ptroot := field64 b 16 8 &&& 0x7FFFFFFFF0000 } ∧
        ∀ k, k ≠ n → ctxAt t k = ctxAt s k)) ∧
      (10 < field b 8 1 → Completes .createContext s (fun t => RingEnded s t 7 4 [] ∧ RingFrame s t ∧ t.ctxs = s.ctxs))) ∧
    (field b 0 1 = 2 → let n := field b 4 4
      (ctxAt s n ≠ none → ctxRuns s n = false → Completes .destroyContext s (fun t => RingEnded s t 0 4 [] ∧ ContextGone s t n ∧ ctxAt t n = none ∧ ∀ k, k ≠ n → ctxAt t k = ctxAt s k)) ∧
      ((ctxAt s n = none ∨ ctxRuns s n = true) → Completes .destroyContext s (fun t => RingEnded s t 7 4 [] ∧ RingFrame s t ∧ t.ctxs = s.ctxs))) ∧
    (field b 0 1 = 3 → let ctx := field b 4 4
      let st : Option Nat := if field b 10 1 = 0xFF then none else some (field b 10 1)
      let n := (field b 16 8 + 65535) / 65536
      (∀ ps, ctxAt s ctx ≠ none → regOk s (field b 16 8) (field b 8 1) (field b 9 1) (field b 10 1) = true →
        reserved s ctx n (field b 8 1) (field b 9 1) st s.choice.list = some ps → Completes .register s (fun t =>
          let e : Tht := { ctx := ctx, size := field b 16 8, npages := n, old := field b 8 1, new := field b 8 1, oldp := ps, enc := field b 9 1, stack := st, key := keyOf s ctx }
          tblGet none t.tht ((BitVec.ofNat 32 (newHandle s s.choice.m) : W32).toNat) = some e ∧ t.launches = s.launches ∧
          t.dev.hcq = { s.dev.hcq with head := s.dev.hcq.head + 1 } ∧ Frame.byteAt t (hcqSlot s.dev.hcq + 1) = 0 ∧
          (∀ i, i < 4 → Frame.byteAt t (hcqSlot s.dev.hcq + 24 + i) = (leBytes 4 (newHandle s s.choice.m)).getD i 0) ∧ ∀ p ∈ ps, ∀ i, i < 65536 → tblGet memDefault t.ms.mem (p * 65536 + i) = 0)) ∧
        ((ctxAt s ctx = none ∨ regOk s (field b 16 8) (field b 8 1) (field b 9 1) (field b 10 1) = false ∨
            reserved s ctx n (field b 8 1) (field b 9 1) st s.choice.list = none) →
          Completes .register s (fun t => RingEnded s t 7 24 [] ∧ RingFrame s t ∧ t.tht = s.tht))) ∧
    (field b 0 1 = 4 → let h := field b 24 4
      (∀ x, ownTht s (field b 4 4) (BitVec.ofNat 32 h) = some x → x.flight = true → Completes .deregister s (fun t =>
        RingEnded s t 0 4 [] ∧ RingFrame s t ∧ tblGet none t.tht h = some { x with dead := true })) ∧
      (∀ x, ownTht s (field b 4 4) (BitVec.ofNat 32 h) = some x → x.flight = false → Completes .deregister s (fun t =>
        RingEnded s t 0 4 [] ∧ t.launches = s.launches ∧ t.images = s.images ∧ tblGet none t.tht h = none ∧ ∀ k, k ≠ h → tblGet none t.tht k = tblGet none s.tht k)) ∧
      (ownTht s (field b 4 4) (BitVec.ofNat 32 h) = none → Completes .deregister s (fun t => RingEnded s t 7 4 [] ∧ RingFrame s t ∧ t.tht = s.tht)))

/-! ## The management controller -/

namespace Sys2Proof.Claims

/-- The mailbox command has ended with a status (R462), and the rest of the mailbox is as before. -/
def MailEnded (s t : State) (status : Nat) : Prop := t.dev.mbox = { s.dev.mbox with busy := false, status := status }

/-- The device but for its listed part, and the machine around it, are as before. -/
def MachineSame (s t : State) : Prop := t = { s with dev := t.dev }

/-- A message has left by every port that carries it but one. -/
def SentOn (s t : State) (port : Nat) (f : Flit) : Prop := ∀ i : Fin 18, Carries s i → i.val ≠ port → LeftBy t i f

/-- SUSPEND(S) of this device (R458; DESIGN CHOICE, log 43). -/
def suspendFlit (s : State) (tick : W64) : Flit := { src := s.dev.sysdev, dst := 0xFFFF, cls := 2, payload := leBytes 1 1 ++ leBytes 8 tick.toNat }

/-- The mailbox runs a DEBUG command of a subcommand for a context that is open to the debug port (R435, R464). -/
def DebugDue (s : State) (sub : Nat) : Prop :=
  mailRuns s 6 = true ∧ s.dev.mbox.arg0.toNat = sub ∧ portOpen s s.dev.mbox.arg1.toNat = true

/-- Bytes stand at RESP, and no other byte of memory has changed. -/
def AtResp (s t : State) (bs : List Byte) : Prop :=
  (∀ i, i < bs.length → Frame.byteAt t (s.dev.mbox.resp.toNat + i) = bs.getD i 0) ∧ Frame.memoryBut s t s.dev.mbox.resp.toNat bs.length

/-- RESP can take n bytes. -/
def RespTakes (s : State) (n : Nat) : Prop := respOk s = true ∧ s.dev.mbox.resp.toNat + n ≤ 2 ^ 51 ∧ Frame.LinesWhole s.ms

end Sys2Proof.Claims

/-- R456 to R459, R451: the order to suspend; entry at its tick, with every running instance pre-empted; its end, with caches empty; a SUSPEND message, forwarded and obeyed; the
order to resume; the time synchronisation, once the ports have trained, that lets moves and dispatch go on; the host served last, once the pre-empted instances are redispatched. -/
def Obligations.SuspendAndResume : Prop :=
  ∀ s : State, let u := s.dev.sus
    (mailRuns s 1 = true → s.dev.power.off = false → u.st = .none → s.dev.mbox.arg1.getLsbD 0 = false → Completes .suspend s (fun t =>
      t = { s with dev := { s.dev with sus := { st := .ordered s.dev.mbox.arg0 false, order := true } } })) ∧
    (mailRuns s 1 = true → s.dev.power.off = false → u.st = .none → s.dev.mbox.arg1.getLsbD 0 = true → Completes .suspend s (fun t => MachineSame s t ∧
      t.dev.sus = { st := .ordered s.dev.mbox.arg0 true, order := true, cluster := true } ∧ SentOn s t 18 (suspendFlit s s.dev.mbox.arg0))) ∧
    (mailRuns s 1 = true → (u.st = .suspended ∨ s.dev.power.off = true) → Completes .suspend s (fun t => MailEnded s t 7 ∧ MachineSame s t ∧ t.dev.sus = u)) ∧
    (∀ tick b, u.st = .ordered tick b → tick.toNat ≤ s.gtc.toNat → Completes .suspendStart s (fun t => t.dev.sus.st = .entering s.gtc ∧
      (∀ i : Fin 288, occupied (s.cores.get i) = true → (t.cores.get i).run.preq = true) ∧ t.ms = s.ms ∧ t.launches = s.launches)) ∧
    (∀ t0, u.st = .entering t0 → entryDone s = true → u.resume = false → u.cluster = false → Completes .suspendStart s (fun t =>
      t.dev.sus.st = .suspended ∧ t.dev.sus.at_ = s.gtc ∧ (∀ k, tblGet none t.ms.l2 k = none) ∧ t.ms.dieTlb = [] ∧
      (∀ i : Fin 288, t.cores.get i = { s.cores.get i with l1 := [], tlb := [], run := { (s.cores.get i).run with res := none } }) ∧
      (u.order = true → MailEnded s t 0) ∧ (u.order = false → t.dev.mbox = s.dev.mbox))) ∧
    (u.st = .none → s.gtc.toNat < s.choice.v.toNat → Completes .suspendMessage s (fun t => MachineSame s t ∧
      t.dev.sus = { st := .ordered s.choice.v true, cluster := true } ∧
      (flitKey (suspendFlit s s.choice.v) ∉ s.dev.fwd → SentOn s t s.choice.n (suspendFlit s s.choice.v)))) ∧
    (u.st ≠ .none → Completes .suspendMessage s (fun t => MachineSame s t ∧ t.dev.sus = u)) ∧
    (mailRuns s 2 = true → u.st = .suspended → Completes .resume s (fun t => t = { s with dev := { s.dev with sus := { u with st := .resuming } } })) ∧
    (mailRuns s 2 = true → u.st = .none → Completes .resume s (fun t => MailEnded s t 7 ∧ MachineSame s t ∧ t.dev.sus = u)) ∧
    (u.st ≠ .resuming → Completes .timeSync s (fun t => t = { s with gtc := s.choice.v })) ∧
    (u.st = .resuming → portsTrained s = false → exec .timeSync s = .next s) ∧
    (u.st = .resuming → portsTrained s = true → Completes .timeSync s (fun t => t.gtc = s.choice.v ∧ t.dev.sus = { st := .restoring } ∧ t.cores = s.cores ∧ t.ms = s.ms ∧
      t.dev.mbox = s.dev.mbox ∧ ∀ k, tblGet none t.launches k = (tblGet none s.launches k).map (shiftGang (s.choice.v - u.at_).toNat))) ∧
    (u.st = .restoring → hostServed s = false ∧ (restored s = false → exec .suspendStart s = .next s) ∧
      (restored s = true → Completes .suspendStart s (fun t => MachineSame s t ∧ t.dev.sus = {} ∧
        (mailRuns s 2 = true → MailEnded s t 0) ∧ (mailRuns s 2 = false → t.dev.mbox = s.dev.mbox))))

/-- R450, R460 to R465: ATTEST writes the report and its signature at RESP; LCTOKEN and RECOVER accept what verifies and end CLOSED on what does not; SETDEV sets the number while no
context exists; READST puts MGMTST, THSTAT and RAILOP in DATA. -/
def Sys2Proof.Claims.MailboxCommands : Prop :=
  ∀ s : State, let m := s.dev.mbox
    (mailRuns s 3 = true → s.dev.sec.idKey = .held → RespTakes s ((reportBody s).length + 2420) → Completes .attest s (fun t => MailEnded s t 0 ∧ t = { s with ms := t.ms, dev := t.dev } ∧
      AtResp s t (reportBody s ++ (Config.identitySign (reportBody s) ++ zeros 2420).take 2420) ∧
      (∀ i, i < 16 → Frame.byteAt t (m.resp.toNat + i) =
        (leBytes 4 1 ++ leBytes 1 s.dev.sec.lcs.toNat ++ [0] ++ leBytes 2 s.dev.retired.length ++ leBytes 8 s.gtc.toNat).getD i 0))) ∧
    (mailRuns s 3 = true → respOk s = true → s.dev.sec.idKey ≠ .held → Completes .attest s (fun t => MailEnded s t 7 ∧ MachineSame s t)) ∧
    (mailRuns s 3 = true → respOk s = false → Completes .attest s (fun t => MailEnded s t 1 ∧ MachineSame s t)) ∧
    (mailRuns s 4 = true → let b := sliceRead s.ms m.arg0.toNat 2484
      Completes .lctoken s (fun t => MachineSame s t ∧
        if isHost m.arg0.toNat = true ∧ Config.tokenSigOk b = true ∧ field64 b 8 8 = Config.devUid ∧ allZero ((b.drop 1).take 7) = true ∧
            allZero ((b.drop 16).take 48) = true ∧ s.dev.sec.lcs.toNat < 4 ∧ field b 0 1 = s.dev.sec.lcs.toNat + 1 then
          MailEnded s t 0 ∧ t.dev.sec = { s.dev.sec with token := some (s.dev.sec.lcs + 1) }
        else MailEnded s t 7 ∧ t.dev.sec = s.dev.sec)) ∧
    (mailRuns s 5 = true → let b := sliceRead s.ms m.arg0.toNat m.arg1.toNat
      Completes .recover s (fun t => MachineSame s t ∧
        if isHost m.arg0.toNat = true ∧ Config.firmwareSigOk b = true then MailEnded s t 0 ∧ t.dev.sec = { s.dev.sec with staged := some b }
        else MailEnded s t 7 ∧ t.dev.sec = s.dev.sec)) ∧
    (mailRuns s 7 = true → (∀ e ∈ s.ctxs, e.2 = none) → m.arg0.toNat % 65536 ≠ 0xFFFF → Completes .setdev s (fun t => MailEnded s t 0 ∧ MachineSame s t ∧
      t.dev.sysdev = m.arg0.setWidth 16)) ∧
    (mailRuns s 7 = true → ((∃ e ∈ s.ctxs, e.2 ≠ none) ∨ m.arg0.toNat % 65536 = 0xFFFF) → Completes .setdev s (fun t => MailEnded s t 7 ∧ MachineSame s t ∧ t.dev.sysdev = s.dev.sysdev)) ∧
    (mailRuns s 8 = true → Completes .readst s (fun t => MachineSame s t ∧
      t.dev.mbox = { m with busy := false, status := 0, data := leBytes 8 (csrRead s 0x604).toNat ++ leBytes 8 (csrRead s 0x602).toNat ++ leBytes 8 (csrRead s 0x600).toNat }))

/-- R435, R462, R464: the debug port: a closed context ends CLOSED; STOP asks every executor of the context, and ends OK once each stands; RESUME lets them go on; READ and TRACE write
at RESP. -/
def Sys2Proof.Claims.DebugPort : Prop :=
  ∀ s : State, let m := s.dev.mbox
    (∀ e ∈ [(Instr.debugStop, 0), (.debugResume, 1), (.debugRead, 2), (.debugTrace, 3)], mailRuns s 6 = true → m.arg0.toNat = e.2 → portOpen s m.arg1.toNat = false →
      Completes e.1 s (fun t => MailEnded s t 7 ∧ MachineSame s t)) ∧
    (DebugDue s 0 → debugRuns s ≠ [] → (∀ ex ∈ debugRuns s, (coreAt s ex).run.dstop = true) → Completes .debugStop s (fun t => MailEnded s t 0 ∧ MachineSame s t)) ∧
    (DebugDue s 0 → debugRuns s = [] → Completes .debugStop s (fun t => MailEnded s t 7 ∧ MachineSame s t)) ∧
    (DebugDue s 0 → (∃ ex ∈ debugRuns s, (coreAt s ex).run.dstop = false) → Completes .debugStop s (fun t => t.dev = s.dev ∧
      ∀ ex ∈ debugRuns s, (coreAt t ex).run.dreq = !(coreAt s ex).run.dstop)) ∧
    (DebugDue s 1 → (∃ ex, ex < 288 ∧ (coreAt s ex).run.dstop = true ∧ (coreAt s ex).run.live = true ∧ (coreAt s ex).run.inst.ctx = m.arg1.toNat) →
      Completes .debugResume s (fun t => MailEnded s t 0 ∧ t.ms = s.ms ∧ ∀ ex, ex < 288 → (coreAt s ex).run.live = true → (coreAt s ex).run.inst.ctx = m.arg1.toNat →
        (coreAt t ex).run.dstop = false ∧ (coreAt t ex).ctl = (coreAt s ex).ctl)) ∧
    (∀ ex, DebugDue s 2 → debugRuns s = [ex] → (coreAt s ex).run.dstop = true → RespTakes s (debugPicture s ex).length → Completes .debugRead s (fun t =>
      MailEnded s t 0 ∧ AtResp s t (debugPicture s ex) ∧ t.cores = s.cores)) ∧
    (∀ ex, DebugDue s 3 → (debugSet m.arg2.toNat).filter (fun k => traceOwner (coreAt s k) == some m.arg1.toNat) = [ex] → RespTakes s 65536 → Completes .debugTrace s (fun t =>
      MailEnded s t 0 ∧ AtResp s t (((coreAt s ex).dbg.tb.flatten ++ zeros 65536).take 65536) ∧ t.cores = s.cores))

/-- R407, R460, R465: RESET: executors, launches, contexts and the rest of the machine as they stand right after reset; memory zero but host memory, and flash while its keys live; an
accepted transition takes effect, firmware is verified, pending retirements are made. -/
def Obligations.ResetEvent : Prop :=
  ∀ s : State, Completes .reset s (fun t =>
    t = { State.reset with agenda := s.agenda, rr := s.rr, nextId := s.nextId, choice := s.choice, ex := s.ex, ms := t.ms, dev := t.dev } ∧ t.ms.l2 = [] ∧
    t.dev.sec.lcs = s.dev.sec.token.getD s.dev.sec.lcs ∧ t.dev.sec.token = none ∧ t.dev.sec.idKey = keyIn t.dev.sec.lcs ∧
    t.dev.sec.fwOk = (Config.firmwareSigOk (s.dev.sec.staged.getD (Config.bootItem 0)) && Config.firmwareSigOk (Config.bootItem 1) && (!s.dev.rootTier || Config.firmwareSigOk (Config.bootItem 2))) ∧
    t.dev.sec.mediaKeys = (s.dev.sec.mediaKeys && t.dev.sec.lcs != 3 && t.dev.sec.lcs != 4) ∧ t.dev.retired = s.dev.retired ++ s.dev.pendingRetire ∧ t.dev.pendingRetire = [] ∧
    t.dev.sysdev = 0xFFFF ∧ t.dev.hcq = {} ∧ t.dev.mbox = {} ∧ t.dev.sus = {} ∧
    ∀ a, a < 2 ^ 51 → tblGet memDefault t.ms.mem a =
      (if isHost a = true ∨ (paRange a = .root ∧ t.dev.sec.mediaKeys = true) then tblGet memDefault s.ms.mem a else memDefault))

/-! ## Links, power, heat -/

namespace Sys2Proof.Claims

/-- Port n is as given, and the other ports as before. -/
def PortNow (s t : State) (n : Nat) (p : Port) : Prop := portAt t n = p ∧ ∀ k, k ≠ n → portAt t k = portAt s k

/-- The flit of a FLIT_ARRIVAL (DESIGN CHOICE, log 12). -/
def theFlit (s : State) : Flit :=
  { src := BitVec.ofNat 16 (listGet 0 s.choice.list 0), dst := BitVec.ofNat 16 (listGet 0 s.choice.list 1), cls := BitVec.ofNat 2 (listGet 0 s.choice.list 2),
    payload := s.choice.data, seq := listGet 0 s.choice.list 3, crc := s.choice.v }

/-- Its CRC is that of its bytes. -/
def Whole (s : State) : Prop := s.choice.v = Config.crc64 (flitBytes (theFlit s))

/-- The flit arrives whole, in the order of its class. -/
def FlitDue (s : State) : Prop :=
  s.choice.n < 18 ∧ (portAt s s.choice.n).up = true ∧ s.choice.data.length ≤ 224 ∧ Whole s ∧
    (portAt s s.choice.n).rx.get (theFlit s).cls.toFin = listGet 0 s.choice.list 3

/-- The flit is discarded: the error log has it, at its place by stamp and source number; nothing is sent. -/
def Discarded (s t : State) : Prop :=
  t = { s with dev := { s.dev with ports := t.dev.ports, errlog := errIns ⟨s.gtc, unitSrc 2, .flit (theFlit s)⟩ s.dev.errlog } }

/-- A diode's state after a reading r, with its thresholds (R454). -/
def diodeRule (hyst warn throttle trip : Nat) (d : Diode) (r : Nat) : Diode :=
  if trip ≤ r then .trip
  else match d with
    | .trip => .trip
    | .throttle => if r + hyst ≤ throttle then (if r + hyst ≤ warn then .normal else .warn) else .throttle
    | .warn => if throttle ≤ r then .throttle else if r + hyst ≤ warn then .normal else .warn
    | .normal => if throttle ≤ r then .throttle else if warn ≤ r then .warn else .normal

end Sys2Proof.Claims

/-- R449, R450, R458: the training of a port; a flit that fails its CRC or comes out of order is not taken, and the port is down where its replay fails; a time flit for this device advances its class's
number alone; one of any class for another device that is not to be forwarded, or a collective one that does not come from the peer, is discarded into the error log, and SUSPEND is obeyed. -/
def Sys2Proof.Claims.Links : Prop :=
  ∀ s : State, let n := s.choice.n
    let taken := { portAt s n with rx := (portAt s n).rx.set (theFlit s).cls.toFin ((portAt s n).rx.get (theFlit s).cls.toFin + 1) }
    (n < 18 → s.choice.flag = true → s.choice.m < 65536 → Completes .portTraining s (fun t => MachineSame s t ∧
      PortNow s t n { up := true, peer := BitVec.ofNat 16 s.choice.m,
                      timeOnly := decide (s.choice.m = s.dev.sysdev.toNat) || decide (s.choice.m = 0xFFFF) || decide (s.dev.sysdev = 0xFFFF) })) ∧
    (n < 18 → s.choice.flag = false → Completes .portTraining s (fun t => MachineSame s t ∧ PortNow s t n { down := true })) ∧
    (((portAt s n).up = false ∨ 224 < s.choice.data.length ∨ (¬ Whole s ∧ s.choice.k = 0) ∨
        (Whole s ∧ (portAt s n).rx.get (theFlit s).cls.toFin ≠ listGet 0 s.choice.list 3)) → exec .flitArrival s = .next s) ∧
    (n < 18 → (portAt s n).up = true → s.choice.data.length ≤ 224 → ¬ Whole s → s.choice.k ≠ 0 → Completes .flitArrival s (fun t =>
      t = { s with dev := { s.dev with ports := t.dev.ports } } ∧ PortNow s t n { down := true })) ∧
    (FlitDue s → (theFlit s).cls = 3 → (theFlit s).dst = s.dev.sysdev → Completes .flitArrival s (fun t =>
      t = { s with dev := { s.dev with ports := t.dev.ports } } ∧ PortNow s t n taken)) ∧
    (FlitDue s → (portAt s n).timeOnly = true → (theFlit s).cls ≠ 3 → Completes .flitArrival s (fun t =>
      t = { s with dev := { s.dev with ports := t.dev.ports } } ∧ PortNow s t n taken)) ∧
    (FlitDue s → ((portAt s n).timeOnly = false ∨ (theFlit s).cls = 3) → forwarded (theFlit s) = false → (theFlit s).dst ≠ s.dev.sysdev → Completes .flitArrival s (fun t =>
      Discarded s t ∧ PortNow s t n taken)) ∧
    (FlitDue s → (portAt s n).timeOnly = false → (theFlit s).cls = 0 → (theFlit s).dst = s.dev.sysdev → (theFlit s).src ≠ (portAt s n).peer → Completes .flitArrival s (fun t =>
      Discarded s t ∧ PortNow s t n taken)) ∧
    (∀ tick : W64, FlitDue s → (portAt s n).timeOnly = false → (theFlit s).cls = 2 → s.choice.data = leBytes 1 1 ++ leBytes 8 tick.toNat → s.dev.sus.st = .none →
      s.gtc.toNat < tick.toNat → Completes .flitArrival s (fun t => MachineSame s t ∧ PortNow s t n taken ∧ t.dev.sus = { st := .ordered tick true, cluster := true }))

/-- R452 to R455: the imposed gaps of a power window, raised at once and lowered only at a safe point; a rail's move to its point, its engines standing for at most 10 µs; the 80 diodes' sweep by the rule of R454, a diode that enters WARN logged, a trip that
switches the rails off, and the points to which rails are to move. -/
def Sys2Proof.Claims.PowerAndHeat : Prop :=
  ∀ s : State, let p := s.dev.power
    let th := s.dev.therm
    let r := fun i => listGet 0 s.choice.list i
    (p.windows < s.gtc.toNat / 1000 → Completes .powerWindow s (fun t => MachineSame s t ∧ t.dev.power.windows = p.windows + 1 ∧ t.dev.power.rails = p.rails ∧
      ∀ k, 1 ≤ k → k ≤ 3 → gapAt t.dev.power k = (if gapAt p k ≤ BitVec.ofNat 12 (r (k - 1)) ∨ atSafe p k = true then BitVec.ofNat 12 (r (k - 1)) else gapAt p k))) ∧
    (∀ i : Fin 4, s.choice.n = i.val → atSafe p (railSeq i.val) = true → p.off = false → Completes .railPointChange s (fun t =>
      t = { s with cores := t.cores, dev := { s.dev with power := t.dev.power } } ∧
      (∀ k : Fin 288, t.cores.get k = if k.val < 256 then setEng (s.cores.get k) (railEngine i.val)
        { engOf (s.cores.get k) (railEngine i.val) with stall := some (s.gtc + BitVec.ofNat 64 (min 10000 s.choice.k)) } else s.cores.get k) ∧
      t.dev.power = { p with rails := p.rails.set i ((p.pending.get i).getD (BitVec.ofNat 3 (min 7 s.choice.m))), pending := p.pending.set i none })) ∧
    (th.sweeps < s.gtc.toNat / 100000 → p.off = false → (∀ i, i < 80 → r i < 256) →
      let after := fun i => diodeRule th.hyst (if i < 32 then th.warn.1 else th.warn.2) (if i < 32 then th.throttle.1 else th.throttle.2)
        (if i < 32 then th.trip.1 else th.trip.2) (listGet .normal th.st i) (r i)
      Completes .thermalSweep s (fun t => (∀ i, i < 80 → listGet .normal t.dev.therm.st i = after i) ∧ t.dev.therm.sweeps = th.sweeps + 1 ∧
        (∀ i, i < 80 → r i ≤ t.dev.therm.temp.toNat) ∧ (∃ i, i < 80 ∧ r i = t.dev.therm.temp.toNat ∧ t.dev.therm.diode.toNat = i ∧ ∀ j, j < i → r j < r i) ∧
        (∀ i, i < 80 → after i = .warn → listGet .normal th.st i ≠ .warn → ⟨s.gtc, unitSrc 3, .warn i⟩ ∈ t.dev.errlog) ∧
        ((∃ i, i < 80 ∧ after i = .trip) → t.dev.power.off = true ∧ t.dev.sec.tripped = true ∧ t.launches = [] ∧ t.dev.sus = {}) ∧
        ((∀ i, i < 80 → after i ≠ .trip) → t.dev.power.off = false ∧ t.cores = s.cores ∧ t.launches = s.launches ∧ ∀ k : Fin 4,
          let v := ((p.pending.get k).getD (p.rails.get k)).toNat
          t.dev.power.pending.get k = some (BitVec.ofNat 3 (if (∃ i, i < 80 ∧ after i = .throttle) then v - 1
            else max v (min (v + 1) (min 7 (listGet 7 s.choice.list2 k.val))))))))

/-! ## Images -/

/-- R90, R466, R390: a file that fails a check is rejected with its reason, nothing else changing; one that passes is published under its handle; an image that no launch names is
unloaded, and leaves every instruction memory. -/
def Obligations.ImageEvents : Prop :=
  ∀ s : State, let q := s.choice
    let named : Option W64 := if q.flag then some q.v else none
    (∀ r k, loadFile s q.n q.data q.pairs named = .error (r, k) → Completes .imagePublication s (fun t => t = { s with dev := { s.dev with load := (0, r, k) } })) ∧
    (∀ r base, chooseBase s q.n q.data named = some base → fileBad q.data = some r → loadFile s q.n q.data q.pairs named = .error (r, 0)) ∧
    (q.flag = true → (q.v.toNat % 65536 ≠ 0 ∨ rangeFree s q.n q.v (fIsize q.data) = false) → loadFile s q.n q.data q.pairs named = .error (15, 0)) ∧
    (∀ base i m, loadFile s q.n q.data q.pairs named = .ok (base, i) → q.m ≠ 0 → tblGet none s.images q.m = none → ctxAt s q.n ≠ none →
      let ps := imgPages q.data
      pagesFor s ps.length q.list q.list2 = true →
      mapAll (bits ((ctxAt s q.n).getD {}).ptroot 50 16 * 65536) base (ps.zip q.list) (putPages i (ps.zip q.list) s.ms) q.list2 = some m →
      Completes .imagePublication s (fun t => (∃ x, tblGet none t.images q.m = some x ∧ x.ctx = q.n ∧ x.base = base ∧ x.kernels = tableOf q.data 10 128 ∧
        x.segs = tableOf q.data 11 32 ∧ x.seams = tableOf q.data 12 112 ∧ x.phys = q.list) ∧ (∀ k, k ≠ q.m → tblGet none t.images k = tblGet none s.images k) ∧
        t.dev.load = (q.m, 0, 0) ∧ t.ms = m ∧ t.cores = s.cores)) ∧
    (∀ x, tblGet none s.images q.n = some x → namesImage s q.n = false → Completes .imageUnload s (fun t => tblGet none t.images q.n = none ∧
      (∀ k, k ≠ q.n → tblGet none t.images k = tblGet none s.images k) ∧ t.launches = s.launches ∧
      ∀ i : Fin 288, (∀ z, (t.cores.get i).run.res = some z → z.image.toNat ≠ q.n) ∧ (t.cores.get i).ctl = (s.cores.get i).ctl)) ∧
    (∀ x, tblGet none s.images q.n = some x → namesImage s q.n = true → exec .imageUnload s = .next s)

/-! ## Encoding, the step, the invariant, reset -/

namespace Sys2Proof.Claims

/-- Control words of the specification with the instructions that they encode. -/
def controlExamples : List (W64 × Instr) :=
  let g : Guard := ⟨15, false⟩
  [(0x01F0A30E00000000, .add g 5 6 7), (0x2039248000000FF8, .addi ⟨3, true⟩ 9 9 0xFF8), (0x30F09F804E000FF0, .ld g 4 63 ⟨1, 1, 3, 0xFF0⟩),
   (0x00F0000000000000, .nop g), (0x1AF0420A00000000, .cmplt g 2 4 5), (0x70F00000FFFFFFFD, .br g 0xFFFFFFFD), (0x75F0000000300004, .loop g 0 0 3 4),
   (0x80F0E00000000001, .rdcsr g 7 1), (0x81F0048000000101, .wrcsr g 9 0x101), (0x32F01E0806000000, .st g 60 4 ⟨0, 0, 3, 0⟩), (0x65F0000000000000, .halt g)]

/-- Vector words of the specification. -/
def vectorExamples : List (W48 × Instr) :=
  [(0x9810C643212C, .vaddF32 ⟨true, 1, 3⟩ 100 200 300), (0x1A0000100803, .vmulF32 ⟨false, 0, 0⟩ 1 2 3), (0x2C000C001C08, .vcmpltF32 ⟨false, 0, 0⟩ 3 7 8),
   (0x6D0000000000, .vend), (0x6A0003000000, .vsetf 3)]

/-- Matrix words of the specification. -/
def matrixExamples : List (W48 × Instr) := [(0x01000B000003, .mlvl 1 3 3), (0x0E0000000000, .mend), (0x0B0003000000, .msetf 3)]

/-- Copy words of the specification. -/
def copyExamples : List (W48 × Instr) :=
  [(0x011045095800, .xcopy ⟨1, 1⟩ 5 2 1 ⟨false, true, 3⟩ false), (0x090004143000, .xroute 4 5 0 3), (0x0C0000210000, .xrcloseClose 2 1), (0x100001000000, .xsetf 1)]

/-- The control opcodes that are no instructions (R53). -/
def noControlOp (op : Nat) : Prop :=
  (0x2D ≤ op ∧ op ≤ 0x2F) ∨ op = 0x33 ∨ (0x3A ≤ op ∧ op ≤ 0x3F) ∨ (0x4C ≤ op ∧ op ≤ 0x4F) ∨ (0x5E ≤ op ∧ op ≤ 0x5F) ∨ (0x66 ≤ op ∧ op ≤ 0x6F) ∨
    (0x7D ≤ op ∧ op ≤ 0x7F) ∨ (0x8B ≤ op ∧ op ≤ 0xFF)

/-- The vector opcodes that are no instructions (R70). -/
def noVectorOp (op : Nat) : Prop :=
  (0x14 ≤ op ∧ op ≤ 0x17) ∨ (0x26 ≤ op ∧ op ≤ 0x27) ∨ (0x32 ≤ op ∧ op ≤ 0x37) ∨ op = 0x47 ∨ (0x52 ≤ op ∧ op ≤ 0x57) ∨ (0x5E ≤ op ∧ op ≤ 0x5F) ∨
    (0x62 ≤ op ∧ op ≤ 0x67) ∨ (0x70 ≤ op ∧ op ≤ 0x7F)

/-- The turn that stands first in the agenda begins: the rest of the agenda stays, and the executor and the choices are the turn's. -/
def begun (s : State) (t : Turn) (r : List Turn) : State := { s with agenda := r, ex := t.ex, choice := t.choice }

/-- Memory is in its canonical form and every held line is whole. -/
def MemInv (s : State) : Prop := MemWf s ∧ Frame.LinesWhole s.ms

/-- What a turn of a sequencer answers, where its word does `run`: that; while the schedule log is on, with a stall that begins or goes on noted, and with
the STALL record of one that ends before what the word does (R288, R436; lengths and the notes are the model's choice, log 32). -/
def TurnIs (s : State) (sq : Seq) (held : State → State → Option Nat) (run : State → Out) (o : Out) : Prop :=
  (slogOn (me s) = false → o = run s) ∧
  (slogOn (me s) = true → ∃ t, run s = .next t ∧ o = (match held s t, stallOf (me s) sq with
    | some r, _ => .next (stallsOn t sq r)
    | none, none => .next t
    | none, some x => run (onMe s (fun c => stallEnds s.ex.val c sq x))))

end Sys2Proof.Claims

/-- R44, R52, R56, R67 to R69: words that the specification writes out decode to their instructions. -/
def Sys2Proof.Claims.DecodeWords : Prop :=
  (∀ e ∈ controlExamples, decodeControl e.1 = .ok e.2) ∧ (∀ e ∈ vectorExamples, decodeVector e.1 = .ok e.2) ∧
  (∀ e ∈ matrixExamples, decodeMatrix e.1 = .ok e.2) ∧ (∀ e ∈ copyExamples, decodeCopy e.1 = .ok e.2)

/-- R53, R70: a word of an opcode that is no instruction is rejected, whatever its other bits. -/
def Sys2Proof.Claims.UnassignedOpcodes : Prop :=
  (∀ w : W64, noControlOp (bits w 63 56) → ∃ e, decodeControl w = .error e) ∧
  (∀ w : W48, noVectorOp ((w.extractLsb' 40 7).toNat) → ∃ e, decodeVector w = .error e) ∧
  (∀ w : W48, 0x10 ≤ (w.extractLsb' 40 8).toNat → ∃ e, decodeMatrix w = .error e) ∧
  (∀ w : W48, 0x17 ≤ (w.extractLsb' 40 8).toNat → ∃ e, decodeCopy w = .error e)

/-- Decoding and encoding agree: the word of every well-formed instruction decodes to it, each field at every value that is legal; the three EPUSH rows share
one word, whose operand tells them apart as it issues (R302). Event rows have no word. -/
def Obligations.DecodeEncode : Prop :=
  ∀ i : Instr, wf i = true → encode i = .event ∨ decodeCode (encode i) = .ok (wordRow i)

/-- A step that begins with a sequencer's turn runs the instruction that its next word decodes to: for the control sequencer, where no interrupt is due, no engine stands at a trap, no reply holds the
word and no register that it reads is poisoned, once the results that it reads are there (R44, R288, R406, R472); for an engine that no trap and no change of its rail's point holds, at its next
repeat (R55, R298, R397, R453); an event's turn runs its row. -/
def Obligations.StepRunsTheWord : Prop :=
  ∀ (s : State) (t : Turn) (r : List Turn), s.agenda = t :: r → let s1 := begun s t r
    (∀ w i, t.act = .control → controlRuns (me s1) = true → irqDue (me s1) = false → frozenEngine (me s1) = none → imemWord (me s1) (me s1).ctl.pc = some w → decodeControl w = .ok i →
      stalls (me s1) i = false → ((me s1).cwait.isSome = true ∨ meetsPoison (me s1).ctl (Dec.fG w) i = false) →
      TurnIs s1 .control (fun _ u => controlHeld u) (fun u => exec (epushRow (me u) i) (atIssue (Dec.fG w) i u)) (step s)) ∧
    (∀ sq w i, t.act = .engine sq → sq ≠ .control → engineRuns (me s1) = true → (engOf (me s1) sq).st = .running → (engOf (me s1) sq).trap = none → pointStalls s1 sq = false →
      ememWord (me s1) (engOf (me s1) sq).seg (engOf (me s1) sq).widx = some w → decodeEngine sq w = .ok i → TurnIs s1 sq (engineHeld sq) (exec i) (step s)) ∧
    (∀ i, t.act = .event i → isEvent i = true → (gives s1 i = none ∨ slogOn (me s1) = false) → step s = exec i s1) ∧
    (∀ i sq, t.act = .event i → isEvent i = true → gives s1 i = some sq → step s = exec i (pacingEnds s1 sq)) ∧
    (∀ g i, trcOn (me s1) = false → (me s1).ctl.late = [] → atIssue g i s1 = s1)

/-- Every step keeps the canonical form of memory, and every held cache line whole. -/
def Obligations.StepKeepsMemory : Prop := ∀ s t : State, MemInv s → StepsTo s t → MemInv t

/-- R382, R450, R465, R155, R387: after reset memory lists nothing and no cache line is held, no executor runs, no context, image, tensor or launch exists, the counter is zero, the
device is unnumbered and the scheduling controls hold their reset values; memory is in its canonical form. -/
def Obligations.ResetLeaves : Prop :=
  MemInv State.reset ∧ State.reset.ms.mem = [] ∧ State.reset.ms.l2 = [] ∧ State.reset.ms.frr = [] ∧ State.reset.gtc = 0 ∧
  (∀ i : Fin 288, (State.reset.cores.get i).run.st = .idle ∧ (State.reset.cores.get i).run.live = false ∧ ∀ w, spTag (State.reset.cores.get i) w = false) ∧
  State.reset.ctxs = [] ∧ State.reset.images = [] ∧ State.reset.tht = [] ∧ State.reset.launches = [] ∧ State.reset.dev.sysdev = 0xFFFF ∧
  State.reset.dev.sched = { hopol := true, predl := 50, ageq := 100 }

/-! ## Statements of several parts -/

/-- R289, R291: the results of every integer word of register sources and of every immediate word; nothing else changes. -/
def Obligations.IntegerWords : Prop := Claims.IntegerWordResults ∧ Claims.BitCountResults ∧ Claims.ImmediateWordResults

/-- R290, R311, R54: the compares and PLOG, SEL, PMOV, RDTIME, RDCTIME and NOP; nothing else changes. -/
def Obligations.PredicateAndMoveWords : Prop := Claims.CompareWordResults ∧ Claims.MoveAndTimeWordResults

/-- R293 to R295, R297, R394: the branch words, and their traps on a target that is no multiple of 8; LOOP, the end test and LBRK. -/
def Obligations.BranchesAndLoops : Prop := Claims.BranchWords ∧ Claims.BranchMisaligned ∧ Claims.LoopOpens ∧ Claims.LoopEndTest ∧ Claims.LoopBreak

/-- R292, R472, R235, R395: a load issues, its reply brings the bytes to s[D] alone, and a poisoned reply traps at the load. -/
def Obligations.Loads : Prop := Claims.LoadWordsIssue ∧ Claims.LoadReplies ∧ Claims.PoisonReply

/-- R292, R163, R226, R353, R348: a store issues, its service writes its bytes and no other, and the write-combining buffer empties as requests. -/
def Obligations.Stores : Prop := Claims.StoreWordIssues ∧ Claims.StoreServed ∧ Claims.StoreServedInPart ∧ Claims.WriteCombiningLeaves

/-- R162, R163: each atomic issues its request, and its service is one event with the new value of R162's table. -/
def Obligations.Atomics : Prop := Claims.AtomicWordsIssue ∧ Claims.AtomicServed

/-- R227, R230: the tagged words. -/
def Obligations.TaggedWords : Prop := Claims.TaggedWordsServed ∧ Claims.TaggedWordsThatNeverWait

/-- R317, R319, R341, R342: FENCE and WAITC, and the outcomes of a wait. -/
def Obligations.FencesAndWaits : Prop := Claims.FenceAndCountWaits ∧ Claims.WaitOutcomes ∧ Claims.DeadlineExpiry

/-- R337, R339: the waiters of a word and the message queues. -/
def Obligations.SliceQueues : Prop := Claims.WordQueues ∧ Claims.MessageQueues

/-- R321 to R323, R330 to R332: event counters and the rules of the event crossbar. -/
def Obligations.EventCounters : Prop := Claims.EventCounterWords ∧ Claims.CrossbarRules

/-- R298, R300 to R303, R327: FORK and EPUSH enqueue, JOIN waits for its members, and the commands that an engine takes from its queue. -/
def Obligations.EngineQueues : Prop := Claims.EnginePushes ∧ Claims.JoinWord ∧ Claims.EngineCommands ∧ Claims.FlagCommandExpiry

/-- R304, R378, R379: kernel entry and HALT. -/
def Obligations.EntryAndHalt : Prop := Claims.KernelEntry ∧ Claims.HaltWord

/-- R187 to R192: the words of streams and the arrival of their rows. -/
def Obligations.Streams : Prop := Claims.StreamBinding ∧ Claims.CopyStreams

/-- R369, R371, R381: SPAWN, doorbells and acceptance. -/
def Obligations.Launches : Prop := Claims.SpawnWord ∧ Claims.LaunchQueue

/-- R310: RDCSR and WRCSR, their privilege, and the writes that act. -/
def Obligations.Csrs : Prop := Claims.CsrWords ∧ Claims.CsrPrivilege ∧ Claims.CsrWritesThatAct

/-- R392 to R397: taking a trap or an interrupt, and returning from it. -/
def Obligations.Traps : Prop := Claims.TrapWords ∧ Claims.EretAndInterrupt

/-- R209 to R221: the vector words that write masks or move whole rows. -/
def Obligations.VectorMasksAndRows : Prop := Claims.VectorMaskWords ∧ Claims.VectorRowWords

/-- R198 to R201, R307, R400: results in flight land; VSETA and the arrival of its parameter word. -/
def Obligations.VectorResults : Prop := Claims.ResultsLand ∧ Claims.AddressLoad

/-- R296, R308, R309, R326, R327: flag words of the engines, loops and loops from count queues. -/
def Obligations.EngineFlagsAndCountedLoops : Prop := Claims.EngineFlagWords ∧ Claims.LoopsFromCountQueues

/-- R117, R119, R127, R131: SEAM and the seam instant. -/
def Obligations.Seams : Prop := Claims.SeamWord ∧ Claims.SeamInstant

/-- R39, R140 to R145: the attention decode engines. -/
def Obligations.Attention : Prop := Claims.AttentionDispatch ∧ Claims.AttentionChunk ∧ Claims.AttentionEnd

/-- R374 to R378, R384, R385, R404, R473: dispatch, boot and completion records. -/
def Obligations.DispatchAndCompletion : Prop := Claims.DispatchAndBoot ∧ Claims.CompletionRecord

/-- R405 to R408, R158: uncorrectable errors, retirement, the eviction of lines. -/
def Obligations.ErrorsAndRetirement : Prop := Claims.UncorrectableError ∧ Claims.RetirementAndEviction

/-- R356, R383, R445 to R448: host accesses, BAR0 and the host command ring. -/
def Obligations.HostInterface : Prop := Claims.HostAccess ∧ Claims.HostRingCommands

/-- R435, R460 to R465: the mailbox commands and the debug port. -/
def Obligations.ManagementMailbox : Prop := Claims.MailboxCommands ∧ Claims.DebugPort

/-- R449, R450, R452 to R455: links, power and heat. -/
def Obligations.LinksPowerAndHeat : Prop := Claims.Links ∧ Claims.PowerAndHeat

/-- R44, R52, R53, R56, R67 to R70: words that the specification writes out decode to their instructions, and words of unassigned opcodes are rejected. -/
def Obligations.DecodeExamples : Prop := Claims.DecodeWords ∧ Claims.UnassignedOpcodes
end

