-- ==== Sys2Proof/Laws/Exec.lean ====
section
/-! SUPPORT. No meaning stops: every instruction answers a next state. -/

namespace Sys2Proof.Laws

open Sys2Proof Sys2Proof.Machine

theorem execDeadlineExpiry_next (s : State) : ∃ t, execDeadlineExpiry s = .next t := by
  simp only [execDeadlineExpiry]
  split
  · split
    · split <;> exact ⟨_, rfl⟩
    · exact ⟨_, rfl⟩
  · exact ⟨_, rfl⟩

theorem exec_next (i : Instr) (s : State) : ∃ t, exec i s = .next t := by
  cases i with
  | deadlineExpiry => exact execDeadlineExpiry_next s
  | _ => exact ⟨_, rfl⟩

end Sys2Proof.Laws
end

