-- ==== Sys2Proof/Laws/Launch.lean ====
section
/-! SUPPORT. What raising an interrupt, recording an error and sending a flit change (spec/25_system.md R449 to R451). -/

namespace Sys2Proof.Laws

open Sys2Proof Sys2Proof.Machine

/-- What stands in a queue of interrupts once one has joined it. -/
theorem mem_irqIns (x y : Irq) (l : List Irq) : y ∈ irqIns x l ↔ y = x ∨ y ∈ l := by
  induction l with
  | nil => simp [irqIns]
  | cons z r ih =>
      unfold irqIns
      split
      · simp
      · simp only [List.mem_cons, ih]
        constructor
        · rintro (h | h | h) <;> simp [h]
        · rintro (h | h | h) <;> simp [h]

/-- What stands in the error log once a record has joined it. -/
theorem mem_errIns (x y : ErrRec) (l : List ErrRec) : y ∈ errIns x l ↔ y = x ∨ y ∈ l := by
  induction l with
  | nil => simp [errIns]
  | cons z r ih =>
      unfold errIns
      split
      · simp
      · simp only [List.mem_cons, ih]
        constructor
        · rintro (h | h | h) <;> simp [h]
        · rintro (h | h | h) <;> simp [h]

/-- A flit that is sent changes the ports' counters and what has left alone. -/
theorem sendFlit_frame (s : State) (f : Flit) (n : Nat) : ∃ o p, sendFlit s f n = { s with dev := { s.dev with out := o, ports := p } } := by
  unfold sendFlit
  split
  · exact ⟨_, _, rfl⟩
  · exact ⟨s.dev.out, s.dev.ports, rfl⟩

/-- What has left stays among what has left. -/
theorem sendFlit_keeps (s : State) (f : Flit) (n : Nat) (x : Nat × Flit) (h : x ∈ s.dev.out) : x ∈ (sendFlit s f n).dev.out := by
  unfold sendFlit
  split
  · exact List.mem_append_left _ h
  · exact h

/-- A flit leaves by its port with a sequence number and its CRC. -/
theorem sendFlit_leaves (s : State) (f : Flit) (n : Nat) (h : n < 18) :
    ∃ q, (n, { f with seq := q, crc := Config.crc64 (flitBytes { f with seq := q }) }) ∈ (sendFlit s f n).dev.out := by
  refine ⟨(s.dev.ports.get ⟨n, h⟩).tx.get f.cls.toFin, ?_⟩
  unfold sendFlit
  rw [dif_pos h]
  exact List.mem_append_right _ (List.mem_singleton.mpr rfl)

theorem sendOut_frame (s : State) (l : List Nat) (f : Flit) : ∃ o p, sendOut s l f = { s with dev := { s.dev with out := o, ports := p } } := by
  induction l generalizing s with
  | nil => exact ⟨s.dev.out, s.dev.ports, rfl⟩
  | cons n r ih =>
      obtain ⟨o, p, h⟩ := sendFlit_frame s f n
      obtain ⟨o', p', h'⟩ := ih (sendFlit s f n)
      refine ⟨o', p', ?_⟩
      show sendOut (sendFlit s f n) r f = _
      rw [h', h]

theorem sendOut_keeps (s : State) (l : List Nat) (f : Flit) (x : Nat × Flit) (h : x ∈ s.dev.out) : x ∈ (sendOut s l f).dev.out := by
  induction l generalizing s with
  | nil => exact h
  | cons n r ih => exact ih (sendFlit s f n) (sendFlit_keeps s f n x h)

/-- A flit that is sent leaves by every port of the list. -/
theorem sendOut_leaves (s : State) (l : List Nat) (f : Flit) (n : Nat) (hn : n < 18) (h : n ∈ l) :
    ∃ q, (n, { f with seq := q, crc := Config.crc64 (flitBytes { f with seq := q }) }) ∈ (sendOut s l f).dev.out := by
  induction l generalizing s with
  | nil => cases h
  | cons m r ih =>
      rcases List.mem_cons.mp h with e | e
      · subst e
        obtain ⟨q, hq⟩ := sendFlit_leaves s f n hn
        exact ⟨q, sendOut_keeps (sendFlit s f n) r f _ hq⟩
      · exact ih (sendFlit s f m) e

/-- The ports that carry other than time traffic (R450). -/
theorem mem_upPorts (s : State) (i : Fin 18) : i.val ∈ upPorts s ↔ (s.dev.ports.get i).up = true ∧ (s.dev.ports.get i).timeOnly = false := by
  unfold upPorts
  simp [List.mem_filter, i.isLt]

/-- Raising an interrupt changes the queue of interrupts alone. -/
theorem raiseIrq_frame (c : Core) (x : Irq) : raiseIrq c x = { c with irq := irqIns x c.irq } := rfl

/-- Recording an error changes the error log alone. -/
theorem logErr_frame (s : State) (u : Nat) (w : ErrWhat) : logErr s u w = { s with dev := { s.dev with errlog := errIns ⟨s.gtc, unitSrc u, w⟩ s.dev.errlog } } := rfl

end Sys2Proof.Laws
end

