-- ==== Sys2Proof/Laws/Tbl.lean ====
section
/-! SUPPORT. Sparse tables: reading after writing, and the canonical form. -/

namespace Sys2Proof.Laws

open Sys2Proof.Machine

variable {α : Type}

/-- A deleted key reads as the default. -/
@[simp] theorem tblGet_del_self (d : α) (t : Tbl α) (k : Nat) : tblGet d (tblDel t k) k = d := by
  induction t with
  | nil => rfl
  | cons e r ih =>
      obtain ⟨j, v⟩ := e
      by_cases h : j = k
      · simp [tblDel, h, ih]
      · simp [tblDel, tblGet, h, ih]

/-- Deleting a key leaves the others. -/
theorem tblGet_del_ne (d : α) (t : Tbl α) (k i : Nat) (h : i ≠ k) : tblGet d (tblDel t k) i = tblGet d t i := by
  induction t with
  | nil => rfl
  | cons e r ih =>
      obtain ⟨j, v⟩ := e
      by_cases hk : j = k
      · subst hk; simp [tblDel, tblGet, ih, h.symm]
      · simp only [tblDel, hk, if_false, tblGet, ih]

/-- An inserted key reads as its value where it was not listed. -/
theorem tblGet_ins_self (d : α) (t : Tbl α) (k : Nat) (v : α) (h : ∀ e ∈ t, e.1 ≠ k) : tblGet d (tblIns t k v) k = v := by
  induction t with
  | nil => simp [tblIns, tblGet]
  | cons e r ih =>
      obtain ⟨j, w⟩ := e
      have hj : j ≠ k := h (j, w) (by simp)
      by_cases hlt : k < j
      · simp [tblIns, tblGet, hlt]
      · simp only [tblIns, hlt, if_false, tblGet, hj]
        exact ih (fun e he => h e (List.mem_cons_of_mem _ he))

/-- Inserting a key leaves the others. -/
theorem tblGet_ins_ne (d : α) (t : Tbl α) (k i : Nat) (v : α) (h : i ≠ k) : tblGet d (tblIns t k v) i = tblGet d t i := by
  induction t with
  | nil => simp [tblIns, tblGet, h.symm]
  | cons e r ih =>
      obtain ⟨j, w⟩ := e
      by_cases hlt : k < j
      · simp [tblIns, tblGet, hlt, h.symm]
      · simp only [tblIns, hlt, if_false, tblGet, ih]

/-- A deleted key is not listed. -/
theorem tblDel_not_mem (t : Tbl α) (k : Nat) : ∀ e ∈ tblDel t k, e.1 ≠ k := by
  induction t with
  | nil => intro e he; cases he
  | cons x r ih =>
      obtain ⟨j, v⟩ := x
      intro e he
      by_cases h : j = k
      · simp only [tblDel, h, if_true] at he; exact ih e he
      · simp only [tblDel, h, if_false, List.mem_cons] at he
        rcases he with rfl | he
        · exact h
        · exact ih e he

/-- Reading after a write. -/
theorem tblGet_set [DecidableEq α] (d : α) (t : Tbl α) (k i : Nat) (v : α) :
    tblGet d (tblSet d t k v) i = if i = k then v else tblGet d t i := by
  unfold tblSet
  by_cases hv : v = d
  · by_cases hi : i = k
    · subst hi; simp [hv]
    · simp [hv, hi, tblGet_del_ne]
  · by_cases hi : i = k
    · subst hi; simp [hv, tblGet_ins_self _ _ _ _ (tblDel_not_mem _ _)]
    · simp [hv, hi, tblGet_ins_ne, tblGet_del_ne]

/-- Reading the key written. -/
@[simp] theorem tblGet_set_self [DecidableEq α] (d : α) (t : Tbl α) (k : Nat) (v : α) : tblGet d (tblSet d t k v) k = v := by
  simp [tblGet_set]

/-- Reading another key. -/
theorem tblGet_set_ne [DecidableEq α] (d : α) (t : Tbl α) (k i : Nat) (v : α) (h : i ≠ k) :
    tblGet d (tblSet d t k v) i = tblGet d t i := by
  simp [tblGet_set, h]

/-! ## The canonical form -/

/-- A table that is canonical above a key is canonical above a lower one. -/
theorem tblWfFrom_mono [DecidableEq α] (d : α) (t : Tbl α) (lo : Option Nat) (k : Nat)
    (h : tblWfFrom d (some k) t = true) (hl : ∀ l, lo = some l → l ≤ k) : tblWfFrom d lo t = true := by
  cases t with
  | nil => cases lo <;> rfl
  | cons e r =>
      obtain ⟨j, v⟩ := e
      simp only [tblWfFrom, Bool.and_eq_true, decide_eq_true_eq] at h ⊢
      refine ⟨⟨?_, h.1.2⟩, h.2⟩
      cases lo with
      | none => rfl
      | some l => exact decide_eq_true (lt_of_le_of_lt (hl l rfl) h.1.1)

/-- Deleting a key keeps the canonical form. -/
theorem tblWfFrom_del [DecidableEq α] (d : α) (t : Tbl α) (k : Nat) :
    ∀ lo, tblWfFrom d lo t = true → tblWfFrom d lo (tblDel t k) = true := by
  induction t with
  | nil => intro lo h; exact h
  | cons e r ih =>
      obtain ⟨j, v⟩ := e
      intro lo h
      simp only [tblWfFrom, Bool.and_eq_true, decide_eq_true_eq] at h
      by_cases hk : j = k
      · simp only [tblDel, hk, if_true]
        refine tblWfFrom_mono d _ lo j (ih _ h.2) ?_
        intro l hl; subst hl
        exact le_of_lt (of_decide_eq_true h.1.1)
      · simp only [tblDel, hk, if_false, tblWfFrom, Bool.and_eq_true, decide_eq_true_eq]
        exact ⟨h.1, ih _ h.2⟩

/-- Inserting a key that is not listed, with a value that is not the default, keeps the canonical form. -/
theorem tblWfFrom_ins [DecidableEq α] (d : α) (k : Nat) (v : α) (hv : v ≠ d) (t : Tbl α) :
    ∀ lo, tblWfFrom d lo t = true → (∀ e ∈ t, e.1 ≠ k) → (∀ l, lo = some l → l < k) → tblWfFrom d lo (tblIns t k v) = true := by
  induction t with
  | nil =>
      intro lo _ _ hl
      simp only [tblIns, tblWfFrom, Bool.and_eq_true, decide_eq_true_eq]
      refine ⟨⟨?_, hv⟩, trivial⟩
      cases lo with
      | none => rfl
      | some l => exact decide_eq_true (hl l rfl)
  | cons e r ih =>
      obtain ⟨j, w⟩ := e
      intro lo h hm hl
      have hj : j ≠ k := hm (j, w) (by simp)
      simp only [tblWfFrom, Bool.and_eq_true, decide_eq_true_eq] at h
      by_cases hlt : k < j
      · simp only [tblIns, hlt, if_true, tblWfFrom, Bool.and_eq_true, decide_eq_true_eq]
        refine ⟨⟨?_, hv⟩, ⟨trivial, h.1.2⟩, h.2⟩
        cases lo with
        | none => rfl
        | some l => exact decide_eq_true (hl l rfl)
      · simp only [tblIns, hlt, if_false, tblWfFrom, Bool.and_eq_true, decide_eq_true_eq]
        refine ⟨h.1, ih _ h.2 (fun e he => hm e (List.mem_cons_of_mem _ he)) ?_⟩
        intro l hl2
        have : j = l := by simpa using hl2
        omega

/-- Writing keeps the canonical form. -/
theorem tblWf_set [DecidableEq α] (d : α) (t : Tbl α) (k : Nat) (v : α) (h : tblWf d t = true) : tblWf d (tblSet d t k v) = true := by
  unfold tblSet
  by_cases hv : v = d
  · simp only [hv, if_true]; exact tblWfFrom_del d t k none h
  · simp only [hv, if_false]
    exact tblWfFrom_ins d k v hv _ none (tblWfFrom_del d t k none h) (tblDel_not_mem t k) (fun l hl => by cases hl)

/-- Writing consecutive keys keeps the canonical form. -/
theorem tblWf_setRange [DecidableEq α] (d : α) (vs : List α) :
    ∀ (t : Tbl α) (k : Nat), tblWf d t = true → tblWf d (tblSetRange d t k vs) = true := by
  induction vs with
  | nil => intro t k h; exact h
  | cons v r ih => intro t k h; exact ih _ _ (tblWf_set d t k v h)

/-- Reading after writing consecutive keys. -/
theorem tblGet_setRange [DecidableEq α] (d : α) (vs : List α) :
    ∀ (t : Tbl α) (k i : Nat), tblGet d (tblSetRange d t k vs) i = if k ≤ i ∧ i < k + vs.length then vs.getD (i - k) d else tblGet d t i := by
  induction vs with
  | nil => intro t k i; simp [tblSetRange]
  | cons v r ih =>
      intro t k i
      simp only [tblSetRange, ih, tblGet_set, List.length_cons]
      by_cases h1 : k + 1 ≤ i ∧ i < k + 1 + r.length
      · rw [if_pos h1, if_pos (by omega), show i - k = (i - (k + 1)) + 1 by omega]
        rfl
      · rw [if_neg h1]
        by_cases h2 : i = k
        · subst h2; rw [if_pos rfl, if_pos (by omega), Nat.sub_self]; rfl
        · rw [if_neg h2, if_neg (by omega)]

/-- A filter keeps the canonical form. -/
theorem tblWfFrom_filter [DecidableEq α] (d : α) (p : Nat → α → Bool) (t : Tbl α) :
    ∀ lo, tblWfFrom d lo t = true → tblWfFrom d lo (tblFilter p t) = true := by
  induction t with
  | nil => intro lo h; exact h
  | cons e r ih =>
      obtain ⟨j, v⟩ := e
      intro lo h
      simp only [tblWfFrom, Bool.and_eq_true, decide_eq_true_eq] at h
      by_cases hp : p j v = true
      · have : tblFilter p ((j, v) :: r) = (j, v) :: tblFilter p r := by simp [tblFilter, hp]
        rw [this]
        simp only [tblWfFrom, Bool.and_eq_true, decide_eq_true_eq]
        exact ⟨h.1, ih _ h.2⟩
      · have : tblFilter p ((j, v) :: r) = tblFilter p r := by simp [tblFilter, hp]
        rw [this]
        refine tblWfFrom_mono d _ lo j (ih _ h.2) ?_
        intro l hl; subst hl
        exact le_of_lt (of_decide_eq_true h.1.1)

/-- A filter keeps the canonical form. -/
theorem tblWf_filter [DecidableEq α] (d : α) (p : Nat → α → Bool) (t : Tbl α) (h : tblWf d t = true) : tblWf d (tblFilter p t) = true :=
  tblWfFrom_filter d p t none h

/-- Two canonical tables that read alike are equal. -/
theorem tblWf_ext_from [DecidableEq α] (d : α) :
    ∀ (t u : Tbl α) (lo : Option Nat), tblWfFrom d lo t = true → tblWfFrom d lo u = true → (∀ i, tblGet d t i = tblGet d u i) → t = u := by
  have low : ∀ (t : Tbl α) (j i : Nat), tblWfFrom d (some j) t = true → i ≤ j → tblGet d t i = d := by
    intro t
    induction t with
    | nil => intro j i _ _; rfl
    | cons e r ih =>
        obtain ⟨k, v⟩ := e
        intro j i h hi
        simp only [tblWfFrom, Bool.and_eq_true, decide_eq_true_eq] at h
        rw [tblGet, if_neg (by omega)]
        exact ih k i h.2 (by omega)
  intro t
  induction t with
  | nil =>
      intro u lo _ hu hg
      cases u with
      | nil => rfl
      | cons e r =>
          obtain ⟨k, v⟩ := e
          simp only [tblWfFrom, Bool.and_eq_true, decide_eq_true_eq] at hu
          have := hg k
          simp only [tblGet, if_true] at this
          exact absurd this.symm hu.1.2
  | cons e r ih =>
      obtain ⟨k, v⟩ := e
      intro u lo ht hu hg
      have ht' := ht
      simp only [tblWfFrom, Bool.and_eq_true, decide_eq_true_eq] at ht
      cases u with
      | nil =>
          have := hg k
          simp only [tblGet, if_true] at this
          exact absurd this ht.1.2
      | cons f q =>
          obtain ⟨j, w⟩ := f
          simp only [tblWfFrom, Bool.and_eq_true, decide_eq_true_eq] at hu
          rcases lt_trichotomy k j with h | h | h
          · have := hg k
            rw [tblGet, if_pos rfl, tblGet, if_neg (by omega), low q j k hu.2 (by omega)] at this
            exact absurd this ht.1.2
          · subst h
            have hv := hg k
            simp only [tblGet, if_true] at hv
            subst hv
            have : r = q := by
              refine ih q (some k) ht.2 hu.2 (fun i => ?_)
              by_cases hi : i ≤ k
              · rw [low r k i ht.2 hi, low q k i hu.2 hi]
              · have := hg i
                rwa [tblGet, if_neg (by omega), tblGet, if_neg (by omega)] at this
            rw [this]
          · have := hg j
            rw [tblGet, if_neg (by omega), low r k j ht.2 (by omega), tblGet, if_pos rfl] at this
            exact absurd this.symm hu.1.2

/-- Two canonical tables that read alike are equal. -/
theorem tblWf_ext [DecidableEq α] (d : α) (t u : Tbl α) (ht : tblWf d t = true) (hu : tblWf d u = true)
    (h : ∀ i, tblGet d t i = tblGet d u i) : t = u := tblWf_ext_from d t u none ht hu h

end Sys2Proof.Laws
end

