-- ==== Sys2Proof/Laws/Mem.lean ====
section
/-! SUPPORT. Memory and its cache ways: every operation keeps the canonical form; reading after writing. -/

namespace Sys2Proof.Laws

open Sys2Proof Sys2Proof.Machine

/-! ## The canonical form (R149; DESIGN CHOICE, log 4) -/

theorem memWrite_wf (m : MemSys) (pa : Nat) (bs : List Byte) (h : m.wf = true) : (memWrite m pa bs).wf = true :=
  tblWf_setRange _ _ _ _ h

theorem setMemPoison_wf (m : MemSys) (pa : Nat) (b : Bool) (h : m.wf = true) : (setMemPoison m pa b).wf = true := h

theorem putLine_wf (m : MemSys) (k : Nat) (l : Line) (h : m.wf = true) : (putLine m k l).wf = true := h

theorem touchLine_wf (m : MemSys) (pa : Nat) (h : m.wf = true) : (touchLine m pa).wf = true := by
  unfold touchLine
  split
  · split
    · exact h
    · exact putLine_wf _ _ _ h
  · exact h

theorem adopt_wf (m : MemSys) (tag u : Nat) (h : m.wf = true) : (adopt m tag u).wf = true := by
  unfold adopt
  split
  · exact h
  · exact memWrite_wf _ _ _ h

theorem cellWrite_wf (m : MemSys) (tag pa : Nat) (bs : List Byte) (h : m.wf = true) : (cellWrite m tag pa bs).wf = true :=
  memWrite_wf _ _ _ (adopt_wf _ _ _ h)

theorem writeSectors_wf (m : MemSys) (tag pa : Nat) (l : Line) (n : Nat) (h : m.wf = true) : (writeSectors m tag pa l n).wf = true := by
  induction n with
  | zero => exact h
  | succ n ih =>
      simp only [writeSectors]
      split
      · exact setMemPoison_wf _ _ _ (cellWrite_wf _ _ _ _ ih)
      · exact ih

theorem storeSide_wf (m : MemSys) (enc base : Nat) (tag : BitVec 4) (side : List Byte) (h : m.wf = true) :
    (storeSide m enc base tag side).wf = true := by
  unfold storeSide
  split
  · exact h
  · exact h
  · split
    · exact cellWrite_wf _ _ _ _ h
    · exact h

theorem writeBack_wf (m : MemSys) (k : Nat) (h : m.wf = true) : (writeBack m k).wf = true := by
  unfold writeBack
  split
  · exact h
  · refine putLine_wf _ _ _ ?_
    split
    · exact storeSide_wf _ _ _ _ _ (writeSectors_wf _ _ _ _ _ h)
    · exact writeSectors_wf _ _ _ _ _ h

theorem evictLine_wf (m : MemSys) (k : Nat) (h : m.wf = true) : (evictLine m k).wf = true := writeBack_wf m k h

theorem evictAll_wf (ks : List Nat) : ∀ (m : MemSys), m.wf = true → (evictAll ks m).wf = true := by
  induction ks with
  | nil => intro m h; exact h
  | cons k r ih => intro m h; exact ih _ (evictLine_wf m k h)

theorem joinPage_wf (m : MemSys) (p : Nat) (h : m.wf = true) : (joinPage m p).wf = true :=
  evictAll_wf _ _ (evictAll_wf _ _ h)

theorem putPoison_wf (m : MemSys) (base : Nat) (sel v : BitVec 4) (n : Nat) (h : m.wf = true) : (putPoison m base sel v n).wf = true := by
  induction n with
  | zero => exact h
  | succ n ih =>
      simp only [putPoison]
      split
      · exact setMemPoison_wf _ _ _ ih
      · exact ih

theorem sliceWrite1_wf (m : MemSys) (pa : Nat) (bs : List Byte) (h : m.wf = true) : (sliceWrite1 m pa bs).wf = true := by
  unfold sliceWrite1
  dsimp only
  split
  · exact putLine_wf _ _ _ h
  · exact putPoison_wf _ _ _ _ _ (memWrite_wf _ _ _ h)

theorem sliceWriteN_wf (f : Nat) : ∀ (m : MemSys) (pa : Nat) (bs : List Byte), m.wf = true → (sliceWriteN m f pa bs).wf = true := by
  induction f with
  | zero => intro m pa bs h; exact h
  | succ f ih =>
      intro m pa bs h
      simp only [sliceWriteN]
      split
      · exact h
      · exact ih _ _ _ (sliceWrite1_wf _ _ _ h)

theorem sliceWrite_wf (m : MemSys) (pa : Nat) (bs : List Byte) (h : m.wf = true) : (sliceWrite m pa bs).wf = true :=
  sliceWriteN_wf _ _ _ _ h

theorem touchN_wf (f : Nat) : ∀ (m : MemSys) (pa n : Nat), m.wf = true → (touchN m f pa n).wf = true := by
  induction f with
  | zero => intro m pa n h; exact h
  | succ f ih =>
      intro m pa n h
      simp only [touchN]
      split
      · exact h
      · exact ih _ _ _ (touchLine_wf _ _ h)

theorem sliceTouch_wf (m : MemSys) (pa n : Nat) (h : m.wf = true) : (sliceTouch m pa n).wf = true := touchN_wf _ _ _ _ h

theorem slicePoisonMark_wf (m : MemSys) (pa n : Nat) (h : m.wf = true) : (slicePoisonMark m pa n).wf = true := by
  unfold slicePoisonMark
  dsimp only
  split
  · exact putLine_wf _ _ _ h
  · exact putPoison_wf _ _ _ _ _ h

theorem sliceWriteBlock_wf (m : MemSys) (pa : Nat) (tag : BitVec 4) (sb : List Byte) (h : m.wf = true) :
    (sliceWriteBlock m pa tag sb).wf = true := by
  unfold sliceWriteBlock
  split
  · exact h
  · split
    · dsimp only
      split
      · exact putLine_wf _ _ _ h
      · split
        · exact putLine_wf _ _ _ h
        · exact h
    · split
      · exact storeSide_wf _ _ _ _ _ h
      · exact h

theorem sliceWriteSide_wf (m : MemSys) (pa : Nat) (side : List Byte) (tag : BitVec 4) (h : m.wf = true) :
    (sliceWriteSide m pa side tag).wf = true := by
  unfold sliceWriteSide
  split
  · dsimp only
    split
    · split
      · exact h
      · exact putLine_wf _ _ _ h
    · split
      · exact h
      · exact putLine_wf _ _ _ h
  · exact storeSide_wf _ _ _ _ _ h

theorem aoFree_wf (m : MemSys) (n : Nat) (h : m.wf = true) : (aoFree m n).wf = true := by
  unfold aoFree
  split <;> exact h

theorem aoServe_wf (m : MemSys) (log : Bool) (pa : Nat) (src : BitVec 16) (t : W64) (h : m.wf = true) : (aoServe m log pa src t).wf = true := by
  unfold aoServe
  dsimp only
  split
  · split
    · split <;> exact h
    · exact h
  · exact h

/-! ## Bytes of memory -/

/-- A byte of memory after a write. -/
theorem memGet_write (m : MemSys) (pa i : Nat) (bs : List Byte) :
    tblGet memDefault (memWrite m pa bs).mem i =
      if pa50 pa ≤ i ∧ i < pa50 pa + bs.length then bs.getD (i - pa50 pa) memDefault else tblGet memDefault m.mem i :=
  tblGet_setRange _ _ _ _ _

end Sys2Proof.Laws
end

