-- ==== Sys2Proof/Laws/State.lean ====
section
/-! SUPPORT. The updates of the state: what each leaves of every field. -/

namespace Sys2Proof.Laws

open Sys2Proof Sys2Proof.Machine

/-- An element of a vector after a change of one. -/
theorem get_set {α : Type} {n : Nat} (v : Vector α n) (i : Nat) (x : α) (h : i < n) (k : Fin n) :
    (v.set i x h).get k = if i = k.val then x else v.get k := by
  show (v.set i x h)[k.val] = _
  rw [Vector.getElem_set]; rfl

/-- The element changed. -/
theorem get_set_self {α : Type} {n : Nat} (v : Vector α n) (x : α) (k : Fin n) : (v.set k.val x k.isLt).get k = x := by
  rw [get_set, if_pos rfl]

/-! ## The record of one executor among all -/

@[simp] theorem me_setMe (s : State) (c : Core) : me (setMe s c) = c := get_set_self _ _ _

@[simp] theorem me_onMe (s : State) (f : Core → Core) : me (onMe s f) = f (me s) := by
  simp [onMe]

@[simp] theorem me_onCtl (s : State) (f : Ctl → Ctl) : me (onCtl s f) = { me s with ctl := f (me s).ctl } := by
  simp [onCtl]

@[simp] theorem me_wr (s : State) (r : Reg) (v : W64) : me (wr s r v) = { me s with ctl := (me s).ctl.wr r v } := by
  simp [wr]

@[simp] theorem me_wrPred (s : State) (r : BitVec 4) (v : Bool) : me (wrPred s r v) = { me s with ctl := (me s).ctl.wrP r v } := by
  simp [wrPred]

/-- The records of the other executors. -/
theorem get_setMe_ne (s : State) (c : Core) (n : Fin 288) (h : n ≠ s.ex) : (setMe s c).cores.get n = s.cores.get n := by
  have h2 : ¬ s.ex.val = n.val := fun e => h (Fin.ext e.symm)
  exact (get_set s.cores s.ex.val c s.ex.isLt n).trans (if_neg h2)

/-- The record of the executor whose turn it is, by its number. -/
theorem get_ex (s : State) : s.cores.get s.ex = me s := rfl

/-- An update twice. -/
@[simp] theorem setMe_setMe (s : State) (c d : Core) : setMe (setMe s c) d = setMe s d := by
  simp [setMe]

/-- An update with the record that stands. -/
@[simp] theorem setMe_me (s : State) : setMe s (me s) = s := by
  have : s.cores.set s.ex (s.cores.get s.ex) = s.cores := by
    apply Vector.ext
    intro i hi
    rw [Vector.getElem_set]
    split
    · next h => subst h; rfl
    · rfl
  simp only [setMe, me, this]

/-! ## setMe -/

@[simp] theorem setMe_ex (s : State) (c : Core) : (setMe s c).ex = s.ex := rfl
@[simp] theorem setMe_agenda (s : State) (c : Core) : (setMe s c).agenda = s.agenda := rfl
@[simp] theorem setMe_rr (s : State) (c : Core) : (setMe s c).rr = s.rr := rfl
@[simp] theorem setMe_gtc (s : State) (c : Core) : (setMe s c).gtc = s.gtc := rfl
@[simp] theorem setMe_nextId (s : State) (c : Core) : (setMe s c).nextId = s.nextId := rfl
@[simp] theorem setMe_closing (s : State) (c : Core) : (setMe s c).closing = s.closing := rfl
@[simp] theorem setMe_choice (s : State) (c : Core) : (setMe s c).choice = s.choice := rfl
@[simp] theorem setMe_sectors (s : State) (c : Core) : (setMe s c).sectors = s.sectors := rfl
@[simp] theorem setMe_ms (s : State) (c : Core) : (setMe s c).ms = s.ms := rfl
@[simp] theorem setMe_launches (s : State) (c : Core) : (setMe s c).launches = s.launches := rfl
@[simp] theorem setMe_lqueue (s : State) (c : Core) : (setMe s c).lqueue = s.lqueue := rfl
@[simp] theorem setMe_acks (s : State) (c : Core) : (setMe s c).acks = s.acks := rfl
@[simp] theorem setMe_barCfg (s : State) (c : Core) : (setMe s c).barCfg = s.barCfg := rfl
@[simp] theorem setMe_barObj (s : State) (c : Core) : (setMe s c).barObj = s.barObj := rfl
@[simp] theorem setMe_wq (s : State) (c : Core) : (setMe s c).wq = s.wq := rfl
@[simp] theorem setMe_sendq (s : State) (c : Core) : (setMe s c).sendq = s.sendq := rfl
@[simp] theorem setMe_recvq (s : State) (c : Core) : (setMe s c).recvq = s.recvq := rfl
@[simp] theorem setMe_ctxs (s : State) (c : Core) : (setMe s c).ctxs = s.ctxs := rfl
@[simp] theorem setMe_images (s : State) (c : Core) : (setMe s c).images = s.images := rfl
@[simp] theorem setMe_tht (s : State) (c : Core) : (setMe s c).tht = s.tht := rfl
@[simp] theorem setMe_holds (s : State) (c : Core) : (setMe s c).holds = s.holds := rfl
@[simp] theorem setMe_ades (s : State) (c : Core) : (setMe s c).ades = s.ades := rfl
@[simp] theorem setMe_stopped (s : State) (c : Core) : (setMe s c).stopped = s.stopped := rfl
@[simp] theorem setMe_handovers (s : State) (c : Core) : (setMe s c).handovers = s.handovers := rfl
@[simp] theorem setMe_msgs (s : State) (c : Core) : (setMe s c).msgs = s.msgs := rfl
@[simp] theorem setMe_dev (s : State) (c : Core) : (setMe s c).dev = s.dev := rfl

/-! ## onMe -/

@[simp] theorem onMe_ex (s : State) (f : Core → Core) : (onMe s f).ex = s.ex := rfl
@[simp] theorem onMe_agenda (s : State) (f : Core → Core) : (onMe s f).agenda = s.agenda := rfl
@[simp] theorem onMe_rr (s : State) (f : Core → Core) : (onMe s f).rr = s.rr := rfl
@[simp] theorem onMe_gtc (s : State) (f : Core → Core) : (onMe s f).gtc = s.gtc := rfl
@[simp] theorem onMe_nextId (s : State) (f : Core → Core) : (onMe s f).nextId = s.nextId := rfl
@[simp] theorem onMe_closing (s : State) (f : Core → Core) : (onMe s f).closing = s.closing := rfl
@[simp] theorem onMe_choice (s : State) (f : Core → Core) : (onMe s f).choice = s.choice := rfl
@[simp] theorem onMe_sectors (s : State) (f : Core → Core) : (onMe s f).sectors = s.sectors := rfl
@[simp] theorem onMe_ms (s : State) (f : Core → Core) : (onMe s f).ms = s.ms := rfl
@[simp] theorem onMe_launches (s : State) (f : Core → Core) : (onMe s f).launches = s.launches := rfl
@[simp] theorem onMe_lqueue (s : State) (f : Core → Core) : (onMe s f).lqueue = s.lqueue := rfl
@[simp] theorem onMe_acks (s : State) (f : Core → Core) : (onMe s f).acks = s.acks := rfl
@[simp] theorem onMe_barCfg (s : State) (f : Core → Core) : (onMe s f).barCfg = s.barCfg := rfl
@[simp] theorem onMe_barObj (s : State) (f : Core → Core) : (onMe s f).barObj = s.barObj := rfl
@[simp] theorem onMe_wq (s : State) (f : Core → Core) : (onMe s f).wq = s.wq := rfl
@[simp] theorem onMe_sendq (s : State) (f : Core → Core) : (onMe s f).sendq = s.sendq := rfl
@[simp] theorem onMe_recvq (s : State) (f : Core → Core) : (onMe s f).recvq = s.recvq := rfl
@[simp] theorem onMe_ctxs (s : State) (f : Core → Core) : (onMe s f).ctxs = s.ctxs := rfl
@[simp] theorem onMe_images (s : State) (f : Core → Core) : (onMe s f).images = s.images := rfl
@[simp] theorem onMe_tht (s : State) (f : Core → Core) : (onMe s f).tht = s.tht := rfl
@[simp] theorem onMe_holds (s : State) (f : Core → Core) : (onMe s f).holds = s.holds := rfl
@[simp] theorem onMe_ades (s : State) (f : Core → Core) : (onMe s f).ades = s.ades := rfl
@[simp] theorem onMe_stopped (s : State) (f : Core → Core) : (onMe s f).stopped = s.stopped := rfl
@[simp] theorem onMe_handovers (s : State) (f : Core → Core) : (onMe s f).handovers = s.handovers := rfl
@[simp] theorem onMe_msgs (s : State) (f : Core → Core) : (onMe s f).msgs = s.msgs := rfl
@[simp] theorem onMe_dev (s : State) (f : Core → Core) : (onMe s f).dev = s.dev := rfl

/-! ## onCtl -/

@[simp] theorem onCtl_ex (s : State) (f : Ctl → Ctl) : (onCtl s f).ex = s.ex := rfl
@[simp] theorem onCtl_agenda (s : State) (f : Ctl → Ctl) : (onCtl s f).agenda = s.agenda := rfl
@[simp] theorem onCtl_rr (s : State) (f : Ctl → Ctl) : (onCtl s f).rr = s.rr := rfl
@[simp] theorem onCtl_gtc (s : State) (f : Ctl → Ctl) : (onCtl s f).gtc = s.gtc := rfl
@[simp] theorem onCtl_nextId (s : State) (f : Ctl → Ctl) : (onCtl s f).nextId = s.nextId := rfl
@[simp] theorem onCtl_closing (s : State) (f : Ctl → Ctl) : (onCtl s f).closing = s.closing := rfl
@[simp] theorem onCtl_choice (s : State) (f : Ctl → Ctl) : (onCtl s f).choice = s.choice := rfl
@[simp] theorem onCtl_sectors (s : State) (f : Ctl → Ctl) : (onCtl s f).sectors = s.sectors := rfl
@[simp] theorem onCtl_ms (s : State) (f : Ctl → Ctl) : (onCtl s f).ms = s.ms := rfl
@[simp] theorem onCtl_launches (s : State) (f : Ctl → Ctl) : (onCtl s f).launches = s.launches := rfl
@[simp] theorem onCtl_lqueue (s : State) (f : Ctl → Ctl) : (onCtl s f).lqueue = s.lqueue := rfl
@[simp] theorem onCtl_acks (s : State) (f : Ctl → Ctl) : (onCtl s f).acks = s.acks := rfl
@[simp] theorem onCtl_barCfg (s : State) (f : Ctl → Ctl) : (onCtl s f).barCfg = s.barCfg := rfl
@[simp] theorem onCtl_barObj (s : State) (f : Ctl → Ctl) : (onCtl s f).barObj = s.barObj := rfl
@[simp] theorem onCtl_wq (s : State) (f : Ctl → Ctl) : (onCtl s f).wq = s.wq := rfl
@[simp] theorem onCtl_sendq (s : State) (f : Ctl → Ctl) : (onCtl s f).sendq = s.sendq := rfl
@[simp] theorem onCtl_recvq (s : State) (f : Ctl → Ctl) : (onCtl s f).recvq = s.recvq := rfl
@[simp] theorem onCtl_ctxs (s : State) (f : Ctl → Ctl) : (onCtl s f).ctxs = s.ctxs := rfl
@[simp] theorem onCtl_images (s : State) (f : Ctl → Ctl) : (onCtl s f).images = s.images := rfl
@[simp] theorem onCtl_tht (s : State) (f : Ctl → Ctl) : (onCtl s f).tht = s.tht := rfl
@[simp] theorem onCtl_holds (s : State) (f : Ctl → Ctl) : (onCtl s f).holds = s.holds := rfl
@[simp] theorem onCtl_ades (s : State) (f : Ctl → Ctl) : (onCtl s f).ades = s.ades := rfl
@[simp] theorem onCtl_stopped (s : State) (f : Ctl → Ctl) : (onCtl s f).stopped = s.stopped := rfl
@[simp] theorem onCtl_handovers (s : State) (f : Ctl → Ctl) : (onCtl s f).handovers = s.handovers := rfl
@[simp] theorem onCtl_msgs (s : State) (f : Ctl → Ctl) : (onCtl s f).msgs = s.msgs := rfl
@[simp] theorem onCtl_dev (s : State) (f : Ctl → Ctl) : (onCtl s f).dev = s.dev := rfl

/-! ## wr -/

@[simp] theorem wr_ex (s : State) (r : Reg) (v : W64) : (wr s r v).ex = s.ex := rfl
@[simp] theorem wr_agenda (s : State) (r : Reg) (v : W64) : (wr s r v).agenda = s.agenda := rfl
@[simp] theorem wr_rr (s : State) (r : Reg) (v : W64) : (wr s r v).rr = s.rr := rfl
@[simp] theorem wr_gtc (s : State) (r : Reg) (v : W64) : (wr s r v).gtc = s.gtc := rfl
@[simp] theorem wr_nextId (s : State) (r : Reg) (v : W64) : (wr s r v).nextId = s.nextId := rfl
@[simp] theorem wr_closing (s : State) (r : Reg) (v : W64) : (wr s r v).closing = s.closing := rfl
@[simp] theorem wr_choice (s : State) (r : Reg) (v : W64) : (wr s r v).choice = s.choice := rfl
@[simp] theorem wr_sectors (s : State) (r : Reg) (v : W64) : (wr s r v).sectors = s.sectors := rfl
@[simp] theorem wr_ms (s : State) (r : Reg) (v : W64) : (wr s r v).ms = s.ms := rfl
@[simp] theorem wr_launches (s : State) (r : Reg) (v : W64) : (wr s r v).launches = s.launches := rfl
@[simp] theorem wr_lqueue (s : State) (r : Reg) (v : W64) : (wr s r v).lqueue = s.lqueue := rfl
@[simp] theorem wr_acks (s : State) (r : Reg) (v : W64) : (wr s r v).acks = s.acks := rfl
@[simp] theorem wr_barCfg (s : State) (r : Reg) (v : W64) : (wr s r v).barCfg = s.barCfg := rfl
@[simp] theorem wr_barObj (s : State) (r : Reg) (v : W64) : (wr s r v).barObj = s.barObj := rfl
@[simp] theorem wr_wq (s : State) (r : Reg) (v : W64) : (wr s r v).wq = s.wq := rfl
@[simp] theorem wr_sendq (s : State) (r : Reg) (v : W64) : (wr s r v).sendq = s.sendq := rfl
@[simp] theorem wr_recvq (s : State) (r : Reg) (v : W64) : (wr s r v).recvq = s.recvq := rfl
@[simp] theorem wr_ctxs (s : State) (r : Reg) (v : W64) : (wr s r v).ctxs = s.ctxs := rfl
@[simp] theorem wr_images (s : State) (r : Reg) (v : W64) : (wr s r v).images = s.images := rfl
@[simp] theorem wr_tht (s : State) (r : Reg) (v : W64) : (wr s r v).tht = s.tht := rfl
@[simp] theorem wr_holds (s : State) (r : Reg) (v : W64) : (wr s r v).holds = s.holds := rfl
@[simp] theorem wr_ades (s : State) (r : Reg) (v : W64) : (wr s r v).ades = s.ades := rfl
@[simp] theorem wr_stopped (s : State) (r : Reg) (v : W64) : (wr s r v).stopped = s.stopped := rfl
@[simp] theorem wr_handovers (s : State) (r : Reg) (v : W64) : (wr s r v).handovers = s.handovers := rfl
@[simp] theorem wr_msgs (s : State) (r : Reg) (v : W64) : (wr s r v).msgs = s.msgs := rfl
@[simp] theorem wr_dev (s : State) (r : Reg) (v : W64) : (wr s r v).dev = s.dev := rfl

/-! ## wrPred -/

@[simp] theorem wrPred_ex (s : State) (r : BitVec 4) (v : Bool) : (wrPred s r v).ex = s.ex := rfl
@[simp] theorem wrPred_agenda (s : State) (r : BitVec 4) (v : Bool) : (wrPred s r v).agenda = s.agenda := rfl
@[simp] theorem wrPred_rr (s : State) (r : BitVec 4) (v : Bool) : (wrPred s r v).rr = s.rr := rfl
@[simp] theorem wrPred_gtc (s : State) (r : BitVec 4) (v : Bool) : (wrPred s r v).gtc = s.gtc := rfl
@[simp] theorem wrPred_nextId (s : State) (r : BitVec 4) (v : Bool) : (wrPred s r v).nextId = s.nextId := rfl
@[simp] theorem wrPred_closing (s : State) (r : BitVec 4) (v : Bool) : (wrPred s r v).closing = s.closing := rfl
@[simp] theorem wrPred_choice (s : State) (r : BitVec 4) (v : Bool) : (wrPred s r v).choice = s.choice := rfl
@[simp] theorem wrPred_sectors (s : State) (r : BitVec 4) (v : Bool) : (wrPred s r v).sectors = s.sectors := rfl
@[simp] theorem wrPred_ms (s : State) (r : BitVec 4) (v : Bool) : (wrPred s r v).ms = s.ms := rfl
@[simp] theorem wrPred_launches (s : State) (r : BitVec 4) (v : Bool) : (wrPred s r v).launches = s.launches := rfl
@[simp] theorem wrPred_lqueue (s : State) (r : BitVec 4) (v : Bool) : (wrPred s r v).lqueue = s.lqueue := rfl
@[simp] theorem wrPred_acks (s : State) (r : BitVec 4) (v : Bool) : (wrPred s r v).acks = s.acks := rfl
@[simp] theorem wrPred_barCfg (s : State) (r : BitVec 4) (v : Bool) : (wrPred s r v).barCfg = s.barCfg := rfl
@[simp] theorem wrPred_barObj (s : State) (r : BitVec 4) (v : Bool) : (wrPred s r v).barObj = s.barObj := rfl
@[simp] theorem wrPred_wq (s : State) (r : BitVec 4) (v : Bool) : (wrPred s r v).wq = s.wq := rfl
@[simp] theorem wrPred_sendq (s : State) (r : BitVec 4) (v : Bool) : (wrPred s r v).sendq = s.sendq := rfl
@[simp] theorem wrPred_recvq (s : State) (r : BitVec 4) (v : Bool) : (wrPred s r v).recvq = s.recvq := rfl
@[simp] theorem wrPred_ctxs (s : State) (r : BitVec 4) (v : Bool) : (wrPred s r v).ctxs = s.ctxs := rfl
@[simp] theorem wrPred_images (s : State) (r : BitVec 4) (v : Bool) : (wrPred s r v).images = s.images := rfl
@[simp] theorem wrPred_tht (s : State) (r : BitVec 4) (v : Bool) : (wrPred s r v).tht = s.tht := rfl
@[simp] theorem wrPred_holds (s : State) (r : BitVec 4) (v : Bool) : (wrPred s r v).holds = s.holds := rfl
@[simp] theorem wrPred_ades (s : State) (r : BitVec 4) (v : Bool) : (wrPred s r v).ades = s.ades := rfl
@[simp] theorem wrPred_stopped (s : State) (r : BitVec 4) (v : Bool) : (wrPred s r v).stopped = s.stopped := rfl
@[simp] theorem wrPred_handovers (s : State) (r : BitVec 4) (v : Bool) : (wrPred s r v).handovers = s.handovers := rfl
@[simp] theorem wrPred_msgs (s : State) (r : BitVec 4) (v : Bool) : (wrPred s r v).msgs = s.msgs := rfl
@[simp] theorem wrPred_dev (s : State) (r : BitVec 4) (v : Bool) : (wrPred s r v).dev = s.dev := rfl

/-! ## Another executor's record -/

/-- Executor n's record after a change of executor k's. -/
theorem coreAt_onCore (s : State) (n k : Nat) (f : Core → Core) (hn : n < 288) :
    coreAt (onCore s k f) n = if n = k then f (coreAt s n) else coreAt s n := by
  unfold coreAt onCore
  rw [dif_pos hn, dif_pos hn]
  by_cases hk : k < 288
  · rw [dif_pos hk, get_set]
    by_cases h : n = k
    · subst h; rw [if_pos rfl]
    · rw [if_neg (fun e => h e.symm), if_neg h]
  · rw [dif_neg hk, if_neg (by omega)]


@[simp] theorem onCore_ex (s : State) (n : Nat) (f : Core → Core) : (onCore s n f).ex = s.ex := by unfold onCore; split <;> rfl
@[simp] theorem onCore_agenda (s : State) (n : Nat) (f : Core → Core) : (onCore s n f).agenda = s.agenda := by unfold onCore; split <;> rfl
@[simp] theorem onCore_rr (s : State) (n : Nat) (f : Core → Core) : (onCore s n f).rr = s.rr := by unfold onCore; split <;> rfl
@[simp] theorem onCore_gtc (s : State) (n : Nat) (f : Core → Core) : (onCore s n f).gtc = s.gtc := by unfold onCore; split <;> rfl
@[simp] theorem onCore_nextId (s : State) (n : Nat) (f : Core → Core) : (onCore s n f).nextId = s.nextId := by unfold onCore; split <;> rfl
@[simp] theorem onCore_closing (s : State) (n : Nat) (f : Core → Core) : (onCore s n f).closing = s.closing := by unfold onCore; split <;> rfl
@[simp] theorem onCore_choice (s : State) (n : Nat) (f : Core → Core) : (onCore s n f).choice = s.choice := by unfold onCore; split <;> rfl
@[simp] theorem onCore_sectors (s : State) (n : Nat) (f : Core → Core) : (onCore s n f).sectors = s.sectors := by unfold onCore; split <;> rfl
@[simp] theorem onCore_ms (s : State) (n : Nat) (f : Core → Core) : (onCore s n f).ms = s.ms := by unfold onCore; split <;> rfl
@[simp] theorem onCore_launches (s : State) (n : Nat) (f : Core → Core) : (onCore s n f).launches = s.launches := by unfold onCore; split <;> rfl
@[simp] theorem onCore_lqueue (s : State) (n : Nat) (f : Core → Core) : (onCore s n f).lqueue = s.lqueue := by unfold onCore; split <;> rfl
@[simp] theorem onCore_acks (s : State) (n : Nat) (f : Core → Core) : (onCore s n f).acks = s.acks := by unfold onCore; split <;> rfl
@[simp] theorem onCore_barCfg (s : State) (n : Nat) (f : Core → Core) : (onCore s n f).barCfg = s.barCfg := by unfold onCore; split <;> rfl
@[simp] theorem onCore_barObj (s : State) (n : Nat) (f : Core → Core) : (onCore s n f).barObj = s.barObj := by unfold onCore; split <;> rfl
@[simp] theorem onCore_wq (s : State) (n : Nat) (f : Core → Core) : (onCore s n f).wq = s.wq := by unfold onCore; split <;> rfl
@[simp] theorem onCore_sendq (s : State) (n : Nat) (f : Core → Core) : (onCore s n f).sendq = s.sendq := by unfold onCore; split <;> rfl
@[simp] theorem onCore_recvq (s : State) (n : Nat) (f : Core → Core) : (onCore s n f).recvq = s.recvq := by unfold onCore; split <;> rfl
@[simp] theorem onCore_ctxs (s : State) (n : Nat) (f : Core → Core) : (onCore s n f).ctxs = s.ctxs := by unfold onCore; split <;> rfl
@[simp] theorem onCore_images (s : State) (n : Nat) (f : Core → Core) : (onCore s n f).images = s.images := by unfold onCore; split <;> rfl
@[simp] theorem onCore_tht (s : State) (n : Nat) (f : Core → Core) : (onCore s n f).tht = s.tht := by unfold onCore; split <;> rfl
@[simp] theorem onCore_holds (s : State) (n : Nat) (f : Core → Core) : (onCore s n f).holds = s.holds := by unfold onCore; split <;> rfl
@[simp] theorem onCore_ades (s : State) (n : Nat) (f : Core → Core) : (onCore s n f).ades = s.ades := by unfold onCore; split <;> rfl
@[simp] theorem onCore_stopped (s : State) (n : Nat) (f : Core → Core) : (onCore s n f).stopped = s.stopped := by unfold onCore; split <;> rfl
@[simp] theorem onCore_handovers (s : State) (n : Nat) (f : Core → Core) : (onCore s n f).handovers = s.handovers := by unfold onCore; split <;> rfl
@[simp] theorem onCore_msgs (s : State) (n : Nat) (f : Core → Core) : (onCore s n f).msgs = s.msgs := by unfold onCore; split <;> rfl
@[simp] theorem onCore_dev (s : State) (n : Nat) (f : Core → Core) : (onCore s n f).dev = s.dev := by unfold onCore; split <;> rfl

/-! ## Scalar registers and predicates -/

/-- A scalar register after a write: s0 keeps reading zero. -/
theorem Ctl_rd_wr (c : Ctl) (r q : Reg) (v : W64) : (c.wr r v).rd q = if q = r ∧ r ≠ 0 then v else c.rd q := by
  unfold Ctl.wr
  by_cases h0 : r = 0
  · rw [if_pos h0, if_neg (fun h => h.2 h0)]
  · rw [if_neg h0]
    unfold Ctl.rd
    by_cases hq : q = 0
    · rw [if_pos hq, if_pos hq, if_neg (fun h => h0 (h.1.symm.trans hq))]
    · rw [if_neg hq, if_neg hq, get_set]
      by_cases h : q = r
      · rw [if_pos (by rw [h]), if_pos ⟨h, h0⟩]
      · rw [if_neg (fun e => h (BitVec.eq_of_toNat_eq e.symm)), if_neg (fun e => h e.1)]

/-- s0 reads zero. -/
@[simp] theorem Ctl_rd_zero (c : Ctl) : c.rd 0 = 0 := rfl

/-- p15 reads 1. -/
@[simp] theorem Ctl_rdP_15 (c : Ctl) : c.rdP 15 = true := rfl

/-- A predicate after a write: p15 keeps reading 1. -/
theorem Ctl_rdP_wrP (c : Ctl) (r q : BitVec 4) (v : Bool) : (c.wrP r v).rdP q = if q = r ∧ r ≠ 15 then v else c.rdP q := by
  unfold Ctl.wrP
  by_cases h0 : r = 15
  · rw [if_pos h0, if_neg (fun h => h.2 h0)]
  · rw [if_neg h0]
    unfold Ctl.rdP
    by_cases hq : q = 15
    · rw [if_pos hq, if_pos hq, if_neg (fun h => h0 (h.1.symm.trans hq))]
    · rw [if_neg hq, if_neg hq, get_set]
      by_cases h : q = r
      · rw [if_pos (by rw [h]), if_pos ⟨h, h0⟩]
      · rw [if_neg (fun e => h (BitVec.eq_of_toNat_eq e.symm)), if_neg (fun e => h e.1)]

@[simp] theorem Ctl_rdP_wr (c : Ctl) (r : Reg) (v : W64) (q : BitVec 4) : (c.wr r v).rdP q = c.rdP q := by
  unfold Ctl.wr; split <;> rfl

@[simp] theorem Ctl_rd_wrP (c : Ctl) (r : BitVec 4) (v : Bool) (q : Reg) : (c.wrP r v).rd q = c.rd q := by
  unfold Ctl.wrP; split <;> rfl

@[simp] theorem Ctl_pc_wr (c : Ctl) (r : Reg) (v : W64) : (c.wr r v).pc = c.pc := by unfold Ctl.wr; split <;> rfl
@[simp] theorem Ctl_loops_wr (c : Ctl) (r : Reg) (v : W64) : (c.wr r v).loops = c.loops := by unfold Ctl.wr; split <;> rfl
@[simp] theorem Ctl_p_wr (c : Ctl) (r : Reg) (v : W64) : (c.wr r v).p = c.p := by unfold Ctl.wr; split <;> rfl
@[simp] theorem Ctl_badp_wr (c : Ctl) (r : Reg) (v : W64) : (c.wr r v).badp = c.badp := by unfold Ctl.wr; split <;> rfl
@[simp] theorem Ctl_rd_passes (c : Ctl) (n : Nat) (r : Reg) : (c.passes n).rd r = c.rd r := rfl
@[simp] theorem Ctl_rdP_passes (c : Ctl) (n : Nat) (p : BitVec 4) : (c.passes n).rdP p = c.rdP p := rfl
@[simp] theorem Ctl_pc_passes (c : Ctl) (n : Nat) : (c.passes n).pc = c.pc := rfl
@[simp] theorem Ctl_loops_passes (c : Ctl) (n : Nat) : (c.passes n).loops = c.loops := rfl
@[simp] theorem Ctl_s_passes (c : Ctl) (n : Nat) : (c.passes n).s = c.s := rfl
@[simp] theorem Ctl_bad_passes (c : Ctl) (n : Nat) : (c.passes n).bad = c.bad := rfl
@[simp] theorem Ctl_badp_passes (c : Ctl) (n : Nat) : (c.passes n).badp = c.badp := rfl
@[simp] theorem Ctl_pc_wrP (c : Ctl) (r : BitVec 4) (v : Bool) : (c.wrP r v).pc = c.pc := by unfold Ctl.wrP; split <;> rfl
@[simp] theorem Ctl_loops_wrP (c : Ctl) (r : BitVec 4) (v : Bool) : (c.wrP r v).loops = c.loops := by unfold Ctl.wrP; split <;> rfl
@[simp] theorem Ctl_s_wrP (c : Ctl) (r : BitVec 4) (v : Bool) : (c.wrP r v).s = c.s := by unfold Ctl.wrP; split <;> rfl
@[simp] theorem Ctl_bad_wrP (c : Ctl) (r : BitVec 4) (v : Bool) : (c.wrP r v).bad = c.bad := by unfold Ctl.wrP; split <;> rfl

/-- A register of the executor whose turn it is, after a write. -/
@[simp] theorem rd_wr (s : State) (r q : Reg) (v : W64) : rd (wr s r v) q = if q = r ∧ r ≠ 0 then v else rd s q := by
  simp [rd, Ctl_rd_wr]

@[simp] theorem rd_wrPred (s : State) (r : BitVec 4) (v : Bool) (q : Reg) : rd (wrPred s r v) q = rd s q := by
  simp [rd]

end Sys2Proof.Laws
end

