-- ==== Sys2Proof/Laws/Ops.lean ====
section
/-! SUPPORT. What the shared operations of the control sequencer do: the end of a word, a redirection, the guard, a trap. -/

namespace Sys2Proof.Laws

open Sys2Proof Sys2Proof.Machine Sys2Proof.Frame

/-! ## Nothing elsewhere -/

theorem elsewhere_refl (s : State) : Elsewhere s s := ⟨rfl, fun _ _ => rfl, fun _ => rfl⟩

/-- A change of the executor's own record is nothing elsewhere. -/
theorem elsewhere_setMe (s : State) (c : Core) : Elsewhere s (setMe s c) :=
  ⟨rfl, fun n h => get_setMe_ne s c n h, fun _ => rfl⟩

theorem elsewhere_setMe_id (s : State) (c : Core) (k : Nat) : Elsewhere s { setMe s c with nextId := k } :=
  ⟨rfl, fun n h => get_setMe_ne s c n h, fun _ => rfl⟩

theorem elsewhere_ex {s t : State} (h : Elsewhere s t) : t.ex = s.ex := by rw [h.machine]

theorem elsewhere_trans {s t u : State} (h : Elsewhere s t) (k : Elsewhere t u) : Elsewhere s u := by
  refine ⟨?_, fun n hn => ?_, fun pa => (k.memory pa).trans (h.memory pa)⟩
  · rw [k.machine, h.machine]
  · rw [k.others n (by rw [elsewhere_ex h]; exact hn), h.others n hn]

/-! ## Snapshots -/

/-- The part of `Aside` that a snapshot may change. -/
structure Snapped (c d : Core) : Prop where
  rest : d = { c with reqs := d.reqs, csrd := { c.csrd with bccnt := d.csrd.bccnt, bcctl := d.csrd.bcctl } }
  record : d.reqs = c.reqs ∨ ∃ r, isRecord false r = true ∧ d.reqs = c.reqs ++ [r]
  disabled : c.csrd.bcctl.getLsbD 31 = false → d.reqs = c.reqs ∧ d.csrd = c.csrd

theorem snapped_refl (c : Core) : Snapped c c := ⟨rfl, .inl rfl, fun _ => ⟨rfl, rfl⟩⟩

/-- A snapshot of a control loop level. -/
theorem snapshot_spec (s : State) (l slot : Nat) :
    Elsewhere s (snapshot s .control 1 l slot) ∧ Snapped (me s) (me (snapshot s .control 1 l slot)) ∧
      ((me s).reqs.any (isRecord false) = true → (me (snapshot s .control 1 l slot)).reqs = (me s).reqs) := by
  unfold snapshot
  dsimp only
  split
  · exact ⟨elsewhere_refl s, snapped_refl _, fun _ => rfl⟩
  · next hen =>
    have hb : (1 == 0) = false := rfl
    simp only [hb]
    split
    · refine ⟨elsewhere_setMe _ _, ?_, fun _ => by simp⟩
      rw [me_setMe]
      exact ⟨rfl, .inl rfl, fun h => absurd (by rw [h]; rfl) hen⟩
    · next hn =>
      have hme : ∀ (k : Nat) (c : Core), me (setMe { s with nextId := k } c) = c := fun k c => me_setMe _ c
      rw [hme]
      refine ⟨elsewhere_setMe_id s _ _, ⟨rfl, .inr ⟨_, rfl, rfl⟩, fun h => absurd (by rw [h]; rfl) hen⟩, fun h => absurd h hn⟩

theorem endSnaps_spec (ls : List (Nat × Nat)) : ∀ (s : State),
    Elsewhere s (endSnaps ls s) ∧ Snapped (me s) (me (endSnaps ls s)) ∧
      ((me s).reqs.any (isRecord false) = true → (me (endSnaps ls s)).reqs = (me s).reqs) := by
  induction ls with
  | nil => intro s; exact ⟨elsewhere_refl s, snapped_refl _, fun _ => rfl⟩
  | cons x r ih =>
      obtain ⟨l, slot⟩ := x
      intro s
      simp only [endSnaps]
      have h1 : Elsewhere s (if (me s).csrd.bcctl.getLsbD (16 + l) then snapshot s .control 1 l slot else s) ∧
          Snapped (me s) (me (if (me s).csrd.bcctl.getLsbD (16 + l) then snapshot s .control 1 l slot else s)) ∧
          ((me s).reqs.any (isRecord false) = true →
            (me (if (me s).csrd.bcctl.getLsbD (16 + l) then snapshot s .control 1 l slot else s)).reqs = (me s).reqs) := by
        split
        · exact snapshot_spec s l slot
        · exact ⟨elsewhere_refl s, snapped_refl _, fun _ => rfl⟩
      generalize (if (me s).csrd.bcctl.getLsbD (16 + l) then snapshot s .control 1 l slot else s) = t at h1
      obtain ⟨e1, s1, r1⟩ := h1
      obtain ⟨e2, s2, r2⟩ := ih t
      refine ⟨elsewhere_trans e1 e2, ⟨?_, ?_, ?_⟩, fun h => ?_⟩
      · rw [s2.rest, s1.rest]
      · rcases s1.record with h | ⟨q, hq, h⟩
        · rcases s2.record with h' | ⟨q, hq, h'⟩
          · exact .inl (h'.trans h)
          · exact .inr ⟨q, hq, by rw [h', h]⟩
        · refine .inr ⟨q, hq, ?_⟩
          rw [r2 (by rw [h]; simp [hq]), h]
      · intro h
        obtain ⟨a, b⟩ := s1.disabled h
        obtain ⟨a', b'⟩ := s2.disabled (by rw [b]; exact h)
        exact ⟨a'.trans a, b'.trans b⟩
      · have := r1 h
        rw [r2 (by rw [this]; exact h), this]

/-! ## The end of a word -/

/-- The loop end test leaves the registers. -/
theorem loopEnd_regs (n : Nat) : ∀ (c : Ctl) (pc : W64) (b : Option Nat) (e : List Nat),
    (loopEnd n c pc b e).1 = { c with pc := (loopEnd n c pc b e).1.pc, loops := (loopEnd n c pc b e).1.loops } := by
  induction n with
  | zero => intro c pc b e; rfl
  | succ n ih =>
      intro c pc b e
      simp only [loopEnd]
      split
      · rfl
      · split
        · rfl
        · next i _ _ =>
          exact (ih { c with loops := c.loops.set i { c.loops.get i with act := false } } pc _ _)

/-- Everything that the end of a word does. -/
theorem retire_spec (s : State) :
    Elsewhere s (retire s) ∧ Aside (me s) (me (retire s)) ∧ (me (retire s)).ctl = (loopEnd 4 (me s).ctl (me s).ctl.pc none []).1.passes 1 ∧
      (me (retire s)).ccycle = (me s).ccycle + 1 := by
  unfold retire
  dsimp only
  split
  · next p hp =>
    refine ⟨elsewhere_setMe s _, ⟨?_, ?_, ?_, ?_, ?_⟩, ?_, ?_⟩
    · rw [me_setMe]
    · exact .inl (by rw [me_setMe])
    · intro _; rw [me_setMe]; exact ⟨rfl, rfl⟩
    · intro h; exact absurd (hp.symm.trans h) (by simp)
    · intro q hq
      rw [me_setMe]
      have : q = p := Option.some.inj (hq.symm.trans hp)
      subst this
      exact ⟨rfl, rfl, _, rfl⟩
    · rw [me_setMe]
    · rw [me_setMe]
  · next hp =>
    obtain ⟨e, n, _⟩ := endSnaps_spec ((loopEnd 4 (me s).ctl (me s).ctl.pc none []).2.map (fun l => (l, (me s).ccycle)))
      (setMe s { me s with ctl := (loopEnd 4 (me s).ctl (me s).ctl.pc none []).1.passes 1, ccycle := (me s).ccycle + 1, remain := none, relAt := none })
    generalize endSnaps _ _ = t at e n ⊢
    rw [me_setMe] at n
    refine ⟨elsewhere_trans (elsewhere_setMe s _) e, ⟨?_, n.record, n.disabled, ?_, ?_⟩, ?_, ?_⟩
    · rw [n.rest]
    · intro _; rw [n.rest]; exact hp
    · intro q hq; exact absurd (hp.symm.trans hq) (by simp)
    · rw [n.rest]
    · rw [n.rest]

theorem retire_ctl (s : State) : (me (retire s)).ctl = (loopEnd 4 (me s).ctl (me s).ctl.pc none []).1.passes 1 := (retire_spec s).2.2.1

@[simp] theorem rd_retire (s : State) (r : Reg) : rd (retire s) r = rd s r := by
  unfold rd
  rw [retire_ctl, Ctl_rd_passes, loopEnd_regs]
  rfl

@[simp] theorem rdP_retire (s : State) (p : BitVec 4) : (me (retire s)).ctl.rdP p = (me s).ctl.rdP p := by
  rw [retire_ctl, Ctl_rdP_passes, loopEnd_regs]
  rfl

/-- The loop end test reads the pc and the levels alone. -/
theorem lastLevel_congr (c d : Ctl) (h : c.loops = d.loops) (pc : W64) (b : Option Nat) : ∀ l, lastLevel c pc b l = lastLevel d pc b l := by
  intro l
  induction l with
  | nil => rfl
  | cons i r ih => simp only [lastLevel, ih, h]

theorem loopEnd_congr (n : Nat) : ∀ (c d : Ctl) (_ : c.loops = d.loops) (pc : W64) (b : Option Nat) (e : List Nat),
    (loopEnd n c pc b e).1.pc = (loopEnd n d pc b e).1.pc ∧ (loopEnd n c pc b e).1.loops = (loopEnd n d pc b e).1.loops := by
  induction n with
  | zero => intro c d h pc b e; exact ⟨rfl, h⟩
  | succ n ih =>
      intro c d h pc b e
      simp only [loopEnd, lastLevel_congr c d h, h]
      split
      · exact ⟨rfl, rfl⟩
      · split
        · exact ⟨rfl, rfl⟩
        · exact ih _ _ (by rfl) _ _ _

/-- A word that changes registers of the executor alone and is then complete. -/
theorem register_word (s : State) (f : Ctl → Ctl) (ds : List Reg) (ps : List (BitVec 4))
    (hr : ∀ c r, r ∉ ds → (f c).rd r = c.rd r) (hp : ∀ c p, p ∉ ps → (f c).rdP p = c.rdP p)
    (hpc : ∀ c, (f c).pc = c.pc) (hl : ∀ c, (f c).loops = c.loops) :
    RegisterWord s (retire (onCtl s f)) ds ps := by
  obtain ⟨e, a, c, k⟩ := retire_spec (onCtl s f)
  refine ⟨fun r h => ?_, fun p h => ?_, ?_, elsewhere_trans (elsewhere_setMe s _) e, ?_⟩
  · rw [rd_retire]; unfold rd; rw [me_onCtl]; exact hr _ _ h
  · rw [rdP_retire, me_onCtl]; exact hp _ _ h
  · rw [me_onCtl] at a
    exact ⟨a.rest, a.record, a.disabled, a.idle, a.behind⟩
  · unfold nextWord
    rw [c, me_onCtl, Ctl_pc_passes, Ctl_loops_passes]
    simp only [hpc]
    exact loopEnd_congr 4 _ _ (hl _) _ _ _

/-- A word that writes s[d] and is complete. -/
theorem register_word_wr (s : State) (d : Reg) (v : W64) : RegisterWord s (retire (wr s d v)) [d] [] :=
  register_word s (fun c => c.wr d v) [d] [] (fun c r h => by rw [Ctl_rd_wr, if_neg (fun e => h (by simp [e.1]))]) (fun c p _ => Ctl_rdP_wr c d v p)
    (fun c => Ctl_pc_wr c d v) (fun c => Ctl_loops_wr c d v)

/-- A word that writes p[d] and is complete. -/
theorem register_word_wrPred (s : State) (d : BitVec 4) (v : Bool) : RegisterWord s (retire (wrPred s d v)) [] [d] :=
  register_word s (fun c => c.wrP d v) [] [d] (fun c r _ => Ctl_rd_wrP c d v r) (fun c p h => by rw [Ctl_rdP_wrP, if_neg (fun e => h (by simp [e.1]))])
    (fun c => Ctl_pc_wrP c d v) (fun c => Ctl_loops_wrP c d v)

/-- A word that changes nothing and is complete. -/
theorem register_word_none (s : State) : RegisterWord s (retire s) [] [] := by
  have h := register_word s id [] [] (fun c r _ => rfl) (fun c p _ => rfl) (fun c => rfl) (fun c => rfl)
  have e : onCtl s id = s := by
    show setMe s (me s) = s
    exact setMe_me s
  rwa [e] at h

/-- The value that the write leaves. -/
theorem rd_retire_wr (s : State) (d : Reg) (v : W64) : rd (retire (wr s d v)) d = if d = 0 then 0 else v := by
  rw [rd_retire, rd_wr]
  by_cases h : d = 0
  · subst h; rfl
  · rw [if_pos ⟨rfl, h⟩, if_neg h]

theorem rdP_retire_wrPred (s : State) (d : BitVec 4) (v : Bool) : (me (retire (wrPred s d v))).ctl.rdP d = if d = 15 then true else v := by
  rw [rdP_retire, me_wrPred]
  by_cases h : d = 15
  · subst h; rfl
  · rw [Ctl_rdP_wrP, if_pos ⟨rfl, h⟩, if_neg h]

/-- The guard of a word that executes. -/
theorem guarded_ok (g : Guard) (s : State) (f : State → State) (h : guardOk (me s).ctl g = true) : guarded g s f = f s := by
  unfold guarded; rw [if_pos h]

/-- The guard of a predicate-false word. -/
theorem guarded_off (g : Guard) (s : State) (f : State → State) (h : guardOk (me s).ctl g = false) : guarded g s f = retire s := by
  unfold guarded; rw [if_neg (by simp [h])]

end Sys2Proof.Laws
end

