-- ==== Sys2Proof/Laws/Scalar.lean ====
section
/-! SUPPORT. The integer results of the control words as functions of bit vectors (spec/14_control.md R289 to R291). -/

namespace Sys2Proof.Laws

open Sys2Proof Sys2Proof.Machine

theorem mulhU_eq (x y : W64) : mulhU x y = (x.setWidth 128 * y.setWidth 128).extractLsb' 64 64 := by
  unfold mulhU
  apply BitVec.eq_of_toNat_eq
  have hx := x.isLt
  have hy := y.isLt
  have h : x.toNat * y.toNat < 2 ^ 128 := by nlinarith
  simp only [BitVec.toNat_ofNat, BitVec.extractLsb'_toNat, BitVec.toNat_mul, BitVec.toNat_setWidth]
  rw [Nat.mod_eq_of_lt (by omega : x.toNat < 2 ^ 128), Nat.mod_eq_of_lt (by omega : y.toNat < 2 ^ 128), Nat.mod_eq_of_lt h,
    Nat.shiftRight_eq_div_pow]

theorem mulhS_eq (x y : W64) : mulhS x y = (x.signExtend 128 * y.signExtend 128).extractLsb' 64 64 := by
  have hx : (x.signExtend 128).toInt = x.toInt := BitVec.toInt_signExtend_of_le (by decide)
  have hy : (y.signExtend 128).toInt = y.toInt := BitVec.toInt_signExtend_of_le (by decide)
  have h : (x.signExtend 128 * y.signExtend 128) = BitVec.ofInt 128 (x.toInt * y.toInt) := by
    apply BitVec.eq_of_toInt_eq
    rw [BitVec.toInt_mul, hx, hy, BitVec.toInt_ofInt]
  rw [h]
  unfold mulhS
  generalize x.toInt * y.toInt = p
  apply BitVec.eq_of_toNat_eq
  rw [BitVec.extractLsb'_toNat, BitVec.toNat_ofInt, BitVec.toNat_ofInt, Nat.shiftRight_eq_div_pow]
  omega

theorem divS_eq (x y : W64) : divS x y = if y = 0 then BitVec.allOnes 64 else x.sdiv y := by
  unfold divS
  split
  · rfl
  · apply BitVec.eq_of_toInt_eq
    rw [BitVec.toInt_sdiv, BitVec.toInt_ofInt]

theorem divU_eq (x y : W64) : divU x y = if y = 0 then BitVec.allOnes 64 else x / y := by
  unfold divU
  split
  · rfl
  · apply BitVec.eq_of_toNat_eq
    rw [BitVec.toNat_ofNat, BitVec.toNat_udiv]
    exact Nat.mod_eq_of_lt (lt_of_le_of_lt (Nat.div_le_self _ _) x.isLt)

theorem remS_eq (x y : W64) : remS x y = if y = 0 then x else x.srem y := by
  unfold remS
  split
  · rfl
  · rw [← BitVec.toInt_srem, BitVec.ofInt_toInt]

theorem remU_eq (x y : W64) : remU x y = if y = 0 then x else x % y := by
  unfold remU
  split
  · rfl
  · apply BitVec.eq_of_toNat_eq
    rw [BitVec.toNat_ofNat, BitVec.toNat_umod]
    exact Nat.mod_eq_of_lt (lt_of_le_of_lt (Nat.mod_le _ _) x.isLt)

theorem shlW_eq (x y : W64) : shlW x y = if y.toNat < 64 then x <<< y.toNat else 0 := by
  unfold shlW
  split <;> split <;> first | rfl | omega

theorem shrW_eq (x y : W64) : shrW x y = if y.toNat < 64 then x >>> y.toNat else 0 := by
  unfold shrW
  split <;> split <;> first | rfl | omega

theorem sraW_eq (x y : W64) : sraW x y = x.sshiftRight (min y.toNat 63) := by
  unfold sraW
  split
  · next h =>
    rw [Nat.min_eq_right (by omega)]
    apply BitVec.eq_of_getLsbD_eq
    intro i hi
    rw [BitVec.getLsbD_sshiftRight]
    have hm : x.msb = x.getLsbD 63 := by rw [BitVec.msb_eq_getLsbD_last]
    by_cases h0 : i = 0
    · subst h0
      cases hx : x.msb
      · rw [hm] at hx
        simp only [Bool.false_eq_true, if_false]
        rw [show 63 + 0 = 63 from rfl, hx]; simp
      · rw [hm] at hx
        simp only [if_true]
        rw [show 63 + 0 = 63 from rfl, hx]; simp
    · have e : ¬ (63 + i < 64) := by omega
      have e2 : ¬ (64 ≤ i) := by omega
      simp only [e, if_false, e2, decide_false, Bool.not_false, Bool.true_and]
      cases hx : x.msb
      · simp
      · rw [if_pos rfl, BitVec.getLsbD_allOnes]; simp [hi]
  · rw [Nat.min_eq_left (by omega)]

theorem minS_eq (x y : W64) : (if x.slt y then x else y) = if x.toInt ≤ y.toInt then x else y := by
  simp only [BitVec.slt_iff_toInt_lt]
  split <;> split <;> first | rfl | omega | (apply BitVec.eq_of_toInt_eq; omega)

theorem maxS_eq (x y : W64) : (if x.slt y then y else x) = if x.toInt ≤ y.toInt then y else x := by
  simp only [BitVec.slt_iff_toInt_lt]
  split <;> split <;> first | rfl | omega | (apply BitVec.eq_of_toInt_eq; omega)

theorem minU_eq (x y : W64) : (if x.ult y then x else y) = if x.toNat ≤ y.toNat then x else y := by
  simp only [BitVec.ult_iff_toNat_lt]
  split <;> split <;> first | rfl | omega | (apply BitVec.eq_of_toNat_eq; omega)

theorem maxU_eq (x y : W64) : (if x.ult y then y else x) = if x.toNat ≤ y.toNat then y else x := by
  simp only [BitVec.ult_iff_toNat_lt]
  split <;> split <;> first | rfl | omega | (apply BitVec.eq_of_toNat_eq; omega)

/-- CLZ of the low n bits. -/
theorem clzN_spec (x : W64) (n : Nat) :
    clzN x n ≤ n ∧ (∀ i, i < clzN x n → x.getLsbD (n - 1 - i) = false) ∧ (clzN x n < n → x.getLsbD (n - 1 - clzN x n) = true) := by
  induction n with
  | zero => exact ⟨le_refl _, fun i h => absurd h (by simp [clzN]), fun h => absurd h (by simp [clzN])⟩
  | succ n ih =>
      unfold clzN
      split
      · next h => exact ⟨by omega, fun i hi => absurd hi (by omega), fun _ => by simpa using h⟩
      · next h =>
        obtain ⟨a, b, c⟩ := ih
        refine ⟨by omega, fun i hi => ?_, fun hl => ?_⟩
        · by_cases h0 : i = 0
          · subst h0; simpa using h
          · have := b (i - 1) (by omega)
            rwa [show n - 1 - (i - 1) = n + 1 - 1 - i by omega] at this
        · have := c (by omega)
          rwa [show n - 1 - clzN x n = n + 1 - 1 - (1 + clzN x n) by omega] at this

/-- POPC of the low n bits. -/
theorem popcN_eq (x : W64) (n : Nat) : popcN x n = ((List.range n).filter (fun i => x.getLsbD i)).length := by
  induction n with
  | zero => rfl
  | succ n ih =>
      rw [popcN, List.range_succ, List.filter_append, List.length_append, ih]
      congr 1
      cases h : x.getLsbD n <;> simp [h]

/-- A word with one bit. -/
theorem oneBit (n i : Nat) (h : n < 64) : (1#64 <<< n).getLsbD i = decide (i = n) := by
  rw [BitVec.getLsbD_shiftLeft]
  by_cases h1 : i = n
  · subst h1; simp [h]
  · by_cases h2 : i < n
    · simp [h2, h1]
    · have : ¬ (i - n = 0) := by omega
      simp [h1, this]

/-- PMOV's word of predicates, bit by bit. -/
theorem predWord_bit (c : Ctl) (n : Nat) (hn : n ≤ 16) (i : Nat) :
    (predWord c n).getLsbD i = (decide (i < n) && c.rdP (BitVec.ofNat 4 i)) := by
  induction n with
  | zero => simp [predWord]
  | succ n ih =>
      rw [predWord, BitVec.getLsbD_or, ih (by omega)]
      by_cases h : i = n
      · subst h
        have : decide (i < i) = false := by simp
        rw [this, Bool.false_and, Bool.false_or]
        have : decide (i < i + 1) = true := by simp
        rw [this, Bool.true_and]
        split
        · next hp => rw [oneBit _ _ (by omega), hp]; simp
        · next hp => simp only [Bool.not_eq_true] at hp; rw [hp]; rw [BitVec.getLsbD_zero]
      · have h1 : decide (i < n + 1) = decide (i < n) := by
          rw [decide_eq_decide]; omega
        rw [h1]
        split
        · rw [oneBit _ _ (by omega), decide_eq_false h, Bool.or_false]
        · rw [BitVec.getLsbD_zero, Bool.or_false]

/-- PMOV's write of the predicates. -/
theorem predLoad_rdP (v : W64) (n : Nat) (hn : n ≤ 15) (c : Ctl) (p : BitVec 4) :
    (predLoad c v n).rdP p = if p.toNat < n then v.getLsbD p.toNat else c.rdP p := by
  induction n with
  | zero => rfl
  | succ n ih =>
      rw [predLoad, Ctl_rdP_wrP, ih (by omega)]
      have e : (BitVec.ofNat 4 n).toNat = n := by rw [BitVec.toNat_ofNat]; omega
      have h15 : BitVec.ofNat 4 n ≠ 15 := fun h => by
        have := congrArg BitVec.toNat h
        rw [e] at this
        change n = 15 at this
        omega
      by_cases h : p = BitVec.ofNat 4 n
      · rw [if_pos ⟨h, h15⟩, h, e, if_pos (by omega)]
      · rw [if_neg (fun k => h k.1)]
        have : p.toNat ≠ n := fun k => h (BitVec.eq_of_toNat_eq (by rw [e]; exact k))
        by_cases hl : p.toNat < n
        · rw [if_pos hl, if_pos (by omega)]
        · rw [if_neg hl, if_neg (by omega)]

theorem predLoad_rd (v : W64) (n : Nat) (c : Ctl) (r : Reg) : (predLoad c v n).rd r = c.rd r := by
  induction n with
  | zero => rfl
  | succ n ih => rw [predLoad, Ctl_rd_wrP, ih]

theorem predLoad_pc (v : W64) (n : Nat) (c : Ctl) : (predLoad c v n).pc = c.pc := by
  induction n with
  | zero => rfl
  | succ n ih => rw [predLoad, Ctl_pc_wrP, ih]

theorem predLoad_loops (v : W64) (n : Nat) (c : Ctl) : (predLoad c v n).loops = c.loops := by
  induction n with
  | zero => rfl
  | succ n ih => rw [predLoad, Ctl_loops_wrP, ih]

end Sys2Proof.Laws
end

