-- ==== Sys2Proof/Laws/Sched.lean ====
section
/-! SUPPORT. The stalls that a turn notes while the schedule log is on (spec/24_debug.md R436): what a note changes, and what a turn answers. -/

namespace Sys2Proof.Laws

open Sys2Proof Sys2Proof.Machine

/-- A record of the schedule log changes the debug unit and SLCTL alone. -/
theorem slogAt_frame (ex : Nat) (c : Core) (sq : Seq) (k r y : Nat) (v : W64) :
    ∃ d x, slogAt ex c sq k r y v = { c with dbg := d, csrd := { c.csrd with slctl := x } } := by
  unfold slogAt
  split
  · split
    · exact ⟨_, c.csrd.slctl, rfl⟩
    · exact ⟨c.dbg, _, rfl⟩
  · exact ⟨c.dbg, c.csrd.slctl, rfl⟩

theorem stallEnds_frame (ex : Nat) (c : Core) (sq : Seq) (y : Nat × Nat) :
    ∃ d x, stallEnds ex c sq y = { c with dbg := d, csrd := { c.csrd with slctl := x } } := by
  obtain ⟨d, x, h⟩ := slogAt_frame ex (setStall c sq none) sq 2 y.1 y.2 (Config.stallCycles ex c.dbg.stalled)
  exact ⟨{ d with stalled := d.stalled + 1 }, x, by unfold stallEnds; rw [h]; rfl⟩

/-- With the log off a turn is noted by nothing. -/
theorem noting_off (s : State) (sq : Seq) (held : State → State → Option Nat) (run : State → Out) (h : slogOn (me s) = false) :
    noting sq held run s = run s := by
  unfold noting
  rw [h]
  rfl

/-- With the log on a turn notes a stall that goes on, or puts the record of one that ends before what it does. -/
theorem noting_on (s t : State) (sq : Seq) (held : State → State → Option Nat) (run : State → Out) (h : slogOn (me s) = true) (ht : run s = .next t) :
    noting sq held run s = (match held s t, stallOf (me s) sq with
    | some r, _ => .next (stallsOn t sq r)
    | none, none => .next t
    | none, some x => run (onMe s (fun c => stallEnds s.ex.val c sq x))) := by
  unfold noting
  rw [h, ht]
  cases ha : held s t <;> cases hb : stallOf (me s) sq <;> simp [ha]

end Sys2Proof.Laws
end

