-- ==== Sys2Proof/Tests/Slice0.lean ====
section
/-! SUPPORT. Tests: words written out from the encoding tables decode to their instructions; a term for each WellFormed check that
the check refuses; single steps and number formats against values that the specification works; and, for every statement of Obligations
that has hypotheses, a theorem witness_<its name> that shows a state and operands that meet them together. -/

namespace Sys2Proof.Tests

open Sys2Proof Sys2Proof.Machine Claims

set_option maxRecDepth 20000
set_option linter.unusedVariables false
set_option Elab.async false

/-! ## States that the tests and witnesses use -/

/-- The lines held are whole: a premise of statements about memory (see linesOk_whole). -/
def linesOk (m : MemSys) : Bool := m.l2.all (fun e => match e.2 with | some l => l.data.length == 128 && cached (e.1 * 128) | none => true)
theorem tblGet_mem {α : Type} {k : Nat} {v : α} : ∀ t : Tbl (Option α), tblGet none t k = some v → (k, some v) ∈ t
  | [], h => by simp [tblGet] at h
  | (j, w) :: r, h => by
      unfold tblGet at h
      split at h
      · rename_i e; subst e; subst h; simp
      · exact List.mem_cons_of_mem _ (tblGet_mem r h)
theorem linesOk_whole (m : MemSys) (h : linesOk m = true) : Frame.LinesWhole m := by
  intro k l hk
  simpa using (List.all_eq_true.mp h) _ (tblGet_mem m.l2 hk)
/-- A control word's guard that always holds. -/
def g1 : Guard := ⟨15, false⟩
/-- Memory cells of a word. -/
def cells (a : Nat) (bs : List Byte) : Tbl Byte := (bs.zipIdx.filter (fun e => e.1 ≠ 0)).map (fun e => (a + e.2, e.1))
/-- Memory with a page table at 0x10000 to 0x3FFFF that maps page n, from 1, to page 4 + n: page 1 RW of ORD RC, page 2 RW of ORD UO, page 3 RW of ORD SO, page 4 R. -/
def tableMem (more : Tbl Byte) : Tbl Byte :=
  cells 0x10000 (leBytes 8 0x20001) ++ cells 0x20000 (leBytes 8 0x30001) ++
    cells 0x30008 (leBytes 8 0x50817 ++ leBytes 8 0x60827 ++ leBytes 8 0x70807 ++ leBytes 8 0x80813) ++ more
/-- The state after reset with some fields of executor 0 and memory. -/
def st (more : Tbl Byte) (c : Core) : State :=
  let s : State := State.reset
  setMe { s with ms := { s.ms with mem := tableMem more } } { c with csr2 := { c.csr2 with ptroot := 0x10000 } }
/-- Registers from a list of number and value. -/
def regsOf (l : List (Nat × W64)) : Vector W64 64 := Vector.ofFn (fun i : Fin 64 => ((l.find? (fun e => e.1 == i.val)).map (fun e => e.2)).getD 0)
/-- Control registers with some scalar registers. -/
def ctlOf (l : List (Nat × W64)) : Ctl := { s := regsOf l, pc := 0x1000 }
/-- A running executor with some scalar registers. -/
def coreOf (l : List (Nat × W64)) : Core :=
  { ctl := ctlOf l, run := { st := .running, live := true }, csr := { tvec := 0x8000, spwin := 8 } }

/-- Registers at boundary values. -/
def sInt : State := st [] (coreOf [(1, 5), (2, 0x8000000000000000), (3, 0xFFFFFFFFFFFFFFFF), (4, 0), (5, 64), (6, 0x123456789ABCDEF0), (62, 0x2008), (7, 0x10000), (8, 0x20010), (9, 0x30020),
  (10, 0x10001), (11, 0x1000000), (12, 0x100000)])


/-- The executor awaits a reply. -/
def pOf (k : PKind) : Pend := { kind := k, d := 9, va := 0x10040, saved := ctlOf [(3, 7), (9, 1)] }
def awaits (k : PKind) (c : Core) : Core := { c with pend := some (pOf k) }
/-- Bytes at physical page 5. -/
def dataMem : Tbl Byte := cells 0x50040 [0x81, 0x92, 0xA3, 0xB4, 0xC5, 0xD6, 0xE7, 0xF8, 9, 10, 11, 12]
/-- Scratchpad words. -/
def spadOf : Spad := { w := [(0, 0x8877665544332211), (1, 5), (8, 0x1122334455667788), (262143, 0x99)], tag := [(1, true), (8, true)] }
def sLoadPad (a n : Nat) (sg : Bool) : State := st [] { awaits (.load a n sg false false true) (coreOf []) with spad := spadOf }
def sLoadMem (a n : Nat) (sg acq so : Bool) : State := st dataMem (awaits (.load a n sg acq so false) (coreOf []))
def sLoadL1 : State := st [] { awaits (.load 0x50048 4 true false false false) (coreOf []) with l1 := [(lineKey 0x50040, some { data := (List.range 128).map (BitVec.ofNat 8 ∘ (· + 200)) })] }
def sLoadLine : State := (fun s : State => { s with ms := { s.ms with l2 := [(lineKey 0x50040, some { data := (List.range 128).map (BitVec.ofNat 8 ∘ (· + 100)), dirty := 3 })] } })
  (st dataMem (awaits (.load 0x50040 8 true true false false) (coreOf [])))
def sReply (k : PKind) : State := st [] (awaits k (coreOf [(3, 9), (9, 8)]))

/-- The choice of a turn. -/
def choose (c : Choice) (s : State) : State := { s with choice := c }
def sServe (r : Req) : State := choose { n := 7 } (st dataMem { coreOf [] with reqs := [r], spad := spadOf })
def rPart : Req := { id := 7, pa := 0x50050, kind := .store ((List.range 24).map (BitVec.ofNat 8)) }
def sServePart : State := choose { n := 7, k := 16 } (sServe rPart)
def sAtomic (pa op n : Nat) (b c : W64) : State :=
  choose { n := 7 } (st dataMem { awaits (.atomic 7 true) (coreOf [(20, 0xF8E7D6C5B4A39281), (21, 0x0C0B0A09), (22, 0xF8E7D6C5)]) with reqs := [{ id := 7, pa := pa, kind := .atomic op n b c }] })
def sWc : State := choose { n := 3, sq := .copy } ((fun s : State => { s with acks := [{ id := 3 }, { id := 4 }] }) (st [] { coreOf [] with wc := [{ id := 800, pa := 0x5000, data := [1, 2], sq := .copy }, { id := 801, pa := 0x5008, data := [3], sq := .control }] }))

/-! waits -/
def sTag (full : Bool) : State := st [] { coreOf [(1, 0x1000000), (2, 77), (3, 0x10000)] with spad := { spadOf with tag := if full then [(1, true)] else [(8, true)] } }
def sCount : State := st [] { coreOf [(3, 1000)] with reqs := [{ id := 5, kind := .store [1], sq := .copy }], cp := { ch := Vector.replicate 4 [{ id := 9 }] } }
def sWaitc (t : W64) (poll e : Bool) (esc : BitVec 16) : State :=
  st [] { coreOf [(3, 1000)] with wc := [{ id := 5 }], ctc := t, csr := { tvec := 0x8000, toesc := esc }, cwait := some { t0 := 100, dl := if poll then 0 else 50, poll := poll, e := e, d := 4, kind := .waitc 7 0 7 7 } }
/-- The tick ends. -/
def closeS (s : State) : State := { s with closing := true }
def sBar (cnt : Nat) (l : BarLoc) (o : BarObj) (sc : BitVec 3) (v : W64) : State :=
  (fun s : State => { s with barCfg := [(17, some ⟨sc, cnt⟩)], barObj := [(objKey 17 sc 0, o)] }) (st [] { coreOf [(2, v), (3, 50)] with sync := { bars := [(17, l)] } })
def sQ (mem : Tbl Byte) (l : List (Nat × W64)) : State := st mem (coreOf l)
/-- A queue header of capacity 4 at 0x50000. -/
def qmem (head tail : Nat) : Tbl Byte := cells 0x50000 (leBytes 8 4 ++ leBytes 8 head ++ leBytes 8 tail ++ leBytes 8 0 ++ zeros 32 ++ leBytes 8 0x1111 ++ leBytes 8 0x2222 ++ leBytes 8 0x3333 ++ leBytes 8 0x4444)

/-! flags, rules, queues, streams -/
def syncV (l : List (Nat × Nat × Nat)) : Sync := { v := Vector.ofFn (fun i : Fin 64 => BitVec.ofNat 32 (((l.find? (fun e => e.1 == i.val)).map (fun e => e.2.1)).getD 0)), p := Vector.ofFn (fun i : Fin 64 => BitVec.ofNat 32 (((l.find? (fun e => e.1 == i.val)).map (fun e => e.2.2)).getD 0)) }
def sFlag (v p k : Nat) : State := st [] { coreOf [(2, BitVec.ofNat 64 k), (3, 100)] with sync := syncV [(63, v, p), (4, 9, 9)] }
/-- Segments: copy at 0x9000, matrix 0x9100, vector 0x9200. -/
def resid : Resident := { image := 5, segs := [⟨0x9000, 0, 0x3F0000000000000F, 0, 4⟩, ⟨0x9100, 1, 0, 0, 4⟩, ⟨0x9200, 2, 0, 0, 4⟩] }

/-- A record: handle, space, format, rank, walk, offset, strides, sizes, origins, boxes less one. -/
def slotB (h sp fmt rank walk off : Nat) (str size org box : List Nat) : List Byte :=
  leBytes 4 h ++ leBytes 1 sp ++ leBytes 1 fmt ++ leBytes 1 rank ++ leBytes 1 walk ++ leBytes 8 off ++ str.flatMap (leBytes 4) ++ size.flatMap (leBytes 3) ++ [0] ++
    org.flatMap (leBytes 2) ++ box.flatMap (leBytes 1) ++ [128]
/-- 64 FP32 by 4 in the scratchpad at 0x1000. -/
def slotF : List Byte := slotB 0 2 6 2 1 0x1000 [256, 0, 0, 0] [64, 6, 1, 1, 1] [0, 0, 0, 0, 0] [63, 3, 0, 0, 0]

/-- Rules at 0x50000: one not armed, an armed one on flags 1, or 2 and 3, for the vector segment. -/
def ruleMem : Tbl Byte := cells 0x50020 ([0x81, 0, 0, 0x82, 0x83, 0, 0, 0, 0, 0, 0, 0, 0x82, 0, 0, 0] ++ leBytes 8 0x9200 ++ leBytes 8 8)
def ruleA : Rule := { terms := [0x81, 0, 0, 0x82, 0x83, 0, 0, 0, 0, 0, 0, 0], armed := true, engine := 2, seg := 0x9200, param := 8 }
def runningWith (c : Core) : Core := { c with run := { c.run with st := .running, live := true, res := some resid } }
def sRule (mem : Tbl Byte) (r : Rule) : State := choose { n := 3 } (st mem { runningWith (coreOf [(1, 0x10000)]) with sync := { syncV [(1, 0, 5), (2, 4, 5), (3, 2, 3)] with rules := [(3, r)] } })
/-- A run block at 0x50040. -/
def forkMem : Tbl Byte := cells 0x50040 (leBytes 8 0x9000 ++ leBytes 8 0x9100 ++ leBytes 8 0x9200 ++ leBytes 8 0x50100)
def sFork (b : W64) : State := st forkMem { runningWith (coreOf [(1, 0x10040), (2, b), (3, 100)]) with sync := syncV [(1, 0, 5)] }
def sJoin (st1 st2 : EngSt) : State := st [] { coreOf [(3, 100)] with xe := { st := st1, group := some 2053 }, ve := { st := st2, group := some 2053 }, sync := { ({} : Sync) with groups := [⟨2053, 5, [⟨.copy, false⟩, ⟨.vector, false⟩]⟩] } }
def sEng (sq : Seq) (q : List Cmd) : State := choose { sq := sq } (st [] { runningWith (coreOf []) with sync := { syncV [(7, 0xFFFFFFFF, 9), (8, 1, 0)] with xq := q, mq := q, vq := q } })
def sWaitfLate (sq : Seq) : State := choose { sq := sq } (st [] (setEng { runningWith (coreOf []) with ctc := 60 } sq { st := .waitf 9, wait := some (10, 50) }))
def sHalt (busy : Bool) : State := (fun s : State => { s with launches := [(0, some { nodes := [{ running := 1 }] })] }) (st [] { coreOf [] with reqs := if busy then [{ id := 4 }] else [] })
def sStrm (n : Nat) : State := st [] { coreOf [(3, 100)] with cp := { slots := [(6, slotF)], strms := (List.range n).map (fun i => (i, some { ch := 1, t := 6 })) } }

/-! homes, launches, CSRs, traps -/
def tht (old n : Nat) : Tht := { ctx := 0, size := n * 65536, npages := n, old := old, new := old, oldp := (List.range n).map (· + 100), at_ := 3, demand := 0xFFFF }
def sHome (old : Nat) (tgt : W64) : State := choose { list := [300, 301] } ((fun s : State => { s with tht := [(7, some (tht old 2))], ctxs := [(0, some { share := 10, dies := 15 })] }) (st [] (coreOf [(1, 7), (2, tgt)])))
def sSpawn (q places : Nat) : State := (fun s : State => { s with lqueue := (List.range q).map (fun i => ⟨0, BitVec.ofNat 64 (64 * i), 0, none⟩), ctxs := [(0, some { gen := 0x3FFFFF })], launches := (List.range places).map (fun i => (i, some {})) }) (st [] (coreOf [(1, 0x10040)]))
def sCsr (sup : Bool) (v : W64) : State := st [] { coreOf [(2, v)] with csr := { tocnt := 3, dbgp := true, lqto := true, sup := sup, cause := 7, epc := 8, tvec := 0x8000, spwin := 8, estat := 99, toesc := 4, tseg := 5, tpos := 6, tval := 1, tctl := 3, mpace := 1, vpace := 2, xpace := 3 }, csr2 := { xfaddr := 4, xfinfo := 5, frrsel := 0x23, frrbase := 0x40000, frrlim := 0x7FFFF, frrscb := 0x80000, rrdepth := 3, rttbase := 16, rttsz := 2, kqovf := 0, lgen := 4, lnode := 9 }, csrd := { bcbase := 64, bccnt := 5, tbctl := 3 }, irq := [], held := [(.chan 0, 5, 1), (.tile, 5, 1)], sync := { ({} : Sync) with kq := (Vector.replicate 8 []).set 2 (List.replicate 16 (some 1)) } }
def sFrr : State := (fun s : State => setMe s { me s with csr2 := { (me s).csr2 with frrbase := 0x1800040000, frrlim := 0x1800070000, frrscb := 0x1800080000 } }) (sCsr true 0x8000000000000201)
def sTrap (sup : Bool) (d : BitVec 5) : State := (fun s : State => { s with launches := [(0, some { nodes := [{ running := 1 }] })] }) (st [] { coreOf [(2, 5)] with csr := { tvec := 0x8000, sup := sup, epc := 0x2000 }, csrd := { dbgctl := d }, frozen := sup, ve := { st := .running, seg := 0x9200, rep := 2, widx := 5, cycle := 9 }, me := { st := .running, seg := 0x9100 }, xe := { st := .running, seg := 0x9000 } })
def sKill : State := st [] { coreOf [] with csr := { tvec := 0x8000, sup := true, tctl := 2 } }
def sIrq : State := st [] { coreOf [] with csr := { tvec := 0x8000 }, irq := [⟨0x0A, 1, 77, none, 5, 0⟩, ⟨0x03, 2, 78, some 9, 6, 0⟩] }
def sTlb : State := (fun s : State => { s with ms := { s.ms with dieTlb := [(0, [⟨0, 0x10000, 16, 0x50817, 0x30008⟩, ⟨1, 0x20000, 16, 0x60817, 0x30010⟩])] } }) (st [] { coreOf [(1, 0x10000), (8, 0x20010), (9, 0x10040), (3, 100)] with csr := { tvec := 0x8000, sup := true, spwin := 8 }, tlb := [⟨0, 0x10000, 16, 0x50817, 0x30008⟩, ⟨0, 0x20000, 16, 0x60917, 0x30010⟩], l1 := [(lineKey 0x50040, some {})] })
def sDbg (d : BitVec 5) (dreq : Bool) : State := st [] { coreOf [(2, 5)] with csrd := { dbgctl := d, bcctl := 0x80000002, bcbase := 0x10000, tbctl := 0x00FF00F1, tbtrig := 0x1001 }, run := { st := .running, live := true, dreq := dreq }, cseg := 44, ccycle := 17 }

/-! vector -/
def laneVals (a b : Nat) : Row := Vector.ofFn (fun i : Fin 64 => BitVec.ofNat 32 (a * (i.val + 1) * (i.val + 3) + b * (i.val * 8388608)))
def vecOf (act : BitVec 4) (irb : List Irb) : Vec := { v := [(10, laneVals 0x01234567 5), (11, laneVals 77 0), (12, laneVals 0x9999 63), (20, laneVals 5 129), (21, laneVals 0 128), (30, laneVals 1 0), (31, laneVals 0 0)], m := (Vector.replicate 16 0).set 2 0x8000000000000F0F, act := act, irb := irb, slot := 40, order := 7 }
def vEng (rep : Nat) : Eng := { st := .running, seg := 0x9200, param := 0x10040, widx := 3, rep := rep, cycle := 20 }
def sVec (act : BitVec 4) (rep : Nat) : State := st dataMem { runningWith (coreOf [(1, 7)]) with vec := { vecOf act [{ dest := .reg 10, due := 40, lanes := 7, value := laneVals 3 3 }] with a := (Vector.replicate 8 0).set 3 0x1FFF80 }, ve := vEng rep, spad := spadOf, cp := { strms := [(3, some { bind := 5, slot := slotF, rows := [(laneVals 9 1, none), (laneVals 3 2, none)] })] } }
def sGath (act : BitVec 4) : State := st dataMem { runningWith (coreOf []) with ve := vEng 0, vec := { v := [(10, Vector.ofFn (fun i : Fin 64 => BitVec.ofNat 32 (0x10000 + 4 * i.val))), (20, laneVals 7 7)], m := (Vector.replicate 16 0).set 2 0x8000000000000F0F, act := act, slot := 40 } }
def sLane : State := choose { n := 5, m := 63 } (st dataMem { runningWith (coreOf []) with ve := vEng 0, vec := { gathers := [{ id := 5, dst := 20, sent := [(63, 0x50044, false), (2, 0x50040, false)], active := 5, got := laneVals 1 1 }] } })
def sDq (n : Nat) : State := st [] { runningWith (coreOf []) with ve := vEng 0, vec := { vecOf 2 [] with dq := (List.range n).map (fun i => [BitVec.ofNat 32 i, 7, 8, 9]) } }
def sParam (have_ : Bool) : State := st dataMem { runningWith (coreOf []) with ve := { vEng 0 with wait := if have_ then some (0, 9) else none, wfor := .param }, vec := { vload := if have_ then some (7, 0x10040) else none } }

/-! engines -/
def eng (st : EngSt) (w : Option (W64 × Nat)) (g : Option Nat) : Eng := { st := st, seg := 0x9000, param := 0x10040, widx := 3, rep := 0, cycle := 20, wait := w, group := g }
/-- An ENG section at seg with one word at place 3. -/
def engRes (seg : W64) (w : W48) : Resident := { resid with eng := [⟨seg, (List.replicate 18 0) ++ leBytes 6 w.toNat ++ List.replicate 24 0⟩] }
def allEng (e : Eng) (c : Core) : Core := { c with ve := e, me := e, xe := e }
def sEngFlow (e : Eng) (t : W64) : State := choose { sq := .vector } (st [] { allEng e (runningWith (coreOf [])) with ctc := t, sync := { syncV [(9, 0, 4), (10, 0xFFFFFFFF, 1), (11, 1, 0)] with groups := [⟨2053, 5, [⟨.copy, false⟩, ⟨.vector, true⟩, ⟨.matrix, false⟩]⟩] } })
def code48 (i : Instr) : W48 := match encode i with | .vector w => w | .matrix w => w | .copy w => w | _ => 0
def sEngWord (sq : Seq) (i : Instr) (t : W64) : State := choose { sq := sq } (st [] { allEng (eng .running (some (10, 50)) none) (coreOf []) with ctc := t, sync := syncV [(9, 0, 4)], run := { st := .running, live := true, res := some (engRes 0x9000 (code48 i)) } })
def sKq (l : List (Option W32)) : State := st [] { coreOf [] with sync := { ({} : Sync) with kq := (Vector.replicate 8 []).set 2 l }, ve := eng .running none none, xe := eng .running none none, l1 := [(4, some {})] }
def sLoopq (t : W64) : State := st [] { coreOf [] with ctc := t, cwait := some { t0 := 10, dl := 50, kind := .loopq 2 1 3 } }

/-- The rows that a repeat takes from its sources. -/
def rowsOk (s : State) (srcs : List Nat) : List Row := match takeRows (me s).ve srcs 0 (me (landVec s)) with | .ok (l, _) => l.map (·.1) | _ => []
/-- The 256 bytes of the scratchpad at b. -/
def padRow (s : State) (b : Nat) : Row := Vector.ofFn (fun i : Fin 64 => BitVec.ofNat 32 (leNat ((List.range 4).map (fun k => spByte (me s) ((b + 4 * i.val + k) % 2097152)))))

/-- Change executor 0. -/
def upd (f : Core → Core) (s : State) : State := setMe s (f (me s))
/-- Level 3's body, of two words, ends at the pc, with passes left. -/
def sEnd (passes : W64) : State := upd (fun c => { c with ctl := { c.ctl with loops := c.ctl.loops.set 3 { count := passes, start := c.ctl.pc - 8, len := 2, act := true, order := 4 } } }) sInt

/-- The first 32 words of the scratchpad are full. -/
def sFull : State := upd (fun c => { c with spad := { c.spad with tag := (List.range 32).map (fun i => (i, true)) } }) (sVec 2 0)

/-! matrix -/
/-- A 128 by 128 INT8 box whose tensor has only 3 by 2 elements. -/
def slotA : List Byte := slotB 0 2 5 2 1 0x1000 [128, 0, 0, 0] [3, 2, 1, 1, 1] [0, 0, 0, 0, 0] [127, 127, 0, 0, 0]
def slotB2 : List Byte := slotB 0 2 5 2 1 0x2000 [128, 0, 0, 0] [3, 2, 1, 1, 1] [0, 0, 0, 0, 0] [127, 127, 0, 0, 0]
/-- A 128 by 128 INT32 box at virtual address 0x10000. -/
def slotC : List Byte := slotB 0 1 7 2 1 0x10000 [512, 0, 0, 0] [128, 128, 1, 1, 1] [0, 0, 0, 0, 0] [127, 127, 0, 0, 0]
def tabM (spn : BitVec 2) : MTab := { lev := #v[{ role := 4, trip := 2 }, { role := 2, trip := 3 }, {}, {}, {}, {}], bind := #v[some 1, some 2, some 3, none], fa := 5, fb := 5, spn := spn }
def lineM (o k u : Nat) : TLine := { opnd := o, step := k, unit := u, data := [1, 0xFE, 3], whole := true }
def redM (step : Nat) (poison : Bool) : Red := { a := slotA, b := slotB2, step := step, poison := poison, lines := (List.range 2).flatMap (fun k => [lineM 0 k 0, lineM 0 k 1, lineM 1 k 0, lineM 1 k 1]) }
def sMat (m : Mat) (ch : Nat → List CCmd) (c : Choice) : State := choose c (st [] { runningWith (coreOf []) with me := { vEng 1 with seg := 0x9100 }, ctc := 60, spad := spadOf, mx := m, cp := { slots := [(1, slotA), (2, slotB2), (3, slotC)], ch := Vector.ofFn (fun i : Fin 4 => ch i.val) } })
def sMgo : State := sMat { shadow := tabM 0 } (fun _ => []) {}
def sNest (acci : Bool) : State := sMat { active := { tabM 0 with acci := acci }, live := true, bank0 := { acc := [[1, 2]] }, started := 4 } (fun _ => []) {}
def sTile (k n m : Nat) : State := sMat { active := tabM 0, live := true, bank0 := { st := .active }, red := some (if k = 3 then redM 0 false else { redM 0 false with lines := [] }) } (fun _ => []) { k := k, n := n, m := m }
def sRetire (step i : Nat) (poison : Bool) : State := sMat { active := tabM 0, live := true, bank0 := { st := .active, acc := [[9]] }, idx := [0, i, 0, 0, 0, 0], red := some { redM step poison with start := [[7]] }, started := 4, retired := 3 } (fun _ => []) {}
def drainCmd (tile : Option (List (List W32))) : CCmd := { id := 40, kind := .drain false 1 true [0, 0, 0, 0, 0] tile, td := slotC }
def sDrain (held : Bool) : State := sMat { active := tabM 0, bank1 := if held then { st := .held, acc := [[9, 8]], idx := [0, 2, 0, 0, 0, 0] } else {} } (fun i => if i = 2 then [{ id := 3 }] else []) { n := 1 }
def sDrainRead : State := sMat { active := tabM 0, bank1 := { st := .held, acc := [[9, 8]], taken := true } } (fun i => if i = 1 then [drainCmd none, { id := 41 }] else []) { n := 1 }
def sMatLate : State := sMat { active := tabM 0, live := true, wait := some (10, 50), bank0 := { st := .held } } (fun _ => []) {}

/-! copy -/
def slotF2 : List Byte := slotB 0 2 6 2 1 0x2000 [256, 0, 0, 0] [64, 6, 1, 1, 1] [0, 0, 0, 0, 0] [63, 3, 0, 0, 0]
def slotV : List Byte := slotB 0 1 6 2 1 0x10000 [256, 0, 0, 0] [64, 6, 1, 1, 1] [0, 0, 0, 0, 0] [63, 3, 0, 0, 0]
def slotI : List Byte := slotB 0 2 7 1 0 0x8000 [0, 0, 0, 0] [4, 1, 1, 1, 1] [0, 0, 0, 0, 0] [3, 0, 0, 0, 0]
def slotT : List Byte := slotB 7 0 6 2 1 0 [256, 0, 0, 0] [64, 6, 1, 1, 1] [0, 0, 0, 0, 0] [63, 3, 0, 0, 0]
def copySlots : Tbl (List Byte) := [(1, slotF), (2, slotF2), (3, slotV), (4, slotI), (5, slotT)]
def xh1 : XH := ⟨1, 2⟩
def ordAll : Order := ⟨true, true, 3⟩
def sChan (ch : List CCmd) (c : Choice) (f : Core → Core) : State :=
  choose c ((fun s : State => { s with tht := [(7, some (tht 2 2))] }) (st dataMem (f { runningWith (coreOf []) with xe := { vEng 1 with seg := 0x9000 }, ctc := 60, spad := spadOf, cp := { slots := copySlots, ch := (Vector.replicate 4 []).set 1 ch } })))
def sCopy : State := sChan [{ id := 3 }] {} id
def sFillStep : State := sChan [{ id := 40, kind := .fill (some 0x1122334455667788) 0x10040, td := slotF2, rd := 1 }] { n := 1 } id
def sWrite (part : Nat) : State := sChan [{ id := 40, td := slotV, ts := slotF, rd := 8, wr := 1, part := part, buf := [{ at_ := 0x10040, data := [1, 2, 3, 4] }, { at_ := 0x10050, data := [5] }] }] { n := 1, flag := true } id
def sDone (code : Nat) : State := sChan [{ id := 40, td := slotF2, ts := slotF, rd := 8, st := code }, { id := 41 }] { n := 1 } id
def sChanLate (held hold : Bool) : State := (fun s : State => { s with holds := if hold then [{ h := 7, page := 0, ex := 0, ch := 1 }] else [] })
  (sChan [{ id := 39, td := slotF2, rd := 8 }, { id := 40, td := slotT, ts := slotF, rd := 2, wr := 1, held := held, wait := some 10, dl := 50 }] { n := 1 } id)

/-! tensor moves -/
def moving (x : Tht) : Tht := { x with new := 1, ms := 2, newp := [900, 901], mprio := 1 }
def sMoves (l : Tbl (Option Tht)) (c : Choice) : State := choose c ((fun s : State => { s with tht := l, gtc := 5000001, ctxs := [(0, some { share := 10, dies := 15 })] }) (st [] { runningWith (coreOf []) with cp := { slots := [(5, slotT)] } }))
def thtQ : Tht := { moving (tht 2 2) with ms := 1, mprio := 2 }
def sClaim : State := sMoves [(7, some thtQ), (8, some { moving (tht 2 2) with ms := 1 })] {}
def thtC (f : Nat) : Tht := { moving (tht 2 2) with f := f, claim := .tce 0 false, flight := true }
def sCommit (f : Nat) : State := sMoves [(7, some (thtC f))] { n := 7 }
def thtP : Tht := { moving (tht 2 2) with claim := .chan 0 1 }
def sPass : State := sMoves [(7, some thtP)] { n := 7 }

/-! slots, streams, waits -/
/-- A parameter word of value 2 at 0x10040. -/
def twoMem : Tbl Byte := cells 0x50040 (leBytes 8 2)
def sXl (x : Option XLoad) (mem : Tbl Byte) : State := st mem { runningWith (coreOf []) with xe := { vEng 1 with seg := 0x9000, wait := x.map (fun _ => (10, 50)) }, ctc := 60, cp := { slots := copySlots, xload := x, strms := [(3, some { t := 2, slot := slotF2 }), (4, some { t := 1 })] } }
/-- A parameter word at 0x10040 that names the records from 0x10080 on, of which record 1 is slotV's. -/
def recMem : Tbl Byte := cells 0x50040 (leBytes 8 0x10080) ++ cells 0x500C0 slotV
def sBindX (n : Nat) (w : Bool) : State := st [] { (if w then (fun c => { c with run := { c.run with st := .running, live := true, res := some (engRes 0x9000 (code48 (.xstrm 7 2 1))) } }) else runningWith) (coreOf []) with xe := { vEng 0 with seg := 0x9000, wait := if w then some (10, 50) else none }, ctc := 60, cp := { slots := copySlots, strms := (List.range n).map (fun i => (i, some { ch := 1, t := 6 })) } }
def sRowIn (pos : Nat) (b : List Byte) : State := choose { n := 3 } (st [] { runningWith (coreOf []) with spad := spadOf, cp := { slots := copySlots, strms := [(3, some { bind := 5, slot := b, t := 1, pos := pos }), (4, some { t := 1 })] } })
def sVWait (w : WFor) : State := st [] { runningWith (coreOf []) with ctc := 60, ve := { vEng 0 with wait := some (10, 50), wfor := w }, spad := { spadOf with waiters := [{ sq := .vector, words := [5], op := 0 }] }, cp := { slots := copySlots, strms := [(3, some { bind := 5, slot := slotF, t := 1 })] }, vec := { v := [(20, laneVals 7 7)], gathers := [{ id := 5, dst := 20, lanes := [(3, 0x10040)], sent := [(63, 0x50044, false)], active := 5, got := laneVals 1 1 }], vload := some (7, 0x10040) } }

/-! routing, collectives -/
/-- Route rows: 64 bytes by 4. -/
def slotQ : List Byte := slotB 0 2 5 2 1 0x6000 [64, 0, 0, 0] [64, 4, 1, 1, 1] [0, 0, 0, 0, 0] [63, 3, 0, 0, 0]
/-- RAT descriptor: 4 rows of 16 FP32 out at 0x10000, returns at 0x10400, status at 0x10800. -/
def ratD : List Byte := leBytes 8 0x10000 ++ leBytes 4 64 ++ leBytes 2 16 ++ [4, 0] ++ leBytes 8 0x10400 ++ leBytes 8 0x10800 ++ zeros 32
/-- Ring descriptor: 2 slots of 128 bytes a window at 0x10000, expert 9, count queue 2, evicting. -/
def ringD : List Byte := leBytes 8 0x10000 ++ leBytes 4 128 ++ leBytes 2 2 ++ leBytes 2 9 ++ [2, 1] ++ zeros 46
/-- Collective descriptor: reduce, FP32, two members. -/
def collD : List Byte := [2, 6] ++ leBytes 2 2 ++ leBytes 2 1 ++ leBytes 2 0 ++ leBytes 4 4096 ++ zeros 4 ++ leBytes 8 0x20000 ++ leBytes 8 0x10200 ++ leBytes 2 3 ++ leBytes 2 4 ++ leBytes 4 77 ++ zeros 24
def paramMem (a : Nat) (d : List Byte) : Tbl Byte := cells 0x50040 (leBytes 8 a) ++ cells 0x50080 d
def sRouteWord (a : Nat) (d : List Byte) : State := st (paramMem a d) { runningWith (coreOf []) with xe := { vEng 0 with seg := 0x9000 }, csr2 := { ptroot := 0x10000, rrdepth := 3 }, cp := { slots := (6, slotQ) :: copySlots, ch := (Vector.replicate 4 []).set 1 [{ id := 3 }] } }
/-- A header of an attempt of this executor's RAT 2. -/
def hdrA : Hdr := { ex := 0, rat := 2, gen := 5, row := 1, j := 0, expert := 9, gate := 0x3F800000 }
def msgA (k : MsgKind) : Msg := { id := 8, src := 4, ch := 1, ctx := 0, dst := 0, kind := k }
def occ (n : Nat) : List (Nat × Hdr) := (List.range n).map (fun i => (i, { hdrA with ex := 7, row := i, gate := 0x3F000000 }))
def ringR (n : Nat) : Ring := { desc := ringD, win := 1, occ := occ n, ticks := 500, first := if n = 0 then none else some 100 }
def noOut : Option (Nat × Hdr) := none
def someOut : Option (Nat × Hdr) := (occ 2)[1]?
def ratR : Machine.Rat := { st := 2, gen := 5, desc := ratD, hops := 3, rows := [{}, { rr := zeros 64, pos := [.pending, .none, .none, .none, .none, .none, .none, .none], supplied := true, read := true }, {}, {}] }
def sMsg (k : MsgKind) (r : Option Ring) (rat : Tbl Machine.Rat) : State := choose { n := 8 } ((fun s : State => { s with gtc := 1000, msgs := [{ id := 7, dst := 9, kind := .answer {} 0 }, msgA k] }) (st [] { runningWith (coreOf []) with rings := [(1, r)], rats := rat }))
def placeK : MsgKind := .place 1 2 500 hdrA [1, 2, 3, 4] []
/-- An answer for the RAT of a stopped instance. -/
def sHeldMsg (k : MsgKind) : State := { (sMsg k none []) with stopped := [{ core := { coreOf [] with rats := [(2, { ratR with home := 0 })] }, ex := 4 }] }
def sWindow : State := choose { n := 1 } ((fun s : State => { s with gtc := 1000 }) (st [] { runningWith (coreOf []) with rings := [(1, some (ringR 2))], sync := { ({} : Sync) with kq := (Vector.replicate 8 []).set 2 [some 5] } }))
def sRouteCh (n : Nat) (k : CKind) : State := choose { n := n, m := 2, v := 3 } (st [] { runningWith (coreOf []) with ctc := 60, rats := [(2, ratR)], rings := [(1, some (ringR 0))], cp := { ch := (Vector.replicate 4 []).set 1 [{ id := 40, kind := k, ts := slotF, ti := slotQ, wait := match k with | .coll _ _ _ => none | _ => some 10, dl := 50 }] } })
def sQuiesce : State := (fun s : State => { s with gtc := 60000000, dev := { s.dev with sus := { st := .entering 5 } } }) (st [] { coreOf [] with run := { quiesce := true } })

/-! seams and the hand-over -/
/-- A kernel entry whose seams are entries 0 and 1. -/
def kernB (affin : Nat) : List Byte := zeros 16 ++ leBytes 4 0 ++ leBytes 4 2 ++ zeros 15 ++ leBytes 1 affin ++ zeros 88
/-- A seam at 0x1000 with v10 and scratchpad word 1 live. -/
def seamB : List Byte := leBytes 8 0x1000 ++ [1, 1] ++ zeros 6 ++ leBytes 2 10 ++ zeros 30 ++ leBytes 4 8 ++ leBytes 4 8 ++ zeros 8
def imageS (affin : Nat) : Image := { kernels := [kernB affin], seams := [zeros 64, seamB] }
def waitS : CWait := { t0 := 10, dl := 50, d := 4, kind := .seam 1 }
/-- The state after reset with executor n's record. -/
def stAt (n : Fin 288) (c : Core) : State := { (st [] {}) with ex := n, cores := (Vector.replicate 288 ({} : Core)).set n c }
def seamCore (h : HReq) (w : Bool) : Core := { coreOf [(1, 5), (4, 9)] with run := { st := .running, live := true, inst := { image := 5 }, hreq := h }, csr := { tvec := 0x8000, hovers := 0xFFFF, tocnt := 2 }, cwait := if w then some waitS else none, spad := spadOf, vec := { v := [(10, laneVals 3 3), (11, laneVals 4 4)] }, cp := { slots := [(5, slotT), (1, slotF)] } }
def sSeam (n : Fin 288) (h : HReq) (w : Bool) (f : Core → Core) : State := { (stAt n (f (seamCore h w))) with images := [(5, some (imageS 0))], tht := [(7, some (tht 2 2))], ctxs := [(0, some { share := 10, dies := 15 })] }
def sSeamBusy : State := sSeam 0 .none false (fun c => { c with csr := { c.csr with dlmax := 0 }, ve := { st := .running } })
def sSeamFull : State := { (sSeam 256 .handover true id) with dev := { ({} : Dev) with absent := List.range 256 } }
def hoverS (w : Bool) : Handover := { src := 256, dst := 3, d := 4, idx := 1, written := w }
def sHover (w fl : Bool) : State := choose { n := 256, flag := fl } { (sSeam 256 .handover false (fun c => { c with run := { c.run with st := .handover, live := !w } })) with handovers := [{ src := 257, dst := 9 }, hoverS w] }
def hoverB : Handover := { hoverS true with bad := true }
def sHoverBad : State := { (sHover true false) with handovers := [hoverB] }
def sHoverRes : State := { (sHover true false) with cores := (sHover true false).cores.set 3 { run := { st := .handover, reserved := true, res := some resid } } }
def sPolicy : State := sSeam 256 .none false id

/-! expiry -/
def waitcI (e : Bool) : Instr := .waitc g1 4 3 e 7 0 7 7
def code64 (i : Instr) : W64 := match encode i with | .control w => w | _ => 0
def waitW (poll e : Bool) : CWait := { t0 := 100, dl := if poll then 0 else 50, poll := poll, e := e, d := 4, kind := .waitc 7 0 7 7 }
def sWaitcLate (poll e : Bool) (esc : BitVec 16) : State := st [] { coreOf [(3, 1000), (4, 9)] with wc := [{ id := 5 }], ctc := 200, csr := { tvec := 0x8000, toesc := esc, tocnt := 3 }, run := { st := .running, live := true, res := some { resid with ctrl := [⟨0x1000, leBytes 8 (code64 (waitcI e)).toNat⟩] } }, cwait := some (waitW poll e) }

/-! attention decode engines -/
/-- A command: one head of 128 elements, keys rows of BF16, values of FP8, queries at 0x10000, contexts at 0x20000, status at st. -/
def adCmd (k v keys stat : Nat) : List Byte := leBytes 2 1 ++ [0, 1, 0, 1] ++ zeros 2 ++ leBytes 4 k ++ leBytes 4 v ++ leBytes 8 0 ++ leBytes 8 0 ++ leBytes 4 keys ++ zeros 4 ++ leBytes 8 256 ++ leBytes 8 8192 ++ leBytes 8 128 ++ leBytes 8 8192 ++ leBytes 4 0x3E000000 ++ zeros 4 ++ leBytes 8 0x10000 ++ leBytes 8 0x20000 ++ leBytes 8 stat ++ zeros 24
def thtA : Tht := { tht 2 2 with ctx := 1, stack := some 2 }
def nodeS : Node := { typ := 2, argb := 0x10080, ready := true, part := some 0, succ := [1] }
def launchS : Launch := { ctx := 1, gen := 6, nodes := [nodeS, { left := 1 }] }
/-- A launch of a STEM node with this command at 0x10080. -/
def sAde (cmd : List Byte) (a : Option Ade) : State := choose { n := 2 } { (st (cells 0x50080 cmd) {}) with tht := [(7, some thtA)], ctxs := [(1, some { ptroot := 0x10000, share := 10, dies := 15 })], launches := [(4, some launchS)], ades := match a with | none => [] | some a => [(2, some a)], gtc := 500 }
def candS : Cand := { place := 4 }
def headR : AdeHead := { l := 0x40000000, o := List.replicate 128 0x3F800000 }
def adeR (cmd : List Byte) (head cause : Nat) : Ade := { launch := 4, node := 0, ctx := 1, cmd := cmd, q := zeros 512, cause := cause, head := head, heads := [headR] }
def adeAb : Ade := { adeR (adCmd 7 7 2 0) 0 0 with aborted := true }
def sAdeGone : State := { (sAde (adCmd 7 7 2 0) (some (adeR (adCmd 7 7 2 0) 0 0))) with ctxs := [] }

/-! launches -/
/-- A kernel entry: entry 0x40, priority, affinity 0, flags, instances, completion address. -/
def kern (prio flags ninst compl : Nat) : List Byte := zeros 8 ++ leBytes 8 0x40 ++ zeros 22 ++ leBytes 1 prio ++ [0] ++ leBytes 2 flags ++ zeros 10 ++ leBytes 4 1000 ++ leBytes 8 ninst ++ leBytes 8 compl ++ zeros 56
def ctxL : Ctxt := { ptroot := 0x10000, share := 10, dies := 15, gen := 0x3FFFFF, spwin := 8, tvec := 0x8000 }
def imageL : Image := { ctx := 1, base := 0x10000, kernels := [kern 0 0 2 0x10300], got := 0x77, ctrl := [⟨0x10040, zeros 8⟩] }
/-- A descriptor of two nodes, the second after the first. -/
def descL (gang : Nat) : List Byte := leBytes 8 9 ++ leBytes 8 0x10100 ++ leBytes 2 2 ++ zeros 2 ++ leBytes 4 0 ++ leBytes 8 0x10300 ++ leBytes 4 gang ++ zeros 28
def nodeD (npred nsucc : Nat) : List Byte := zeros 2 ++ leBytes 2 npred ++ leBytes 2 nsucc ++ zeros 10 ++ leBytes 8 0x10280 ++ leBytes 8 0x77 ++ zeros 96
def launchMem (gang : Nat) : Tbl Byte := cells 0x50080 (descL gang) ++ cells 0x50100 (nodeD 0 1) ++ cells 0x50180 (nodeD 1 0) ++ cells 0x50280 [1, 0]
def nodeL (next : Nat) : Node := { ker := kern 3 0 2 0, argb := 0x77, ninst := 2, ready := true, part := some 0, opnds := [(7, 0, 1)], nextWid := next }
def launchL : Launch := { ctx := 1, image := 9, gen := 6, nodes := [nodeL 1] }
def withL (s : State) : State := { s with ctxs := [(1, some ctxL)], images := [(9, some imageL)], tht := [(7, some (tht 2 2))] }
def sBell (n ctx : Nat) : State := choose { n := ctx, v := 0x10080 } { (withL (st [] {})) with lqueue := (List.range n).map (fun i => ⟨0, BitVec.ofNat 64 (64 * i), 0, none⟩) }
def sAccept (va : W64) : State := { (withL (st (launchMem 0) {})) with lqueue := [⟨1, va, 6, some 0⟩], cores := ({} : State).cores.set 0 (awaits (.spawn va) (coreOf [])) }
def sDispatch : State := { (withL (st [] { run := { st := .running } })) with launches := [(4, some launchL)] }
/-- Instance 0 of the launch, stopped. -/
def instL : Inst := ⟨4, 0, 0, 1, 9, 0, 0x77⟩
def stoppedL : Stopped := { inst := instL, core := { coreOf [(4, 9)] with run := { st := .running, live := true, inst := instL }, spad := spadOf }, ex := 5 }
def sRedispatch : State := { sDispatch with stopped := [stoppedL] }
def candL : Cand := { prio := 3, wid := 1, place := 4 }
def candP : Cand := { prio := 3, pre := true, place := 4, idx := some 0 }
def sBoot : State := choose { n := 3, data := leBytes 8 9 ++ leBytes 8 5 ++ leBytes 8 7 ++ leBytes 8 0 } { (withL (st [] {})) with dev := { ({} : Dev) with hostEx := [3] } }
def sEnter (r : RunSt) : State := withL (st [] { run := { st := r, inst := instL }, spad := spadOf })
def launchE (refused : Option Nat) (compl : W64) : Launch := { launchL with nodes := [{ nodeL 2 with done := true, halted := 2 }], refused := refused, compl := compl }
def sComplete (refused : Option Nat) (compl : W64) : State := choose { n := 4 } { (withL (st [] {})) with launches := [(4, some (launchE refused compl)), (5, some {})], gtc := 500 }

/-! gangs, pre-emption -/
def gangG (g : Nat) : Gang := { id := 77, devs := [5, 6, 7], dl := 1000, armedAt := 100, acks := [6], state := g }
def launchG (g : Nat) : Launch := { launchL with gang := some (gangG g) }
def sGang (g m : Nat) (gtc : W64) : State := choose { n := 4, m := m } { (withL (st [] { run := { st := .running, inst := instL } })) with launches := [(4, some (launchG g))], gtc := gtc, dev := { ({} : Dev) with sysdev := 5, ports := (Vector.replicate 18 {}).set 1 { up := true } } }
def sPreempt : State := { (withL (st [] { coreOf [] with run := { st := .running, live := true, inst := ⟨6, 0, 0, 1, 9, 0, 0⟩ } })) with launches := [(4, some launchL), (6, some { ctx := 1, nodes := [{ ker := kern 0 0 1 0, nextWid := 1, running := 1 }] })], gtc := 60000, dev := { ({} : Dev) with absent := (List.range 256).drop 1 } }
def candQ : Cand := { candL with prio := 3 }
def sStop (r : RunSt) (preq : Bool) : State := { (withL (st [] { coreOf [(4, 9)] with run := { st := r, live := true, preq := preq, inst := instL, res := some { resid with image := 9 } }, spad := spadOf, cp := { slots := [(5, slotT), (1, slotF)] } })) with launches := [(4, some launchL)] }

/-! errors, retirement, eviction -/
def sErr (x : ErrSite) : State := choose { site := x } { (withL (st [] { coreOf [] with run := { st := .running, live := true, inst := instL }, spad := spadOf })) with launches := [(4, some launchL)] }
def sUnit (u : Unit') (k n : Nat) : State := choose { target := u, k := k } { (withL (st [] { coreOf [] with run := { st := .running, live := true, inst := instL } })) with launches := [(4, some launchL)], dev := { ({} : Dev) with errs := [(u, 5), (.core 9, 6), (u, 7), (u, 500000000)] } }
def sEvict : State := choose { n := lineKey 0x50040 } sLoadLine

/-! the host interface -/
def hostAt : Nat := 0x800000000000
def ringCmd (n : Nat) : List Byte := match n with
  | 1 => [1, 0, 0, 0] ++ zeros 4 ++ [4, 3, 1] ++ zeros 5 ++ leBytes 8 0x10000 ++ zeros 40
  | 11 => [1, 0, 0, 0] ++ zeros 4 ++ [11, 3, 1] ++ zeros 5 ++ leBytes 8 0x10000 ++ zeros 40
  | 2 => [2, 0, 0, 0] ++ leBytes 4 1 ++ zeros 56
  | 12 => [2, 0, 0, 0] ++ leBytes 4 9 ++ zeros 56
  | 3 => [3, 0, 0, 0] ++ leBytes 4 1 ++ [2, 0, 0xFF] ++ zeros 5 ++ leBytes 8 70000 ++ zeros 40
  | 13 => [3, 0, 0, 0] ++ leBytes 4 1 ++ [9, 0, 0xFF] ++ zeros 5 ++ leBytes 8 70000 ++ zeros 40
  | 4 => [4, 0, 0, 0] ++ leBytes 4 0 ++ zeros 16 ++ leBytes 4 7 ++ zeros 36
  | _ => [4, 0, 0, 0] ++ leBytes 4 0 ++ zeros 16 ++ leBytes 4 99 ++ zeros 36
def sRing (n : Nat) : State := choose { k := 5, m := 42, list := [300, 301] } { (withL (st (cells hostAt (ringCmd n)) {})) with ctxs := [(1, some { ctxL with share := if n = 1 then 2 else ctxL.share })], tht := [(7, some { tht 2 2 with flight := true })], dev := { ({} : Dev) with hcq := { base := BitVec.ofNat 64 hostAt, tail := 1 } } }
def sHost (c : Choice) (h : Hcq) : State := choose c { (st dataMem {}) with dev := { ({} : Dev) with hcq := h } }

/-! the management controller -/
def mailOf (opc arg0 arg1 arg2 : Nat) : Mbox := { cmd := BitVec.ofNat 64 opc, busy := true, resp := 0x800000000040, arg0 := BitVec.ofNat 64 arg0, arg1 := BitVec.ofNat 64 arg1, arg2 := BitVec.ofNat 64 arg2 }
def sMail (m : Mbox) (u : Sus) : State := choose { n := 2, v := 900 } { (st [] {}) with gtc := 500, dev := { ({} : Dev) with mbox := m, sus := u, ports := (Vector.replicate 18 {}).set 1 { up := true } } }
def sMailBadResp : State := sMail { mailOf 3 0 0 0 with resp := 0x41 } {}
def sDebug (sub arg2 : Nat) (stop closed : Bool) : State := { (withL (sMail (mailOf 6 sub 1 arg2) {})) with ctxs := if closed then [] else [(1, some ctxL)], cores := ({} : State).cores.set 0 { coreOf [] with run := { st := .running, live := true, dstop := stop, inst := instL }, dbg := { tb := [[1, 2, 3]] } } }
def sOccupied : State := { (sMail {} { st := .ordered 400 true }) with cores := ({} : State).cores.set 0 { coreOf [] with run := { st := .running, live := true, inst := instL } } }

/-! links, power, heat -/
def sPort (c : Choice) (t : Bool) : State := choose c { (st [] {}) with gtc := 500, dev := { ({} : Dev) with sysdev := 5, ports := (Vector.replicate 18 {}).set 2 { up := true, peer := 6, timeOnly := t } } }
/-- A flit from 6 to dst with its CRC, or with another one. -/
def flitC (dst cls : Nat) (ok : Bool) (d : List Byte) : Choice :=
  { n := 2, k := 1, list := [6, dst, cls, 0], data := d
    v := Config.crc64 (flitBytes { src := 6, dst := BitVec.ofNat 16 dst, cls := BitVec.ofNat 2 cls, payload := d }) + (if ok then 0 else 1) }
def sHeat (c : Choice) (f : Power → Power) : State := choose c { (st [] {}) with gtc := 250000, dev := { ({} : Dev) with power := f {} } }
def temps (t : Nat) : List Nat := List.replicate 40 50 ++ [t] ++ List.replicate 39 60

/-! images -/
/-- A file of a string table and one CTRL section of a HALT word, for 0x100000. -/
def fileG : List Byte := leBytes 4 0x464F5A42 ++ leBytes 2 1 ++ zeros 2 ++ leBytes 4 0 ++ leBytes 4 64 ++ leBytes 8 0x100000 ++ leBytes 8 65536 ++ leBytes 8 64 ++ leBytes 2 2 ++ leBytes 2 40 ++ zeros 20 ++
  (leBytes 4 0 ++ leBytes 2 7 ++ zeros 2 ++ leBytes 8 144 ++ leBytes 8 1 ++ zeros 16) ++ (leBytes 4 0 ++ leBytes 2 1 ++ leBytes 2 5 ++ leBytes 8 152 ++ leBytes 8 8 ++ leBytes 8 0 ++ leBytes 4 3 ++ zeros 4) ++
  zeros 8 ++ leBytes 8 0x65F0000000000000
def sImage (f : List Byte) (l : Tbl (Option Launch)) : State := choose { n := 1, m := 10, flag := true, v := 0x200000, data := f, list := [600] } { (withL (st [] {})) with launches := l }
def sImageAt (v : W64) (f : List Byte) : State := (fun s : State => { s with choice := { s.choice with v := v } }) (sImage f [])
def sUnload (l : Tbl (Option Launch)) : State := choose { n := 9 } { (withL (st [] {})) with launches := l }

/-! further cases -/
def sFlagBad : State := upd (fun c => { c with sync := { c.sync with bad := 1 <<< 63 } }) (sFlag 5 7 8)
def sRuleStop : State := upd (fun c => { c with run := { c.run with dstop := true } }) (sRule [] ruleA)
def sWaitfFull : State := upd (fun c => { c with sync := syncV [(9, 0, 0xFFFFFFFF)] }) (sWaitfLate .vector)
/-- A channel holds a command. -/
def busy : Core → Core := fun c => { c with cp := { c.cp with ch := c.cp.ch.set 0 [{ id := 3 }] } }
def sCopyBad : State := upd (fun c => { c with cp := { c.cp with bad := 0xFF } }) sCopy
def sChanHeld : State := upd (fun c => { c with held := [(.chan 1, 5, 1)] }) (sChanLate false false)
def sRowCut : State := choose { n := 3, cut := 32 } (sRowIn 1 slotF)
def retK : MsgKind := .ret hdrA (zeros 64) []
def rowR (p : Pos) : RRow := { rr := zeros 64, pos := [.placed, p, .none, .none, .none, .none, .none, .none], supplied := true, read := true }
def ratRet (p : Pos) : Machine.Rat := { ratR with rows := [{ rowR .none with outcome := 1 }, rowR p, rowR .placed, {}] }
def sRet (p : Pos) : State := sMsg retK none [(2, ratRet p)]
def sCloseFull : State := upd (fun c => { c with sync := { c.sync with kq := c.sync.kq.set 2 (List.replicate 16 (some 1)) } }) (sRouteCh 1 (.ringClose 1))
/-- A step of a gather collective and its piece. -/
def collG : List Byte := 1 :: collD.tail
def sPiece (map : Nat) : State :=
  (fun s : State => { s with ms := { s.ms with mem := s.ms.mem ++ cells 0x50208 [BitVec.ofNat 8 map] } })
    (choose { n := 77, m := 0, v := 0, flag := true, data := zeros 4096 } (sRouteCh 77 (.coll collG 0 (some {}))))
def adeO : Ade := adeR (adCmd 7 7 2 0) 1 0
def adeBad : Ade := { adeO with heads := [{ headR with poison := true }] }
def sAdeGone7 : State := { (sAde [] (some (adeR (adCmd 7 7 2 0) 0 0))) with tht := [] }
def sAdeCut (a : Ade) : State := choose { n := 2, cut := 64 } (sAde [] (some a))
def sErrReport : State := choose { site := .spad 7, flag := true, target := .core 3 } (sErr .fatal)
def sRingStill : State := { (sRing 4) with tht := [(7, some (tht 2 2))] }
def sTrained : State := (fun s : State => { s with dev := { s.dev with ports := Vector.replicate 18 { up := true } } }) (sMail (mailOf 2 0 0 0) { st := .resuming })
def sRestoring : State := (fun s : State => { s with dev := { s.dev with sus := { st := .restoring } } }) sRedispatch
def sMailKey : State := (fun s : State => { s with dev := { s.dev with sec := { s.dev.sec with idKey := .held } } }) (sMail (mailOf 3 0 0 0) {})
def sDebugIdle : State := { (sDebug 0 0xFFFF true false) with cores := ({} : State).cores }

/-! steps -/
def sTurn (a : Act) : State := { sInt with agenda := [{ ex := 0, act := a }, {}], cores := sInt.cores.set 0 { (me sInt) with run := { st := .running, live := true, res := some { (engRes 0x9000 (code48 (.vsetf 3))) with ctrl := [⟨0x1000, leBytes 8 0x01F0A30E00000000⟩] } }, ve := eng .running none none } }
def sTurnLog (a : Act) : State := setMe (sTurn a) { me (sTurn a) with csrd := { dbgctl := 8 } }
def turnOf (a : Act) : Turn := { ex := 0, act := a }
def stepOf (s : State) : State := match step s with | .next t => t | _ => s

/-! ## Every word of the opcode maps -/

/-- Control words written out from R44, R45 and R52 with every field set. -/
theorem test_decode_control_1 :
    ∀ e ∈ ([(0x00E8000000000000, .nop ⟨14, true⟩),
      (0x01ED2D6A00000000, .add ⟨14, true⟩ 41 26 53),
      (0x02ED2D6A00000000, .sub ⟨14, true⟩ 41 26 53),
      (0x03ED2D6A00000000, .mul ⟨14, true⟩ 41 26 53),
      (0x04ED2D6A00000000, .mulh ⟨14, true⟩ 41 26 53),
      (0x05ED2D6A00000000, .mulhu ⟨14, true⟩ 41 26 53),
      (0x06ED2D6A00000000, .div ⟨14, true⟩ 41 26 53),
      (0x07ED2D6A00000000, .divu ⟨14, true⟩ 41 26 53),
      (0x08ED2D6A00000000, .rem ⟨14, true⟩ 41 26 53),
      (0x09ED2D6A00000000, .remu ⟨14, true⟩ 41 26 53),
      (0x0AED2D6A00000000, .and ⟨14, true⟩ 41 26 53),
      (0x0BED2D6A00000000, .or ⟨14, true⟩ 41 26 53),
      (0x0CED2D6A00000000, .xor ⟨14, true⟩ 41 26 53),
      (0x0DED2D6A00000000, .andn ⟨14, true⟩ 41 26 53),
      (0x0EED2D6A00000000, .shl ⟨14, true⟩ 41 26 53),
      (0x0FED2D6A00000000, .shr ⟨14, true⟩ 41 26 53),
      (0x10ED2D6A00000000, .sra ⟨14, true⟩ 41 26 53),
      (0x11ED2D6A00000000, .min ⟨14, true⟩ 41 26 53),
      (0x12ED2D6A00000000, .max ⟨14, true⟩ 41 26 53),
      (0x13ED2D6A00000000, .minu ⟨14, true⟩ 41 26 53),
      (0x14ED2D6A00000000, .maxu ⟨14, true⟩ 41 26 53),
      (0x15ED2D0000000000, .clz ⟨14, true⟩ 41 26),
      (0x16ED2D0000000000, .popc ⟨14, true⟩ 41 26),
      (0x17ED2D6B20000000, .sel ⟨14, true⟩ 41 26 53 9),
      (0x18E96D6A00000000, .cmpeq ⟨14, true⟩ 11 26 53)] : List (W64 × Instr)), decodeControl e.1 = .ok e.2 := by decide +kernel

/-- Control words written out from R44, R45 and R52 with every field set. -/
theorem test_decode_control_2 :
    ∀ e ∈ ([(0x19E96D6A00000000, .cmpne ⟨14, true⟩ 11 26 53),
      (0x1AE96D6A00000000, .cmplt ⟨14, true⟩ 11 26 53),
      (0x1BE96D6A00000000, .cmple ⟨14, true⟩ 11 26 53),
      (0x1CE96D6A00000000, .cmpltu ⟨14, true⟩ 11 26 53),
      (0x1DE96D6A00000000, .cmpleu ⟨14, true⟩ 11 26 53),
      (0x1EE9631B20000000, .plog ⟨14, true⟩ 11 6 13 9),
      (0x1FE80D0020000000, .pmov ⟨14, true⟩ 0 26 1),
      (0x20ED2D0000000A5C, .addi ⟨14, true⟩ 41 26 0xA5C),
      (0x21ED2D0000000A5C, .andi ⟨14, true⟩ 41 26 0xA5C),
      (0x22ED2D0000000A5C, .ori ⟨14, true⟩ 41 26 0xA5C),
      (0x23ED2D0000000A5C, .xori ⟨14, true⟩ 41 26 0xA5C),
      (0x24ED2D000000002B, .shli ⟨14, true⟩ 41 26 0x2B),
      (0x25ED2D000000002B, .shri ⟨14, true⟩ 41 26 0x2B),
      (0x26ED2D000000002B, .srai ⟨14, true⟩ 41 26 0x2B),
      (0x27ED2000000C0DE5, .sethi ⟨14, true⟩ 41 0xC0DE5),
      (0x28ED2000000C0DE5, .addpc ⟨14, true⟩ 41 0xC0DE5),
      (0x29ED2000C001D00D, .movi ⟨14, true⟩ 41 0xC001D00D),
      (0x2AE96D00000009F3, .cmpeqi ⟨14, true⟩ 11 26 0x9F3),
      (0x2BE96D00000009F3, .cmplti ⟨14, true⟩ 11 26 0x9F3),
      (0x2CE96D00000009F3, .cmpltui ⟨14, true⟩ 11 26 0x9F3),
      (0x30ED2D006400083C, .ld ⟨14, true⟩ 41 26 ⟨1, 4, 2, 0x83C⟩),
      (0x31ED2D006400083C, .ldu ⟨14, true⟩ 41 26 ⟨1, 4, 2, 0x83C⟩),
      (0x32E80D6A9A00083C, .st ⟨14, true⟩ 26 53 ⟨2, 3, 1, 0x83C⟩),
      (0x34ED2D6B3400083C, .ldfw ⟨14, true⟩ 41 26 53 38 true 0x83C),
      (0x35ED2D6B3400083C, .ldfe ⟨14, true⟩ 41 26 53 38 true 0x83C)] : List (W64 × Instr)), decodeControl e.1 = .ok e.2 := by decide +kernel

/-- Control words written out from R44, R45 and R52 with every field set. -/
theorem test_decode_control_3 :
    ∀ e ∈ ([(0x36ED2D6B3400083C, .stef ⟨14, true⟩ 41 26 53 38 true 0x83C),
      (0x37E80D6A0000083C, .stff ⟨14, true⟩ 26 53 0x83C),
      (0x38E80D000000083C, .purge ⟨14, true⟩ 26 0x83C),
      (0x39ED2D6A0000083C, .tagrd ⟨14, true⟩ 41 26 53 0x83C),
      (0x40ED2D6A0660083C, .aadd ⟨14, true⟩ 41 26 53 ⟨3, 1, 4, 0x83C⟩),
      (0x41ED2D6A0660083C, .amin ⟨14, true⟩ 41 26 53 ⟨3, 1, 4, 0x83C⟩),
      (0x42ED2D6A0660083C, .amax ⟨14, true⟩ 41 26 53 ⟨3, 1, 4, 0x83C⟩),
      (0x43ED2D6A0660083C, .aminu ⟨14, true⟩ 41 26 53 ⟨3, 1, 4, 0x83C⟩),
      (0x44ED2D6A0660083C, .amaxu ⟨14, true⟩ 41 26 53 ⟨3, 1, 4, 0x83C⟩),
      (0x45ED2D6A0660083C, .aand ⟨14, true⟩ 41 26 53 ⟨3, 1, 4, 0x83C⟩),
      (0x46ED2D6A0660083C, .aor ⟨14, true⟩ 41 26 53 ⟨3, 1, 4, 0x83C⟩),
      (0x47ED2D6A0660083C, .axor ⟨14, true⟩ 41 26 53 ⟨3, 1, 4, 0x83C⟩),
      (0x48ED2D6A0660083C, .axchg ⟨14, true⟩ 41 26 53 ⟨3, 1, 4, 0x83C⟩),
      (0x49ED2D6B36D0083C, .acas ⟨14, true⟩ 41 26 53 38 ⟨3, 3, 2, 0x83C⟩),
      (0x4AED2D6A0488083C, .afadd ⟨14, true⟩ 41 26 53 ⟨2, 2, 1, 0x83C⟩),
      (0x4BED2D6B3408083C, .aincb ⟨14, true⟩ 41 26 53 38 ⟨2, 0, 1, 0x83C⟩),
      (0x50ED206B3400B000, .fence ⟨14, true⟩ 41 53 38 true 3 true),
      (0x51ED200134F9D000, .waitc ⟨14, true⟩ 41 38 true 5 3 6 7),
      (0x52ED2000002A5000, .barr ⟨14, true⟩ 41 0x2A5),
      (0x53ED2001342A5000, .bwait ⟨14, true⟩ 41 38 true 0x2A5),
      (0x54ED2001342A5000, .bsync ⟨14, true⟩ 41 38 true 0x2A5),
      (0x55ED2000002A5000, .bwdr ⟨14, true⟩ 41 0x2A5),
      (0x56ED206A002A5000, .bcfg ⟨14, true⟩ 41 53 0x2A5),
      (0x57ED2D6B3400783C, .waitq ⟨14, true⟩ 41 26 53 38 true 0x83C true 3),
      (0x58ED2D6A0000783C, .wake ⟨14, true⟩ 41 26 53 0x83C true 3)] : List (W64 × Instr)), decodeControl e.1 = .ok e.2 := by decide +kernel

/-- Control words written out from R44, R45 and R52 with every field set. -/
theorem test_decode_control_4 :
    ∀ e ∈ ([(0x59ED2D6B3400683C, .qsend ⟨14, true⟩ 41 26 53 38 true 0x83C 3),
      (0x5AED2D6B3400683C, .qrecv ⟨14, true⟩ 41 26 53 38 true 0x83C 3),
      (0x5BED206B3402D000, .ewait ⟨14, true⟩ 41 53 38 true 45),
      (0x5CE8006A0002D000, .eadd ⟨14, true⟩ 53 45),
      (0x5DED2D000000B83C, .evcfg ⟨14, true⟩ 41 26 0x83C 11),
      (0x60ED2D0135A94000, .fork ⟨14, true⟩ 41 26 38 5 0x2A5),
      (0x61ED200136A94000, .join ⟨14, true⟩ 41 38 6 0x2A5),
      (0x62ED2D6B33000000, .epushRun ⟨14, true⟩ 41 26 53 38 3),
      (0x63ED200134A9B000, .sbind ⟨14, true⟩ 41 38 true 11 41 2),
      (0x64ED20000000B000, .sfree ⟨14, true⟩ 41 11),
      (0x65E8000000000000, .halt ⟨14, true⟩),
      (0x70E80000C001D00D, .br ⟨14, true⟩ 0xC001D00D),
      (0x71E80000C001D00D, .call ⟨14, true⟩ 0xC001D00D),
      (0x72E80D0000000000, .callr ⟨14, true⟩ 26),
      (0x73E80D0000000000, .jmpr ⟨14, true⟩ 26),
      (0x74E8000000000000, .ret ⟨14, true⟩),
      (0x75E8002C5A3C0DE5, .loop ⟨14, true⟩ 0 2 0xC5A3 0xC0DE5),
      (0x76E802AC5A300000, .loopq ⟨14, true⟩ 5 2 0xC5A3),
      (0x77E8003000000000, .lbrk ⟨14, true⟩ 3),
      (0x78ED200136A5B000, .seam ⟨14, true⟩ 41 38 true 0x2A5B),
      (0x79ED2D6AC0000000, .tlift ⟨14, true⟩ 41 26 53 6),
      (0x7AED2D6AC0000000, .tdrop ⟨14, true⟩ 41 26 53 6),
      (0x7BED2D0000000000, .thome ⟨14, true⟩ 41 26),
      (0x7CED2D0000000000, .spawn ⟨14, true⟩ 41 26),
      (0x80ED200000000403, .rdcsr ⟨14, true⟩ 41 0x403)] : List (W64 × Instr)), decodeControl e.1 = .ok e.2 := by decide +kernel

/-- Control words written out from R44, R45 and R52 with every field set. -/
theorem test_decode_control_5 :
    ∀ e ∈ ([(0x81E80D0000000405, .wrcsr ⟨14, true⟩ 26 0x405),
      (0x81E80D0000000214, .frrctlCommit ⟨14, true⟩ 26),
      (0x81E80D0000000210, .frrselWrite ⟨14, true⟩ 26),
      (0x81E80D0000000202, .xfinfoReplay ⟨14, true⟩ 26),
      (0x81E80D000000030D, .kqpush ⟨14, true⟩ 26 5),
      (0x81E80D0000000410, .tbctlEnableWrite ⟨14, true⟩ 26),
      (0x82ED200000000000, .rdtime ⟨14, true⟩ 41),
      (0x83ED200000000000, .rdctime ⟨14, true⟩ 41),
      (0x84E800000000005B, .trap ⟨14, true⟩ 0x5B),
      (0x85E8000000000000, .eret ⟨14, true⟩),
      (0x86E80D0000000002, .tlbinv ⟨14, true⟩ 26 2),
      (0x87ED2D013400083C, .dcf ⟨14, true⟩ 41 26 38 true 0x83C),
      (0x88E80D0000000001, .cinv ⟨14, true⟩ 26 1),
      (0x89E800000000BEEF, .bkpt ⟨14, true⟩ 0xBEEF),
      (0x8AE8000000000000, .snapbc ⟨14, true⟩)] : List (W64 × Instr)), decodeControl e.1 = .ok e.2 := by decide +kernel

/-- Vector words written out from R56, R59 and R67 with every field set. -/
theorem test_decode_vector_1 :
    ∀ e ∈ ([(0x000A40000000, .vnop 41),
      (0x81225552AAAA, .vaddI32 ⟨true, 2, 9⟩ 341 170 682),
      (0x82225552AAAA, .vsubI32 ⟨true, 2, 9⟩ 341 170 682),
      (0x83225552AAAA, .vmulI32 ⟨true, 2, 9⟩ 341 170 682),
      (0x84225552AAAA, .vmulhI32 ⟨true, 2, 9⟩ 341 170 682),
      (0x85225552AAAA, .vminI32 ⟨true, 2, 9⟩ 341 170 682),
      (0x86225552AAAA, .vmaxI32 ⟨true, 2, 9⟩ 341 170 682),
      (0x87225552AAAA, .vminuI32 ⟨true, 2, 9⟩ 341 170 682),
      (0x88225552AAAA, .vmaxuI32 ⟨true, 2, 9⟩ 341 170 682),
      (0x89225552AAAA, .vand ⟨true, 2, 9⟩ 341 170 682),
      (0x8A225552AAAA, .vor ⟨true, 2, 9⟩ 341 170 682),
      (0x8B225552AAAA, .vxor ⟨true, 2, 9⟩ 341 170 682),
      (0x8C225552AAAA, .vshl ⟨true, 2, 9⟩ 341 170 682),
      (0x8D225552AAAA, .vshr ⟨true, 2, 9⟩ 341 170 682),
      (0x8E225552AAAA, .vsra ⟨true, 2, 9⟩ 341 170 682),
      (0x8F225552AAAA, .vaddsI32 ⟨true, 2, 9⟩ 341 170 682),
      (0x90225552AAAA, .vsubsI32 ⟨true, 2, 9⟩ 341 170 682),
      (0x91225552AAAA, .vaddI16x2 ⟨true, 2, 9⟩ 341 170 682),
      (0x92225552AAAA, .vaddI8x4 ⟨true, 2, 9⟩ 341 170 682),
      (0x93225552AAAA, .vdotI8x4 ⟨true, 2, 9⟩ 341 170 682),
      (0x98225552AAAA, .vaddF32 ⟨true, 2, 9⟩ 341 170 682),
      (0x99225552AAAA, .vsubF32 ⟨true, 2, 9⟩ 341 170 682),
      (0x9A225552AAAA, .vmulF32 ⟨true, 2, 9⟩ 341 170 682),
      (0x9B225552AAAA, .vfmaF32 ⟨true, 2, 9⟩ 341 170 682),
      (0x9C225552AAAA, .vminF32 ⟨true, 2, 9⟩ 341 170 682)] : List (W48 × Instr)), decodeVector e.1 = .ok e.2 := by decide +kernel

/-- Vector words written out from R56, R59 and R67 with every field set. -/
theorem test_decode_vector_2 :
    ∀ e ∈ ([(0x9D225552AAAA, .vmaxF32 ⟨true, 2, 9⟩ 341 170 682),
      (0x9E225552A800, .vrcpF32 ⟨true, 2, 9⟩ 341 170),
      (0x9F225552A800, .vrsqF32 ⟨true, 2, 9⟩ 341 170),
      (0xA0225552A800, .vexp2F32 ⟨true, 2, 9⟩ 341 170),
      (0xA1225552A800, .vlog2F32 ⟨true, 2, 9⟩ 341 170),
      (0xA2225552A800, .vabsF32 ⟨true, 2, 9⟩ 341 170),
      (0xA3225552A800, .vnegF32 ⟨true, 2, 9⟩ 341 170),
      (0xA4225552AAAA, .vfmaBf16x2 ⟨true, 2, 9⟩ 341 170 682),
      (0xA5225552AAAA, .vmaxabsF32 ⟨true, 2, 9⟩ 341 170 682),
      (0xA8226C02AAAA, .vcmpeqI32 ⟨true, 2, 9⟩ 11 170 682),
      (0xA9226C02AAAA, .vcmpltI32 ⟨true, 2, 9⟩ 11 170 682),
      (0xAA226C02AAAA, .vcmpltuI32 ⟨true, 2, 9⟩ 11 170 682),
      (0xAB226C02AAAA, .vcmpeqF32 ⟨true, 2, 9⟩ 11 170 682),
      (0xAC226C02AAAA, .vcmpltF32 ⟨true, 2, 9⟩ 11 170 682),
      (0xAD226C02AAAA, .vcmpleF32 ⟨true, 2, 9⟩ 11 170 682),
      (0xAE226C02AAAA, .vcmpunF32 ⟨true, 2, 9⟩ 11 170 682),
      (0x2F002C000000, .vmact 11),
      (0xB0226D803409, .vmlog ⟨true, 2, 9⟩ 11 6 13 9),
      (0x31225552AAAA, .vsel ⟨false, 2, 9⟩ 341 170 682),
      (0xB8225552A800, .vcvtF32I32 ⟨true, 2, 9⟩ 341 170),
      (0xB9225552A800, .vcvtI32F32Rz ⟨true, 2, 9⟩ 341 170),
      (0xBA225552A800, .vcvtI32F32Rne ⟨true, 2, 9⟩ 341 170),
      (0xBB225552A800, .vcvtBf16F32 ⟨true, 2, 9⟩ 341 170),
      (0xBC225552A800, .vcvtF16F32 ⟨true, 2, 9⟩ 341 170),
      (0xBD225552A800, .vcvtE4m3F32 ⟨true, 2, 9⟩ 341 170)] : List (W48 × Instr)), decodeVector e.1 = .ok e.2 := by decide +kernel

/-- Vector words written out from R56, R59 and R67 with every field set. -/
theorem test_decode_vector_3 :
    ∀ e ∈ ([(0xBE225552A800, .vcvtE5m2F32 ⟨true, 2, 9⟩ 341 170),
      (0x3F225552AAAA, .vqntE2m1 ⟨false, 2, 9⟩ 341 170 682),
      (0xC0225552A800, .vcvtF32Bf16 ⟨true, 2, 9⟩ 341 170),
      (0xC1225552A800, .vcvtF32F16 ⟨true, 2, 9⟩ 341 170),
      (0xC2225552A800, .vcvtF32E4m3 ⟨true, 2, 9⟩ 341 170),
      (0xC3225552A800, .vcvtF32E5m2 ⟨true, 2, 9⟩ 341 170),
      (0x44225552AAAA, .vdqntE2m1 ⟨false, 2, 9⟩ 341 170 682),
      (0xC5225552A800, .vcvtI8F32 ⟨true, 2, 9⟩ 341 170),
      (0xC6225552A800, .vcvtF32I8 ⟨true, 2, 9⟩ 341 170),
      (0xC8225552A800, .vredaddF32 ⟨true, 2, 9⟩ 341 170),
      (0xC9225552A800, .vredmaxF32 ⟨true, 2, 9⟩ 341 170),
      (0xCA225552A800, .vredaddI32 ⟨true, 2, 9⟩ 341 170),
      (0xCB225552A800, .vscanI32 ⟨true, 2, 9⟩ 341 170),
      (0xCC225552AAAA, .vperm ⟨true, 2, 9⟩ 341 170 682),
      (0xCD225552A82B, .vrot ⟨true, 2, 9⟩ 341 170 43),
      (0xCE225552A82B, .vbcast ⟨true, 2, 9⟩ 341 170 43),
      (0xCF22555C0DE5, .viota ⟨true, 2, 9⟩ 341 0xC0DE5),
      (0xD022555C0DE5, .vmovi ⟨true, 2, 9⟩ 341 0xC0DE5),
      (0xD1225552A800, .vmov ⟨true, 2, 9⟩ 341 170),
      (0xD822555BA5C3, .vld ⟨true, 2, 9⟩ 341 5 0x1A5C3),
      (0xD922555BA5C3, .vst ⟨true, 2, 9⟩ 341 5 0x1A5C3),
      (0xDA22555BA5C3, .vldfw ⟨true, 2, 9⟩ 341 5 0x1A5C3),
      (0xDB22555BA5C3, .vstef ⟨true, 2, 9⟩ 341 5 0x1A5C3),
      (0xDC225552A800, .vgath ⟨true, 2, 9⟩ 341 170),
      (0xDD225552A800, .vscat ⟨true, 2, 9⟩ 341 170)] : List (W48 × Instr)), decodeVector e.1 = .ok e.2 := by decide +kernel

/-- Vector words written out from R56, R59 and R67 with every field set. -/
theorem test_decode_vector_4 :
    ∀ e ∈ ([(0xE0224002A803, .vdefer ⟨true, 2, 9⟩ 170 3),
      (0x612255500003, .vdrain ⟨false, 2, 9⟩ 341 3),
      (0x680005C0DEF8, .vseta 5 0xC0DEF8),
      (0x690000C0DEF5, .vsetdl 0xC0DEF5),
      (0x6A002D000000, .vsetf 45),
      (0x6B002D000000, .vwaitf 45),
      (0x6C00000002A5, .vrdv 0x2A5),
      (0x6D0000000000, .vend),
      (0x6E0001A5C9F3, .vloop 1 0xA5C 0x9F3),
      (0x6F000BA5C000, .vloopq 1 5 0xA5C)] : List (W48 × Instr)), decodeVector e.1 = .ok e.2 := by decide +kernel

/-- Matrix words written out from R56, R66, R68 and R242. -/
theorem test_decode_matrix :
    ∀ e ∈ ([(0x000A40000000, .mnop 41),
      (0x01002BC0DEF5, .mlvl 5 3 0xC0DEF5),
      (0x02002B000A5C, .mstra 5 3 0xA5C),
      (0x03002B000A5C, .mstrb 5 3 0xA5C),
      (0x04002B000A5C, .mstrc 5 3 0xA5C),
      (0x05002A400000, .mbind 2 41 false),
      (0x050010200000, .mbind 1 0 true),
      (0x06000D668000, .mfmt 3 5 2 1 true false true),
      (0x07002000BEEF, .mhld 2 0xBEEF),
      (0x080000000000, .mgo),
      (0x090A40025C00, .mdrain 41 2 ⟨false, true, 3⟩ 2 false),
      (0x09000001A100, .mdrain 0 1 ⟨true, false, 4⟩ 0 true),
      (0x0A0010000000, .mzero false true),
      (0x0B002D000000, .msetf 45),
      (0x0C002D000000, .mwaitf 45),
      (0x0D00000002A5, .mrdv 0x2A5),
      (0x0E0000000000, .mend),
      (0x0F0000C0DEF5, .msetdl 0xC0DEF5)] : List (W48 × Instr)), decodeMatrix e.1 = .ok e.2 := by decide +kernel

/-- Copy words written out from R56, R66, R115, R179, R185, R190, R192, R193 and R280. -/
theorem test_decode_copy_1 :
    ∀ e ∈ ([(0x000A40000000, .xnop 41),
      (0x01DA695A5C00, .xcopy ⟨13, 41⟩ 41 22 2 ⟨false, true, 3⟩ true),
      (0x02DA695AA000, .xadd ⟨13, 41⟩ 41 22 2 ⟨true, false, 4⟩),
      (0x03DA695AD750, .xgath ⟨13, 41⟩ 41 22 53 2 ⟨true, true, 2⟩ true),
      (0x04DA695A4B50, .xscat ⟨13, 41⟩ 41 22 53 2 ⟨false, true, 1⟩),
      (0x050A69BEEF80, .xmove ⟨0, 41⟩ 41 0xBEEF 2),
      (0x06002E980000, .xstrm 11 41 2),
      (0x070A540202A5, .xtsrld 41 20 2 0x2A5),
      (0x08DA696E02A5, .xpatch ⟨13, 41⟩ 41 13 true 2 0x2A5),
      (0x0900295AB000, .xroute 41 22 2 11),
      (0x0ADA69B25800, .xrret ⟨13, 41⟩ 41 11 2 ⟨false, true, 3⟩),
      (0x0B000B0202A5, .xratRat 11 2 0x2A5),
      (0x0B001B0202A5, .xratRing 11 2 0x2A5)] : List (W48 × Instr)), decodeCopy e.1 = .ok e.2 := by decide +kernel

/-- Copy words written out from R56, R66, R115, R179, R185, R190, R192, R193 and R280. -/
theorem test_decode_copy_2 :
    ∀ e ∈ ([(0x0C0000B20000, .xrcloseClose 11 2),
      (0x0C0010B20000, .xrcloseRelease 11 2),
      (0x0D0A400202A5, .xcoll 41 2 0x2A5),
      (0x0EDA69020000, .xdcf ⟨13, 41⟩ 41 2),
      (0x0FDA69025EA5, .xfill ⟨13, 41⟩ 41 2 ⟨false, true, 3⟩ true 0x2A5),
      (0x10002D000000, .xsetf 45),
      (0x11002D000000, .xwaitf 45),
      (0x1200000002A5, .xrdv 0x2A5),
      (0x130000000000, .xend),
      (0x140000C0DEF5, .xsetdl 0xC0DEF5),
      (0x150001A5C9F3, .xloop 1 0xA5C 0x9F3),
      (0x16000BA5C000, .xloopq 1 5 0xA5C)] : List (W48 × Instr)), decodeCopy e.1 = .ok e.2 := by decide +kernel

/-! ## Words that the specification works -/

/-- R75, R290, R293, R190, R191, R162, R113, R130, R229, R398: control words as the specification prints them. -/
theorem test_worked_control :
    ∀ e ∈ ([(0x01F0A30E00000000, .add ⟨15, false⟩ 5 6 7), (0x2039248000000FF8, .addi ⟨3, true⟩ 9 9 0xFF8), (0x30F09F804E000FF0, .ld ⟨15, false⟩ 4 63 ⟨1, 1, 3, 0xFF0⟩),
      (0x1AF0420A00000000, .cmplt ⟨15, false⟩ 2 4 5), (0x70F00000FFFFFFFD, .br ⟨15, false⟩ 0xFFFFFFFD), (0x75F0000000300004, .loop ⟨15, false⟩ 0 0 3 4),
      (0x63F0A00030492000, .sbind ⟨15, false⟩ 5 6 false 2 9 1), (0x64F0A00000002000, .sfree ⟨15, false⟩ 5 2), (0x4BF0851666D80008, .aincb ⟨15, false⟩ 4 10 11 12 ⟨3, 3, 3, 8⟩),
      (0x79F06516A0000000, .tlift ⟨15, false⟩ 3 10 11 5), (0x78F0A00030003000, .seam ⟨15, false⟩ 5 6 false 3), (0x78F0A00034003000, .seam ⟨15, false⟩ 5 6 true 3),
      (0x84F0000000000005, .trap ⟨15, false⟩ 5), (0x35F0848A30000008, .ldfe ⟨15, false⟩ 4 9 5 6 false 8)] : List (W64 × Instr)), decodeControl e.1 = .ok e.2 := by decide +kernel

/-- Engine words as the specification prints them (R56, R217, R326, R242 to R244, R115, R179, R280). -/
theorem test_worked_engine :
    (∀ e ∈ ([(0x9810C643212C, .vaddF32 ⟨true, 1, 3⟩ 100 200 300), (0x1A0000100803, .vmulF32 ⟨false, 0, 0⟩ 1 2 3), (0x3F0001402815, .vqntE2m1 ⟨false, 0, 0⟩ 20 10 21),
      (0x6A0003000000, .vsetf 3)] : List (W48 × Instr)), decodeVector e.1 = .ok e.2) ∧
    (∀ e ∈ ([(0x01000B000003, .mlvl 1 3 3), (0x0600110A0000, .mfmt 4 4 0 2 true false false), (0x0700200000FF, .mhld 2 0xFF)] : List (W48 × Instr)), decodeMatrix e.1 = .ok e.2) ∧
    (∀ e ∈ ([(0x011045095800, .xcopy ⟨1, 1⟩ 5 2 1 ⟨false, true, 3⟩ false), (0x050009001080, .xmove ⟨0, 0⟩ 9 16 2), (0x090004143000, .xroute 4 5 0 3), (0x0A0006210000, .xrret ⟨0, 0⟩ 6 2 1 ⟨false, false, 0⟩),
      (0x0B0012000005, .xratRing 2 0 5), (0x0C0000210000, .xrcloseClose 2 1)] : List (W48 × Instr)), decodeCopy e.1 = .ok e.2) := by decide +kernel

/-- The bytes of the worked words in memory order (R44, R55). -/
theorem test_worked_bytes :
    decodeControlBytes [0xF8, 0x0F, 0, 0, 0x80, 0x24, 0x39, 0x20] = .ok (.addi ⟨3, true⟩ 9 9 0xFF8, []) ∧
    decodeEngineBytes .vector [0x2C, 0x21, 0x43, 0xC6, 0x10, 0x98, 7] = .ok (.vaddF32 ⟨true, 1, 3⟩ 100 200 300, [7]) := by decide +kernel

/-! ## Ill-formed words: one for each check -/

/-- R46 to R48, R76, R297, R301: fields of control words that are not legal. -/
theorem test_ill_formed_control :
    ∀ i ∈ ([.shli g1 1 2 64, .shri g1 1 2 0x800, .srai g1 1 2 64, .pmov g1 1 2 2, .pmov g1 1 2 0, .pmov g1 1 0 1, .ld g1 1 2 ⟨2, 0, 3, 0⟩, .ldu g1 1 2 ⟨0, 1, 3, 0⟩, .st g1 1 2 ⟨1, 0, 3, 0⟩,
      .st g1 1 2 ⟨2, 5, 3, 0⟩, .aadd g1 1 2 3 ⟨1, 0, 0, 0⟩, .axchg g1 1 2 3 ⟨3, 4, 0, 0⟩, .acas g1 1 2 3 4 ⟨3, 0, 5, 0⟩, .afadd g1 1 2 3 ⟨3, 0, 0, 0⟩, .fence g1 1 2 3 false 5 false,
      .waitq g1 1 2 3 4 false 0 false 6, .wake g1 1 2 3 0 false 7, .qsend g1 1 2 3 4 false 0 5, .qrecv g1 1 2 3 4 false 0 5, .fork g1 1 2 3 0 0, .epushRun g1 1 2 3 4 0,
      .loop g1 0 4 1 1, .loop g1 0 0 0 1, .loop g1 1 0 1 1, .loopq g1 0 4 1, .loopq g1 0 0 0, .lbrk g1 4, .tlift g1 1 2 3 8, .tdrop g1 1 2 3 9, .rdcsr g1 1 8, .rdcsr g1 1 0x700, .wrcsr g1 1 0x406,
      .trap g1 128, .tlbinv g1 1 3, .cinv g1 1 3] : List Instr), wf i = false := by decide +kernel

/-- R60 to R67, R233, R238: fields of vector words that are not legal; the second is R62's worked VMOV. -/
theorem test_ill_formed_vector :
    ∀ i ∈ ([.vaddI32 ⟨false, 0, 0⟩ 768 1 2, .vmov ⟨false, 14, 1⟩ 2 1, .vaddI32 ⟨false, 0, 0⟩ 1 784 2, .vaddF32 ⟨false, 7, 63⟩ 400 1 2, .vcmpeqI32 ⟨false, 0, 0⟩ 0 1 2, .vmlog ⟨false, 0, 0⟩ 0 1 2 3,
      .vsel ⟨true, 0, 0⟩ 1 2 3, .vqntE2m1 ⟨true, 0, 0⟩ 1 2 3, .vqntE2m1 ⟨false, 0, 0⟩ 1 2 768, .vqntE2m1 ⟨false, 0, 0⟩ 1 2 1, .vdqntE2m1 ⟨true, 0, 0⟩ 1 2 3, .viota ⟨false, 0, 0⟩ 768 0,
      .vmovi ⟨false, 15, 1⟩ 0 0, .vld ⟨false, 0, 63⟩ 705 0 0, .vst ⟨false, 0, 0⟩ 768 0 0, .vldfw ⟨false, 0, 1⟩ 767 0 0, .vstef ⟨false, 0, 1⟩ 767 0 0, .vgath ⟨false, 0, 0⟩ 1 767, .vscat ⟨false, 0, 0⟩ 784 1,
      .vdefer ⟨false, 0, 0⟩ 765 3, .vdrain ⟨true, 0, 0⟩ 1 0, .vdrain ⟨false, 0, 0⟩ 765 3, .vseta 0 4, .vloop 0 0 1, .vloopq 0 0 0] : List Instr), wf i = false := by decide +kernel

/-- R242 to R248, R179, R115, R185, R66: fields of matrix and copy words that are not legal. -/
theorem test_ill_formed_matrix_copy :
    ∀ i ∈ ([.mlvl 6 1 1, .mlvl 0 5 1, .mlvl 0 0 1, .mlvl 0 1 0, .mstra 6 0 0, .mstrb 0 5 0, .mstrc 7 0 0, .mbind 0 1 true, .mfmt 6 0 0 0 false false false, .mfmt 0 6 0 0 false false false,
      .mfmt 0 0 3 0 false false false, .mhld 3 0, .mdrain 0 0 ⟨false, false, 1⟩ 0 false, .mdrain 0 0 ⟨false, false, 0⟩ 3 false, .mdrain 1 0 ⟨false, false, 0⟩ 0 true, .mzero false false,
      .xcopy ⟨0, 0⟩ 1 2 0 ⟨true, false, 5⟩ false, .xadd ⟨0, 0⟩ 1 2 0 ⟨false, false, 1⟩, .xgath ⟨0, 0⟩ 1 2 3 0 ⟨false, true, 6⟩ false, .xscat ⟨0, 0⟩ 1 2 3 0 ⟨false, false, 2⟩,
      .xfill ⟨0, 0⟩ 1 0 ⟨false, false, 1⟩ false 0, .xmove ⟨1, 0⟩ 1 0 0, .xtsrld 1 63 0 0, .xpatch ⟨0, 0⟩ 1 21 false 0 0, .xrret ⟨0, 0⟩ 1 2 0 ⟨false, false, 4⟩, .xloop 0 0 1, .xloopq 0 0 0] : List Instr),
      wf i = false := by decide +kernel

/-! ## One step of some words, the results from the specification's tables and worked examples -/

/-- The state after one instruction; where it stops, the state before. -/
def after (i : Instr) (s : State) : State := match exec i s with | .next t => t | _ => s

/-- R289: a sum is taken modulo 2 ^ 64: 0x8000000000000000 twice is 0. -/
theorem test_add_wraps : rd (after (.add g1 20 2 2) sInt) 20 = 0 := by decide +kernel
/-- R289: a quotient by zero is all ones. -/
theorem test_div_by_zero : rd (after (.div g1 20 1 4) sInt) 20 = 0xFFFFFFFFFFFFFFFF := by decide +kernel
/-- R289: the most negative number divided by minus one is itself. -/
theorem test_div_overflow : rd (after (.div g1 20 2 3) sInt) 20 = 0x8000000000000000 := by decide +kernel
/-- R289: the leading zero bits of zero are 64. -/
theorem test_clz_zero : rd (after (.clz g1 20 4) sInt) 20 = 64 := by decide +kernel
/-- R290: minus one is less than five, signed, and is not, unsigned. -/
theorem test_compares : (me (after (.cmplt g1 3 3 1) sInt)).ctl.p.get 3 = true ∧ (me (after (.cmpltu g1 3 3 1) sInt)).ctl.p.get 3 = false := by decide +kernel
/-- R41: a write to s0 is discarded. -/
theorem test_s0 : rd (after (.movi g1 0 7) sInt) 0 = 0 ∧ (me (after (.movi g1 0 7) sInt)).ctl.pc = 0x1008 := by decide +kernel
/-- R47: an immediate of 20 bits is extended and shifted by 12. -/
theorem test_sethi : rd (after (.sethi g1 20 0x80000) sInt) 20 = 0xFFFFFFFF80000000 := by decide +kernel
/-- R47: a displacement of minus three words. -/
theorem test_br_back : (me (after (.br g1 0xFFFFFFFD) sInt)).ctl.pc = 0xFE8 := by decide +kernel
/-- R293: CALL leaves the address of the next word in s62. -/
theorem test_call_link : rd (after (.call g1 2) sInt) 62 = 0x1008 ∧ (me (after (.call g1 2) sInt)).ctl.pc = 0x1010 := by decide +kernel
/-- R398: TRAP 5 takes a trap of code 0x85 whose EPC names the word, and goes to the vector. -/
theorem test_trap_entry : (me (after (.trap g1 5) sInt)).csr.epc = 0x1000 ∧ (me (after (.trap g1 5) sInt)).csr.cause.toNat % 256 = 0x85 ∧ (me (after (.trap g1 5) sInt)).ctl.pc = 0x8000 := by decide +kernel
/-- R50: a word whose guard is false writes nothing and falls through. -/
theorem test_predicate_false : rd (after (.movi ⟨15, true⟩ 20 7) sInt) 20 = rd sInt 20 ∧ (me (after (.movi ⟨15, true⟩ 20 7) sInt)).ctl.pc = 0x1008 := by decide +kernel

/-! ## Number formats, from the worked values of R21 and R214 -/

/-- The encodings of -6.5, from FP32 0xC0D00000. -/
theorem test_narrow_worked :
    encBf16 (decF32 0xC0D00000) = 0xC0D0 ∧ encF16 (decF32 0xC0D00000) = 0xC680 ∧ encE4m3 (decF32 0xC0D00000) = 0xCD ∧ encE5m2 (decF32 0xC0D00000) = 0xC6 := by decide +kernel
/-- 460.0 narrows to E4M3's largest finite number. -/
theorem test_narrow_clamps : encE4m3 (decF32 0x43E60000) = 0x7E := by decide +kernel
/-- 1 + 2 ^ -24 rounds to even. -/
theorem test_round_even : f32Add 0x3F800000 0x33800000 = 0x3F800000 := by decide +kernel

/-! ## Witnesses: the hypotheses of each statement are met together -/

/-- Obligations.IntegerWords, its part IntegerWordResults: hypotheses met together. -/
theorem witness_IntegerWordResults :
    (guardOk (me sInt).ctl g1 = true) := by
  decide +kernel

/-- Obligations.IntegerWords, its part BitCountResults: hypotheses met together. -/
theorem witness_BitCountResults :
    (guardOk (me sInt).ctl g1 = true) := by
  decide +kernel

/-- Obligations.IntegerWords, its part ImmediateWordResults: hypotheses met together. -/
theorem witness_ImmediateWordResults :
    ((guardOk (me sInt).ctl g1 = true)) ∧
    ((guardOk (me sInt).ctl g1 = true) ∧ (BitVec.toNat (63 : BitVec 12) < 64)) := by
  refine ⟨?_, ?_⟩ <;> decide +kernel

/-- Obligations.PredicateAndMoveWords, its part CompareWordResults: hypotheses met together. -/
theorem witness_CompareWordResults :
    (guardOk (me sInt).ctl g1 = true) := by
  decide +kernel

/-- Obligations.PredicateAndMoveWords, its part MoveAndTimeWordResults: hypotheses met together. -/
theorem witness_MoveAndTimeWordResults :
    ((guardOk (me sInt).ctl g1 = true)) ∧
    ((guardOk (me sInt).ctl g1 = true) ∧ (2 ≤ BitVec.toNat (15 : BitVec 4))) := by
  refine ⟨?_, ?_⟩ <;> decide +kernel

/-- Obligations.PredicateFalseWords: hypotheses met together. -/
theorem witness_PredicateFalseWords :
    (decide ((me sInt).cwait = none) && (match encode (Instr.add { pr := 0, pn := false : Guard } (1 : Reg) (2 : Reg) (3 : Reg)) with | Code.control w'0 => decide (guardOk (me sInt).ctl (Dec.fG w'0) = false) && true | _ => false)) = true := by
  decide +kernel

/-- Obligations.BranchesAndLoops, its part BranchWords: hypotheses met together. -/
theorem witness_BranchWords :
    ((guardOk (me sInt).ctl g1 = true) ∧ (BitVec.toNat ((me sInt).ctl.pc + BitVec.signExtend 64 (4294967295 : BitVec 32) * (8 : W64)) % 8 = 0)) ∧
    ((guardOk (me sInt).ctl g1 = true) ∧ (BitVec.toNat (rd sInt (62 : Reg)) % 8 = 0)) := by
  refine ⟨?_, ?_⟩ <;> decide +kernel

/-- Obligations.BranchesAndLoops, its part BranchMisaligned: hypotheses met together. -/
theorem witness_BranchMisaligned :
    ((guardOk     (me         (upd           (fun (c : Core) =>             ({ c with ctl :=                 let __src := c.ctl;                 { s := c.ctl.s.set 62 (7 : W64) (by decide), p := __src.p, loops := __src.loops, pc := (4100 : W64), bad := __src.bad, badp := __src.badp, late := __src.late : Ctl } } : Core))           sInt)).ctl     g1 =   true) ∧ ((me         (upd           (fun (c : Core) =>             ({ c with ctl :=                 let __src := c.ctl;                 { s := c.ctl.s.set 62 (7 : W64) (by decide), p := __src.p, loops := __src.loops, pc := (4100 : W64), bad := __src.bad, badp := __src.badp, late := __src.late : Ctl } } : Core))           sInt)).csr.sup =   false) ∧ (BitVec.toNat       ((me               (upd                 (fun (c : Core) =>                   ({ c with ctl :=                       let __src := c.ctl;                       { s := c.ctl.s.set 62 (7 : W64) (by decide), p := __src.p, loops := __src.loops, pc := (4100 : W64), bad := __src.bad, badp := __src.badp, late := __src.late : Ctl } } : Core))                 sInt)).ctl.pc +         BitVec.signExtend 64 (3 : BitVec 32) * (8 : W64)) %     8 ≠   0)) ∧
    ((guardOk     (me         (upd           (fun (c : Core) =>             ({ c with ctl :=                 let __src := c.ctl;                 { s := c.ctl.s.set 62 (7 : W64) (by decide), p := __src.p, loops := __src.loops, pc := (4100 : W64), bad := __src.bad, badp := __src.badp, late := __src.late : Ctl } } : Core))           sInt)).ctl     g1 =   true) ∧ ((me         (upd           (fun (c : Core) =>             ({ c with ctl :=                 let __src := c.ctl;                 { s := c.ctl.s.set 62 (7 : W64) (by decide), p := __src.p, loops := __src.loops, pc := (4100 : W64), bad := __src.bad, badp := __src.badp, late := __src.late : Ctl } } : Core))           sInt)).csr.sup =   false) ∧ (BitVec.toNat       (rd         (upd           (fun (c : Core) =>             ({ c with ctl :=                 let __src := c.ctl;                 { s := c.ctl.s.set 62 (7 : W64) (by decide), p := __src.p, loops := __src.loops, pc := (4100 : W64), bad := __src.bad, badp := __src.badp, late := __src.late : Ctl } } : Core))           sInt)         (10 : Reg)) %     8 ≠   0)) ∧
    ((guardOk     (me         (upd           (fun (c : Core) =>             ({ c with ctl :=                 let __src := c.ctl;                 { s := c.ctl.s.set 62 (7 : W64) (by decide), p := __src.p, loops := __src.loops, pc := (4100 : W64), bad := __src.bad, badp := __src.badp, late := __src.late : Ctl } } : Core))           sInt)).ctl     g1 =   true) ∧ ((me         (upd           (fun (c : Core) =>             ({ c with ctl :=                 let __src := c.ctl;                 { s := c.ctl.s.set 62 (7 : W64) (by decide), p := __src.p, loops := __src.loops, pc := (4100 : W64), bad := __src.bad, badp := __src.badp, late := __src.late : Ctl } } : Core))           sInt)).csr.sup =   false) ∧ (BitVec.toNat       (rd         (upd           (fun (c : Core) =>             ({ c with ctl :=                 let __src := c.ctl;                 { s := c.ctl.s.set 62 (7 : W64) (by decide), p := __src.p, loops := __src.loops, pc := (4100 : W64), bad := __src.bad, badp := __src.badp, late := __src.late : Ctl } } : Core))           sInt)         (62 : Reg)) %     8 ≠   0)) := by
  refine ⟨?_, ?_, ?_⟩ <;> decide +kernel

/-- Obligations.BranchesAndLoops, its part LoopOpens: hypotheses met together. -/
theorem witness_LoopOpens :
    ((guardOk (me sInt).ctl g1 = true) ∧ (nests (me sInt).ctl (lvl (3 : BitVec 3)) ((me sInt).ctl.pc + (8 : W64) * BitVec.setWidth 64 (65535 : BitVec 16)) = true) ∧ ((if (0 : Reg) = (0 : Reg) then BitVec.setWidth 64 (0 : BitVec 20) else rd sInt (0 : Reg)) = (0 : BitVec 64))) ∧
    ((guardOk (me sInt).ctl g1 = true) ∧ (nests (me sInt).ctl (lvl (3 : BitVec 3)) ((me sInt).ctl.pc + (8 : W64) * BitVec.setWidth 64 (1 : BitVec 16)) = true) ∧ ((if (3 : Reg) = (0 : Reg) then BitVec.setWidth 64 (0 : BitVec 20) else rd sInt (3 : Reg)) ≠ (0 : BitVec 64)) ∧ (0 < BitVec.toNat (1 : BitVec 16)) ∧ (∀ (i : Fin 4), i ≠ lvl (3 : BitVec 3) → ¬(((me sInt).ctl.loops.get i).act = true ∧ ((me sInt).ctl.loops.get i).last = (me sInt).ctl.pc))) := by
  refine ⟨?_, ?_⟩ <;> decide +kernel

/-- Obligations.BranchesAndLoops, its part LoopEndTest: hypotheses met together. -/
theorem witness_LoopEndTest :
    ((guardOk (me sInt).ctl g1 = true) ∧ (∀ (i : Fin 4), ¬(((me sInt).ctl.loops.get i).act = true ∧ ((me sInt).ctl.loops.get i).last = (me sInt).ctl.pc))) ∧
    ((guardOk (me (sEnd 2)).ctl g1 = true) ∧ (((me (sEnd 2)).ctl.loops.get (3 : Fin 4)).act = true) ∧ (((me (sEnd 2)).ctl.loops.get (3 : Fin 4)).last = (me (sEnd 2)).ctl.pc) ∧ (∀ (i : Fin 4), i ≠ (3 : Fin 4) → ((me (sEnd 2)).ctl.loops.get i).act = true ∧ ((me (sEnd 2)).ctl.loops.get i).last = (me (sEnd 2)).ctl.pc → ((me (sEnd 2)).ctl.loops.get i).order < ((me (sEnd 2)).ctl.loops.get (3 : Fin 4)).order) ∧ (1 < BitVec.toNat ((me (sEnd 2)).ctl.loops.get (3 : Fin 4)).count)) ∧
    ((guardOk (me (sEnd 1)).ctl g1 = true) ∧ (((me (sEnd 1)).ctl.loops.get (3 : Fin 4)).act = true) ∧ (((me (sEnd 1)).ctl.loops.get (3 : Fin 4)).last = (me (sEnd 1)).ctl.pc) ∧ (∀ (i : Fin 4), i ≠ (3 : Fin 4) → ((me (sEnd 1)).ctl.loops.get i).act = true ∧ ((me (sEnd 1)).ctl.loops.get i).last = (me (sEnd 1)).ctl.pc → ((me (sEnd 1)).ctl.loops.get i).order < ((me (sEnd 1)).ctl.loops.get (3 : Fin 4)).order) ∧ (BitVec.toNat ((me (sEnd 1)).ctl.loops.get (3 : Fin 4)).count ≤ 1) ∧ (∀ (i : Fin 4), i ≠ (3 : Fin 4) → ¬(((me (sEnd 1)).ctl.loops.get i).act = true ∧ ((me (sEnd 1)).ctl.loops.get i).last = (me (sEnd 1)).ctl.pc))) := by
  refine ⟨?_, ?_, ?_⟩ <;> decide +kernel

/-- Obligations.BranchesAndLoops, its part LoopBreak: hypotheses met together. -/
theorem witness_LoopBreak :
    ((guardOk (me (sEnd 1)).ctl g1 = true) ∧ (((me (sEnd 1)).ctl.loops.get (lvl 3)).act = true)) ∧
    ((guardOk (me sInt).ctl g1 = true) ∧ (((me sInt).ctl.loops.get (lvl 3)).act = false)) := by
  refine ⟨?_, ?_⟩ <;> decide +kernel

/-- Obligations.TranslationTouchesEntryAlone: hypotheses met together. -/
theorem witness_TranslationTouchesEntryAlone :
    (decide (linesOk sInt.ms = true) && (match Machine.translate sInt 196640 Acc.write Seq.control with | (Except.ok _, _) => true | _ => false)) = true := by
  decide +kernel

/-- Obligations.Loads, its part LoadWordsIssue: hypotheses met together. -/
theorem witness_LoadWordsIssue :
    ((guardOk (me sInt).ctl g1 = true) ∧ (BitVec.toNat (rd sInt (11 : Reg) + BitVec.signExtend 64 { ord := 0, scope := 0, sz := 3, off := 2040 : MemF }.off) % 2 ^ { ord := 0, scope := 0, sz := 3, off := 2040 : MemF }.sz.toNat = 0) ∧ (inWindow (me sInt) (rd sInt (11 : Reg) + BitVec.signExtend 64 { ord := 0, scope := 0, sz := 3, off := 2040 : MemF }.off) = true)) ∧
    ((decide (guardOk (me sInt).ctl g1 = true) && decide (BitVec.toNat (rd sInt (8 : Reg) + BitVec.signExtend 64 { ord := 0, scope := 0, sz := 3, off := 0 : MemF }.off) % 2 ^ { ord := 0, scope := 0, sz := 3, off := 0 : MemF }.sz.toNat = 0) && decide (inWindow (me sInt) (rd sInt (8 : Reg) + BitVec.signExtend 64 { ord := 0, scope := 0, sz := 3, off := 0 : MemF }.off) = false) && (match Machine.translate sInt (rd sInt (8 : Reg) + BitVec.signExtend 64 { ord := 0, scope := 0, sz := 3, off := 0 : MemF }.off) Acc.read Seq.control with | (Except.ok _, _) => true | _ => false)) = true) := by
  refine ⟨?_, ?_⟩ <;> decide +kernel

/-- Obligations.Loads, its part LoadReplies: hypotheses met together. -/
theorem witness_LoadReplies :
    ((decide (1 ∈ [1, 2, 4, 8]) && decide (loadReady (sLoadPad 2097151 1 true) 2097151 1 false true = true) && decide (spPoison (me (sLoadPad 2097151 1 true)) 2097151 1 = false) && (match (me (sLoadPad 2097151 1 true)).pend with | some p'0 => decide (p'0.kind = PKind.load 2097151 1 true false false true) && true | _ => false)) = true) ∧
    ((decide (4 ∈ [1, 2, 4, 8]) && decide (327752 % 4 = 0) && (match (me sLoadL1).pend with | some p'0 => decide (p'0.kind = PKind.load 327752 4 true false false false) && (match l1Hit sLoadL1 Seq.control 327752 4 false false with | some l'1 => decide (l'1.data.length = 128) && decide (marked l'1.poison (327752 % 128) 4 = false) && true | _ => false) | _ => false)) = true) ∧
    ((decide (8 ∈ [1, 2, 4, 8]) && decide (l1Hit (sLoadMem 327744 8 true true false) Seq.control 327744 8 true false = none) && decide (loadReady (sLoadMem 327744 8 true true false) 327744 8 false false = true) && decide (327744 % 8 = 0) && decide (linesOk (sLoadMem 327744 8 true true false).ms = true) && decide (slicePoison (sliceTouch (sLoadMem 327744 8 true true false).ms 327744 8) 327744 8 = false) && (match (me (sLoadMem 327744 8 true true false)).pend with | some p'0 => decide (p'0.kind = PKind.load 327744 8 true true false false) && true | _ => false)) = true) ∧
    ((decide (1 ∈ [1, 2, 4, 8]) && (match (me (sReply (PKind.value 18446744073709551615 true))).pend with | some p'0 => (match p'0.kind with | PKind.value _ true => true | _ => false) | _ => false)) = true) := by
  refine ⟨?_, ?_, ?_, ?_⟩ <;> decide +kernel

/-- Obligations.Loads, its part PoisonReply: hypotheses met together. -/
theorem witness_PoisonReply :
    (decide ((me (sReply PKind.poisoned)).csr.sup = false) && (match (me (sReply PKind.poisoned)).pend with | some p'0 => decide (p'0.kind = PKind.poisoned) && true | _ => false)) = true := by
  decide +kernel

/-- Obligations.Stores, its part StoreWordIssues: hypotheses met together. -/
theorem witness_StoreWordIssues :
    ((guardOk (me sInt).ctl g1 = true) ∧ (BitVec.toNat (rd sInt (11 : Reg) + BitVec.signExtend 64 { ord := 0, scope := 3, sz := 0, off := 2047 : MemF }.off) % 2 ^ { ord := 0, scope := 3, sz := 0, off := 2047 : MemF }.sz.toNat = 0) ∧ (inWindow (me sInt) (rd sInt (11 : Reg) + BitVec.signExtend 64 { ord := 0, scope := 3, sz := 0, off := 2047 : MemF }.off) = true)) ∧
    ((decide (guardOk (me sInt).ctl g1 = true) && decide (BitVec.toNat (rd sInt (9 : Reg) + BitVec.signExtend 64 { ord := 2, scope := 3, sz := 3, off := 0 : MemF }.off) % 2 ^ { ord := 2, scope := 3, sz := 3, off := 0 : MemF }.sz.toNat = 0) && decide (inWindow (me sInt) (rd sInt (9 : Reg) + BitVec.signExtend 64 { ord := 2, scope := 3, sz := 3, off := 0 : MemF }.off) = false) && (match Machine.translate sInt (rd sInt (9 : Reg) + BitVec.signExtend 64 { ord := 2, scope := 3, sz := 3, off := 0 : MemF }.off) Acc.write Seq.control with | (Except.ok _, _) => true | _ => false)) = true) := by
  refine ⟨?_, ?_⟩ <;> decide +kernel

/-- Obligations.Stores, its part StoreServed: hypotheses met together. -/
theorem witness_StoreServed :
    ((decide (linesOk (sServe { id := 7, pa := 327742, kind := ReqKind.store [1, 2, 3, 4, 5] : Req }).ms = true) && (match List.find? (fun (x : Req) => x.id == (sServe { id := 7, pa := 327742, kind := ReqKind.store [1, 2, 3, 4, 5] : Req }).choice.n) (me (sServe { id := 7, pa := 327742, kind := ReqKind.store [1, 2, 3, 4, 5] : Req })).reqs with | some r'0 => decide (serviceable (sServe { id := 7, pa := 327742, kind := ReqKind.store [1, 2, 3, 4, 5] : Req }) r'0 = true) && decide (r'0.kind = ReqKind.store [1, 2, 3, 4, 5]) && decide (r'0.marks = []) && decide (r'0.side = []) && decide (List.Pairwise (fun (a b : ℕ × ℕ) => a.1 + a.2 ≤ b.1) r'0.holes) && decide (r'0.split (sServe { id := 7, pa := 327742, kind := ReqKind.store [1, 2, 3, 4, 5] : Req }).choice.k = none) && decide (r'0.spad = none) && decide (pa50 r'0.pa + [1, 2, 3, 4, 5].length ≤ 2 ^ 51) && true | _ => false)) = true) ∧
    (((match List.find? (fun (x : Req) => x.id == (sServe { id := 7, pa := 2097151, spad := some 0, kind := ReqKind.store [1] : Req }).choice.n) (me (sServe { id := 7, pa := 2097151, spad := some 0, kind := ReqKind.store [1] : Req })).reqs with | some r'0 => decide (serviceable (sServe { id := 7, pa := 2097151, spad := some 0, kind := ReqKind.store [1] : Req }) r'0 = true) && decide (r'0.kind = ReqKind.store [1]) && decide (r'0.marks = []) && decide (r'0.side = []) && decide (List.Pairwise (fun (a b : ℕ × ℕ) => a.1 + a.2 ≤ b.1) r'0.holes) && decide (r'0.split (sServe { id := 7, pa := 2097151, spad := some 0, kind := ReqKind.store [1] : Req }).choice.k = none) && decide (r'0.tag = false) && decide (r'0.pa + [1].length ≤ 2097152) && (match r'0.spad with | some n'1 => decide (n'1 < 288) && true | _ => false) | _ => false)) = true) := by
  refine ⟨?_, ?_⟩ <;> decide +kernel

/-- Obligations.Atomics, its part AtomicWordsIssue: hypotheses met together. -/
theorem witness_AtomicWordsIssue :
    (decide (guardOk (me sInt).ctl g1 = true) && decide (BitVec.toNat (rd sInt (8 : Reg) + BitVec.signExtend 64 { sz := 0, ord := 2, scope := 0, off := 0 : AtomF }.off) % 2 ^ { sz := 0, ord := 2, scope := 0, off := 0 : AtomF }.sz.toNat = 0) && decide (inWindow (me sInt) (rd sInt (8 : Reg) + BitVec.signExtend 64 { sz := 0, ord := 2, scope := 0, off := 0 : AtomF }.off) = false) && (match Machine.translate sInt (rd sInt (8 : Reg) + BitVec.signExtend 64 { sz := 0, ord := 2, scope := 0, off := 0 : AtomF }.off) Acc.atomic Seq.control with | (Except.ok _, _) => true | _ => false)) = true := by
  decide +kernel

/-- Obligations.Atomics, its part AtomicServed: hypotheses met together. -/
theorem witness_AtomicServed :
    ((decide (linesOk (sAtomic 327744 0 8 (20 : W64) (21 : W64)).ms = true) && (match List.find? (fun (x : Req) => x.id == (sAtomic 327744 0 8 (20 : W64) (21 : W64)).choice.n) (me (sAtomic 327744 0 8 (20 : W64) (21 : W64))).reqs with | some r'0 => decide (serviceable (sAtomic 327744 0 8 (20 : W64) (21 : W64)) r'0 = true) && decide (logRoom (sAtomic 327744 0 8 (20 : W64) (21 : W64)) r'0 = true) && decide (r'0.pa % 8 = 0) && decide (slicePoison (sAtomic 327744 0 8 (20 : W64) (21 : W64)).ms r'0.pa 8 = false) && decide ((List.range 8).all (fun i => decide ((sliceRead (sAtomic 327744 0 8 (20 : W64) (21 : W64)).ms (r'0.pa + i) 1).headD (0 : Byte) = BitVec.extractLsb' (8 * i) 8 (17935540185653809793 : W64))) = true) && (match (me (sAtomic 327744 0 8 (20 : W64) (21 : W64))).pend with | some p'1 => decide (p'1.kind = PKind.atomic r'0.id true) && ([(0, fun {n : ℕ} (x b x_1 : BitVec n) => x + b), (1, fun {n : ℕ} (x b x_1 : BitVec n) => if b.toInt < x.toInt then b else x), (2, fun {n : ℕ} (x b x_1 : BitVec n) => if x.toInt < b.toInt then b else x), (3, fun {n : ℕ} (x b x_1 : BitVec n) => if b.toNat < x.toNat then b else x), (4, fun {n : ℕ} (x b x_1 : BitVec n) => if x.toNat < b.toNat then b else x), (5, fun {n : ℕ} (x b x_1 : BitVec n) => x &&& b), (6, fun {n : ℕ} (x b x_1 : BitVec n) => x ||| b), (7, fun {n : ℕ} (x b x_1 : BitVec n) => x ^^^ b), (8, fun {n : ℕ} (x b x_1 : BitVec n) => b), (9, fun {n : ℕ} (x b c : BitVec n) => if x = c then b else x), (11, fun {n : ℕ} (x b c : BitVec n) => if x.toNat < c.toNat then x + b else x)]).any (fun e'2 => decide (r'0.kind = ReqKind.atomic e'2.1 8 (20 : W64) (21 : W64)) && true) | _ => false) | _ => false)) = true) ∧
    ((decide (linesOk (sAtomic 327748 9 4 (20 : W64) (21 : W64)).ms = true) && (match List.find? (fun (x : Req) => x.id == (sAtomic 327748 9 4 (20 : W64) (21 : W64)).choice.n) (me (sAtomic 327748 9 4 (20 : W64) (21 : W64))).reqs with | some r'0 => decide (serviceable (sAtomic 327748 9 4 (20 : W64) (21 : W64)) r'0 = true) && decide (logRoom (sAtomic 327748 9 4 (20 : W64) (21 : W64)) r'0 = true) && decide (r'0.pa % 4 = 0) && decide (slicePoison (sAtomic 327748 9 4 (20 : W64) (21 : W64)).ms r'0.pa 4 = false) && decide ((List.range 4).all (fun i => decide ((sliceRead (sAtomic 327748 9 4 (20 : W64) (21 : W64)).ms (r'0.pa + i) 1).headD (0 : Byte) = BitVec.extractLsb' (8 * i) 8 (4175943365 : W32))) = true) && (match (me (sAtomic 327748 9 4 (20 : W64) (21 : W64))).pend with | some p'1 => decide (p'1.kind = PKind.atomic r'0.id true) && ([(0, fun {n : ℕ} (x b x_1 : BitVec n) => x + b), (1, fun {n : ℕ} (x b x_1 : BitVec n) => if b.toInt < x.toInt then b else x), (2, fun {n : ℕ} (x b x_1 : BitVec n) => if x.toInt < b.toInt then b else x), (3, fun {n : ℕ} (x b x_1 : BitVec n) => if b.toNat < x.toNat then b else x), (4, fun {n : ℕ} (x b x_1 : BitVec n) => if x.toNat < b.toNat then b else x), (5, fun {n : ℕ} (x b x_1 : BitVec n) => x &&& b), (6, fun {n : ℕ} (x b x_1 : BitVec n) => x ||| b), (7, fun {n : ℕ} (x b x_1 : BitVec n) => x ^^^ b), (8, fun {n : ℕ} (x b x_1 : BitVec n) => b), (9, fun {n : ℕ} (x b c : BitVec n) => if x = c then b else x), (11, fun {n : ℕ} (x b c : BitVec n) => if x.toNat < c.toNat then x + b else x)]).any (fun e'5 => decide (r'0.kind = ReqKind.atomic e'5.1 4 (20 : W64) (21 : W64)) && true) | _ => false) | _ => false)) = true) ∧
    ((decide (linesOk (sAtomic 327748 10 4 (20 : W64) (21 : W64)).ms = true) && (match List.find? (fun (x : Req) => x.id == (sAtomic 327748 10 4 (20 : W64) (21 : W64)).choice.n) (me (sAtomic 327748 10 4 (20 : W64) (21 : W64))).reqs with | some r'0 => decide (serviceable (sAtomic 327748 10 4 (20 : W64) (21 : W64)) r'0 = true) && decide (logRoom (sAtomic 327748 10 4 (20 : W64) (21 : W64)) r'0 = true) && decide (r'0.pa % 4 = 0) && decide (slicePoison (sAtomic 327748 10 4 (20 : W64) (21 : W64)).ms r'0.pa 4 = false) && decide ((List.range 4).all (fun i => decide ((sliceRead (sAtomic 327748 10 4 (20 : W64) (21 : W64)).ms (r'0.pa + i) 1).headD (0 : Byte) = BitVec.extractLsb' (8 * i) 8 (4175943365 : W32))) = true) && decide (r'0.kind = ReqKind.atomic 10 4 (20 : W64) (21 : W64)) && (match (me (sAtomic 327748 10 4 (20 : W64) (21 : W64))).pend with | some p'1 => decide (p'1.kind = PKind.atomic r'0.id true) && true | _ => false) | _ => false)) = true) := by
  refine ⟨?_, ?_, ?_⟩ <;> decide +kernel

/-- Obligations.Stores, its part StoreServedInPart: hypotheses met together. -/
theorem witness_StoreServedInPart :
    (List.find? (fun (x : Req) => x.id == sServePart.choice.n) (me sServePart).reqs = some rPart) ∧ (serviceable sServePart rPart = true) ∧ (rPart.kind = ReqKind.store (List.map (BitVec.ofNat 8) (List.range 24))) ∧ (rPart.marks = []) ∧ (rPart.side = []) ∧ (rPart.holes = []) ∧ (rPart.spad = none) ∧ (0 < sServePart.choice.k) ∧ (sServePart.choice.k < (List.map (BitVec.ofNat 8) (List.range 24)).length) ∧ ((rPart.pa + sServePart.choice.k) % 32 = 0) ∧ (linesOk sServePart.ms = true) ∧ (pa50 rPart.pa + (List.map (BitVec.ofNat 8) (List.range 24)).length ≤ 2 ^ 51) := by
  decide +kernel

/-- Obligations.TaggedWords, its part TaggedWordsServed: hypotheses met together. -/
theorem witness_TaggedWordsServed :
    ((guardOk (me (sTag true)).ctl g1 = true) ∧ ((me (sTag true)).cwait = none) ∧ (gangAborted (sTag true) (me (sTag true)) = false) ∧ (inWindow (me (sTag true)) (rd (sTag true) (1 : Reg) + BitVec.signExtend 64 (8 : BitVec 12)) = true) ∧ (BitVec.toNat (rd (sTag true) (1 : Reg) + BitVec.signExtend 64 (8 : BitVec 12)) % 8 = 0) ∧ ((me (sTag true)).spad.waiters = []) ∧ ((2 : Reg) ≠ (4 : Reg)) ∧ (tagBlocked (sTag true) (8 * (BitVec.toNat (rd (sTag true) (1 : Reg) + BitVec.signExtend 64 (8 : BitVec 12) - spwinBase (me (sTag true))) / 8)) = false) ∧ (tblGet false (me (sTag true)).spad.poison (BitVec.toNat (rd (sTag true) (1 : Reg) + BitVec.signExtend 64 (8 : BitVec 12) - spwinBase (me (sTag true))) / 8) = false) ∧ (spTag (me (sTag true)) (BitVec.toNat (rd (sTag true) (1 : Reg) + BitVec.signExtend 64 (8 : BitVec 12) - spwinBase (me (sTag true))) / 8) = true)) ∧
    ((guardOk (me (sTag false)).ctl g1 = true) ∧ ((me (sTag false)).cwait = none) ∧ (gangAborted (sTag false) (me (sTag false)) = false) ∧ (inWindow (me (sTag false)) (rd (sTag false) (1 : Reg) + BitVec.signExtend 64 (8 : BitVec 12)) = true) ∧ (BitVec.toNat (rd (sTag false) (1 : Reg) + BitVec.signExtend 64 (8 : BitVec 12)) % 8 = 0) ∧ ((me (sTag false)).spad.waiters = []) ∧ (tagBlocked (sTag false) (8 * (BitVec.toNat (rd (sTag false) (1 : Reg) + BitVec.signExtend 64 (8 : BitVec 12) - spwinBase (me (sTag false))) / 8)) = false) ∧ (tblGet false (me (sTag false)).spad.poison (BitVec.toNat (rd (sTag false) (1 : Reg) + BitVec.signExtend 64 (8 : BitVec 12) - spwinBase (me (sTag false))) / 8) = false) ∧ (spTag (me (sTag false)) (BitVec.toNat (rd (sTag false) (1 : Reg) + BitVec.signExtend 64 (8 : BitVec 12) - spwinBase (me (sTag false))) / 8) = false)) := by
  refine ⟨?_, ?_⟩ <;> decide +kernel

/-- Obligations.TaggedWords, its part TaggedWordsThatNeverWait: hypotheses met together. -/
theorem witness_TaggedWordsThatNeverWait :
    ((guardOk (me (sTag true)).ctl g1 = true) ∧ (inWindow (me (sTag true)) (rd (sTag true) (1 : Reg) + BitVec.signExtend 64 (8 : BitVec 12)) = true) ∧ (BitVec.toNat (rd (sTag true) (1 : Reg) + BitVec.signExtend 64 (8 : BitVec 12)) % 8 = 0) ∧ ((me (sTag true)).spad.waiters = []) ∧ (tagBlocked (sTag true) (8 * (BitVec.toNat (rd (sTag true) (1 : Reg) + BitVec.signExtend 64 (8 : BitVec 12) - spwinBase (me (sTag true))) / 8)) = false)) ∧
    ((guardOk (me (sTag true)).ctl g1 = true) ∧ (inWindow (me (sTag true)) (rd (sTag true) (1 : Reg) + BitVec.signExtend 64 (8 : BitVec 12)) = true) ∧ (BitVec.toNat (rd (sTag true) (1 : Reg) + BitVec.signExtend 64 (8 : BitVec 12)) % 8 = 0) ∧ ((me (sTag true)).spad.waiters = []) ∧ ((2 : Reg) ≠ (4 : Reg)) ∧ (tagBlocked (sTag true) (8 * (BitVec.toNat (rd (sTag true) (1 : Reg) + BitVec.signExtend 64 (8 : BitVec 12) - spwinBase (me (sTag true))) / 8)) = false)) := by
  refine ⟨?_, ?_⟩ <;> decide +kernel

/-- Obligations.FencesAndWaits, its part FenceAndCountWaits: hypotheses met together. -/
theorem witness_FenceAndCountWaits :
    ((guardOk (me sInt).ctl g1 = true) ∧ ((me sInt).cwait = none) ∧ (gangAborted sInt (me sInt) = false) ∧ (controlIds (me sInt) = []) ∧ (true = true → allIds (me sInt) = []) ∧ (4 = 4 → ackIds sInt true = [] ∧ fenceDrains (wcFlushAll sInt) = [])) ∧
    ((guardOk (me sInt).ctl g1 = true) ∧ ((me sInt).cwait = none) ∧ (gangAborted sInt (me sInt) = false) ∧ (waitcCond (me sInt) 0 0 0 0 = true)) := by
  refine ⟨?_, ?_⟩ <;> decide +kernel

/-- Obligations.FencesAndWaits, its part WaitOutcomes: hypotheses met together. -/
theorem witness_WaitOutcomes :
    ((decide (guardOk (me (sWaitc 149 false false 16)).ctl g1 = true) && decide (gangAborted (sWaitc 149 false false 16) (me (sWaitc 149 false false 16)) = false) && decide (waitcCond (me (sWaitc 149 false false 16)) 7 0 7 7 = false) && (match (me (sWaitc 149 false false 16)).cwait with | some w'0 => decide (w'0.kind = WKind.waitc 7 0 7 7) && decide (w'0.e = false) && decide (BitVec.toNat ((me (sWaitc 149 false false 16)).ctc - w'0.t0) < w'0.dl ∨ w'0.poll = false ∧ (sWaitc 149 false false 16).closing = false) && true | _ => false)) = true) ∧
    ((decide (guardOk (me (sWaitc 100 true false 16)).ctl g1 = true) && decide (gangAborted (sWaitc 100 true false 16) (me (sWaitc 100 true false 16)) = false) && decide (waitcCond (me (sWaitc 100 true false 16)) 7 0 7 7 = false) && (match (me (sWaitc 100 true false 16)).cwait with | some w'0 => decide (w'0.kind = WKind.waitc 7 0 7 7) && decide (w'0.e = false) && decide (w'0.dl ≤ BitVec.toNat ((me (sWaitc 100 true false 16)).ctc - w'0.t0)) && decide (w'0.poll = true) && true | _ => false)) = true) ∧
    ((decide (guardOk (me (closeS (sWaitc 150 false false 16))).ctl g1 = true) && decide (gangAborted (closeS (sWaitc 150 false false 16)) (me (closeS (sWaitc 150 false false 16))) = false) && decide (waitcCond (me (closeS (sWaitc 150 false false 16))) 7 0 7 7 = false) && decide ((closeS (sWaitc 150 false false 16)).closing = true) && decide (false = false) && decide (escalates (me (closeS (sWaitc 150 false false 16))) = false) && (match (me (closeS (sWaitc 150 false false 16))).cwait with | some w'0 => decide (w'0.kind = WKind.waitc 7 0 7 7) && decide (w'0.e = false) && decide (w'0.dl ≤ BitVec.toNat ((me (closeS (sWaitc 150 false false 16))).ctc - w'0.t0)) && decide (w'0.poll = false) && true | _ => false)) = true) ∧
    ((decide (guardOk (me (closeS (sWaitc 150 false false 1))).ctl g1 = true) && decide (gangAborted (closeS (sWaitc 150 false false 1)) (me (closeS (sWaitc 150 false false 1))) = false) && decide (waitcCond (me (closeS (sWaitc 150 false false 1))) 7 0 7 7 = false) && decide ((closeS (sWaitc 150 false false 1)).closing = true) && decide (false = true ∨ escalates (me (closeS (sWaitc 150 false false 1))) = true) && decide ((me (closeS (sWaitc 150 false false 1))).csr.sup = false) && (match (me (closeS (sWaitc 150 false false 1))).cwait with | some w'0 => decide (w'0.kind = WKind.waitc 7 0 7 7) && decide (w'0.e = false) && decide (w'0.dl ≤ BitVec.toNat ((me (closeS (sWaitc 150 false false 1))).ctc - w'0.t0)) && decide (w'0.poll = false) && true | _ => false)) = true) := by
  refine ⟨?_, ?_, ?_, ?_⟩ <;> decide +kernel

/-- Obligations.BarrierWords: hypotheses met together. -/
theorem witness_BarrierWords :
    ((guardOk (me (sBar 1 { : BarLoc } { : BarObj } (0 : BitVec 3) (288 : W64))).ctl g1 = true) ∧ (bits (rd (sBar 1 { : BarLoc } { : BarObj } (0 : BitVec 3) (288 : W64)) (2 : Reg)) 63 19 = 0) ∧ (bits (rd (sBar 1 { : BarLoc } { : BarObj } (0 : BitVec 3) (288 : W64)) (2 : Reg)) 15 9 = 0) ∧ (bits (rd (sBar 1 { : BarLoc } { : BarObj } (0 : BitVec 3) (288 : W64)) (2 : Reg)) 18 16 ≤ 3) ∧ (0 < bits (rd (sBar 1 { : BarLoc } { : BarObj } (0 : BitVec 3) (288 : W64)) (2 : Reg)) 8 0) ∧ (bits (rd (sBar 1 { : BarLoc } { : BarObj } (0 : BitVec 3) (288 : W64)) (2 : Reg)) 8 0 ≤ 288) ∧ (barBusy (sBar 1 { : BarLoc } { : BarObj } (0 : BitVec 3) (288 : W64)) (barKey (sBar 1 { : BarLoc } { : BarObj } (0 : BitVec 3) (288 : W64)) (BitVec.toNat (17 : BitVec 10))) = false)) ∧
    ((decide (guardOk (me (sBar 1 { : BarLoc } { : BarObj } (0 : BitVec 3) (288 : W64))).ctl g1 = true) && decide (controlStores (me (sBar 1 { : BarLoc } { : BarObj } (0 : BitVec 3) (288 : W64))) = []) && (match barCfgOf (sBar 1 { : BarLoc } { : BarObj } (0 : BitVec 3) (288 : W64)) (BitVec.toNat (17 : BitVec 10)) with | some cfg'0 => decide (cfg'0.scope ≠ (4 : BitVec 3)) && decide ((barLoc (sBar 1 { : BarLoc } { : BarObj } (0 : BitVec 3) (288 : W64)) (BitVec.toNat (17 : BitVec 10))).arr = false ∨ (barLoc (sBar 1 { : BarLoc } { : BarObj } (0 : BitVec 3) (288 : W64)) (BitVec.toNat (17 : BitVec 10))).ph ≠ (barObj (sBar 1 { : BarLoc } { : BarObj } (0 : BitVec 3) (288 : W64)) (BitVec.toNat (17 : BitVec 10)) cfg'0).parity) && true | _ => false)) = true) ∧
    ((decide (guardOk (me (sBar 1 { : BarLoc } { : BarObj } (0 : BitVec 3) (288 : W64))).ctl g1 = true) && decide (controlStores (me (sBar 1 { : BarLoc } { : BarObj } (0 : BitVec 3) (288 : W64))) = []) && decide ((me (sBar 1 { : BarLoc } { : BarObj } (0 : BitVec 3) (288 : W64))).cwait = none) && decide (gangAborted (sBar 1 { : BarLoc } { : BarObj } (0 : BitVec 3) (288 : W64)) (me (sBar 1 { : BarLoc } { : BarObj } (0 : BitVec 3) (288 : W64))) = false) && (match barCfgOf (sBar 1 { : BarLoc } { : BarObj } (0 : BitVec 3) (288 : W64)) (BitVec.toNat (17 : BitVec 10)) with | some cfg'0 => decide (cfg'0.scope ≠ (4 : BitVec 3)) && decide ((barLoc (sBar 1 { : BarLoc } { : BarObj } (0 : BitVec 3) (288 : W64)) (BitVec.toNat (17 : BitVec 10))).arr = false ∨ (barLoc (sBar 1 { : BarLoc } { : BarObj } (0 : BitVec 3) (288 : W64)) (BitVec.toNat (17 : BitVec 10))).ph ≠ (barObj (sBar 1 { : BarLoc } { : BarObj } (0 : BitVec 3) (288 : W64)) (BitVec.toNat (17 : BitVec 10)) cfg'0).parity) && decide (cfg'0.count ≤ (barObj (sBar 1 { : BarLoc } { : BarObj } (0 : BitVec 3) (288 : W64)) (BitVec.toNat (17 : BitVec 10)) cfg'0).count + 1) && true | _ => false)) = true) ∧
    ((decide (guardOk (me (sBar 288 { arr := true : BarLoc } { count := 287, parity := true : BarObj } (2 : BitVec 3) (1 : W64))).ctl g1 = true) && decide ((barLoc (sBar 288 { arr := true : BarLoc } { count := 287, parity := true : BarObj } (2 : BitVec 3) (1 : W64)) (BitVec.toNat (17 : BitVec 10))).arr = true) && decide ((me (sBar 288 { arr := true : BarLoc } { count := 287, parity := true : BarObj } (2 : BitVec 3) (1 : W64))).cwait = none) && decide (gangAborted (sBar 288 { arr := true : BarLoc } { count := 287, parity := true : BarObj } (2 : BitVec 3) (1 : W64)) (me (sBar 288 { arr := true : BarLoc } { count := 287, parity := true : BarObj } (2 : BitVec 3) (1 : W64))) = false) && (match barCfgOf (sBar 288 { arr := true : BarLoc } { count := 287, parity := true : BarObj } (2 : BitVec 3) (1 : W64)) (BitVec.toNat (17 : BitVec 10)) with | some cfg'0 => decide ((barLoc (sBar 288 { arr := true : BarLoc } { count := 287, parity := true : BarObj } (2 : BitVec 3) (1 : W64)) (BitVec.toNat (17 : BitVec 10))).ph ≠ (barObj (sBar 288 { arr := true : BarLoc } { count := 287, parity := true : BarObj } (2 : BitVec 3) (1 : W64)) (BitVec.toNat (17 : BitVec 10)) cfg'0).parity) && true | _ => false)) = true) ∧
    ((decide (guardOk (me (sBar 288 { arr := true, ph := true : BarLoc } { count := 3, parity := true : BarObj } (2 : BitVec 3) (1 : W64))).ctl g1 = true) && decide ((barLoc (sBar 288 { arr := true, ph := true : BarLoc } { count := 3, parity := true : BarObj } (2 : BitVec 3) (1 : W64)) (BitVec.toNat (17 : BitVec 10))).arr = true) && (match barCfgOf (sBar 288 { arr := true, ph := true : BarLoc } { count := 3, parity := true : BarObj } (2 : BitVec 3) (1 : W64)) (BitVec.toNat (17 : BitVec 10)) with | some cfg'0 => decide ((barLoc (sBar 288 { arr := true, ph := true : BarLoc } { count := 3, parity := true : BarObj } (2 : BitVec 3) (1 : W64)) (BitVec.toNat (17 : BitVec 10))).ph = (barObj (sBar 288 { arr := true, ph := true : BarLoc } { count := 3, parity := true : BarObj } (2 : BitVec 3) (1 : W64)) (BitVec.toNat (17 : BitVec 10)) cfg'0).parity) && true | _ => false)) = true) := by
  refine ⟨?_, ?_, ?_, ?_, ?_⟩ <;> decide +kernel

/-- Obligations.SliceQueues, its part WordQueues: hypotheses met together. -/
theorem witness_WordQueues :
    ((decide (guardOk (me sInt).ctl g1 = true) && decide ((me sInt).cwait = none) && decide (gangAborted sInt (me sInt) = false) && (match queueAddr sInt (rd sInt (7 : Reg) + BitVec.signExtend 64 (0 : BitVec 12)) (if true = true then 8 else 4) with | (Except.ok x'1, s'0) => decide (linesOk s'0.ms = true) && decide (ownPending s'0 Seq.control { pa := x'1.pa, kind := ReqKind.store (zeros (if true = true then 8 else 4)) : Req } = false) && decide (slicePoison (sliceTouch s'0.ms x'1.pa (if true = true then 8 else 4)) x'1.pa (if true = true then 8 else 4) = false) && decide ((List.range 8).any (fun i => decide ((sliceRead s'0.ms (x'1.pa + i) 1).headD (0 : Byte) ≠ BitVec.extractLsb' (8 * i) 8 (rd sInt (3 : Reg)))) = true) && true | _ => false)) = true) ∧
    ((decide (guardOk (me sInt).ctl g1 = true) && decide ((me sInt).cwait = none) && decide (gangAborted sInt (me sInt) = false) && decide (0 < min (bits (rd sInt (6 : Reg)) 31 0) (BitVec.toNat (me sInt).csr.dlmax)) && decide ((me sInt).remain = none) && (match queueAddr sInt (rd sInt (7 : Reg) + BitVec.signExtend 64 (0 : BitVec 12)) (if true = true then 8 else 4) with | (Except.ok x'1, s'0) => decide (linesOk s'0.ms = true) && decide (ownPending s'0 Seq.control { pa := x'1.pa, kind := ReqKind.store (zeros (if true = true then 8 else 4)) : Req } = false) && decide (slicePoison (sliceTouch s'0.ms x'1.pa (if true = true then 8 else 4)) x'1.pa (if true = true then 8 else 4) = false) && decide ((List.range 8).all (fun i => decide ((sliceRead s'0.ms (x'1.pa + i) 1).headD (0 : Byte) = BitVec.extractLsb' (8 * i) 8 (rd sInt (0 : Reg)))) = true) && true | _ => false)) = true) ∧
    ((decide (guardOk (me sInt).ctl g1 = true) && decide (controlStores (me sInt) = []) && decide ((0 : BitVec 3) ≠ (4 : BitVec 3)) && (match queueAddr sInt (rd sInt (7 : Reg) + BitVec.signExtend 64 (0 : BitVec 12)) (if true = true then 8 else 4) with | (Except.ok _, s'0) => decide (linesOk s'0.ms = true) && true | _ => false)) = true) := by
  refine ⟨?_, ?_, ?_⟩ <;> decide +kernel

/-- Obligations.SliceQueues, its part MessageQueues: hypotheses met together. -/
theorem witness_MessageQueues :
    ((decide (guardOk (me (sQ (qmem 7 10) [(1, (65536 : W64)), (2, (9 : W64))])).ctl g1 = true) && decide ((me (sQ (qmem 7 10) [(1, (65536 : W64)), (2, (9 : W64))])).cwait = none) && decide (gangAborted (sQ (qmem 7 10) [(1, (65536 : W64)), (2, (9 : W64))]) (me (sQ (qmem 7 10) [(1, (65536 : W64)), (2, (9 : W64))])) = false) && decide (controlStores (me (sQ (qmem 7 10) [(1, (65536 : W64)), (2, (9 : W64))])) = []) && decide ((0 : BitVec 3) ≠ (4 : BitVec 3)) && (match queueAddr (sQ (qmem 7 10) [(1, (65536 : W64)), (2, (9 : W64))]) (rd (sQ (qmem 7 10) [(1, (65536 : W64)), (2, (9 : W64))]) (1 : Reg) + BitVec.signExtend 64 (0 : BitVec 12)) 64 with | (Except.ok x'1, s'0) => decide (ownPending s'0 Seq.control { pa := x'1.pa, kind := ReqKind.store (zeros 64) : Req } = false) && decide (linesOk s'0.ms = true) && decide (slicePoison (sliceTouch s'0.ms x'1.pa 64) x'1.pa 64 = false) && decide (tblGet [] (sQ (qmem 7 10) [(1, (65536 : W64)), (2, (9 : W64))]).sendq (pa50 x'1.pa) = []) && decide (qMalformed x'1.pa (List.map (fun (i : ℕ) => (sliceRead s'0.ms (x'1.pa + i) 1).headD (0 : Byte)) (List.range 64)) = false) && decide (0 < qCap (List.map (fun (i : ℕ) => (sliceRead s'0.ms (x'1.pa + i) 1).headD (0 : Byte)) (List.range 64))) && decide (BitVec.toNat (qTail (List.map (fun (i : ℕ) => (sliceRead s'0.ms (x'1.pa + i) 1).headD (0 : Byte)) (List.range 64)) - qHead (List.map (fun (i : ℕ) => (sliceRead s'0.ms (x'1.pa + i) 1).headD (0 : Byte)) (List.range 64))) < qCap (List.map (fun (i : ℕ) => (sliceRead s'0.ms (x'1.pa + i) 1).headD (0 : Byte)) (List.range 64))) && true | _ => false)) = true) ∧
    ((decide (guardOk (me (sQ (qmem 7 10) [(1, (65536 : W64)), (2, (9 : W64))])).ctl g1 = true) && decide ((me (sQ (qmem 7 10) [(1, (65536 : W64)), (2, (9 : W64))])).cwait = none) && decide (gangAborted (sQ (qmem 7 10) [(1, (65536 : W64)), (2, (9 : W64))]) (me (sQ (qmem 7 10) [(1, (65536 : W64)), (2, (9 : W64))])) = false) && decide ((3 : Reg) ≠ (2 : Reg)) && (match queueAddr (sQ (qmem 7 10) [(1, (65536 : W64)), (2, (9 : W64))]) (rd (sQ (qmem 7 10) [(1, (65536 : W64)), (2, (9 : W64))]) (1 : Reg) + BitVec.signExtend 64 (0 : BitVec 12)) 64 with | (Except.ok x'1, s'0) => decide (ownPending s'0 Seq.control { pa := x'1.pa, kind := ReqKind.store (zeros 64) : Req } = false) && decide (linesOk s'0.ms = true) && decide (slicePoison (sliceTouch s'0.ms x'1.pa 64) x'1.pa 64 = false) && decide (tblGet [] (sQ (qmem 7 10) [(1, (65536 : W64)), (2, (9 : W64))]).recvq (pa50 x'1.pa) = []) && decide (qMalformed x'1.pa (List.map (fun (i : ℕ) => (sliceRead s'0.ms (x'1.pa + i) 1).headD (0 : Byte)) (List.range 64)) = false) && decide (0 < qCap (List.map (fun (i : ℕ) => (sliceRead s'0.ms (x'1.pa + i) 1).headD (0 : Byte)) (List.range 64))) && decide (BitVec.toNat (qHead (List.map (fun (i : ℕ) => (sliceRead s'0.ms (x'1.pa + i) 1).headD (0 : Byte)) (List.range 64))) < BitVec.toNat (qTail (List.map (fun (i : ℕ) => (sliceRead s'0.ms (x'1.pa + i) 1).headD (0 : Byte)) (List.range 64)))) && decide (slicePoison (sliceTouch s'0.ms x'1.pa 64) (qSlot x'1.pa (List.map (fun (i : ℕ) => (sliceRead s'0.ms (x'1.pa + i) 1).headD (0 : Byte)) (List.range 64)) (qHead (List.map (fun (i : ℕ) => (sliceRead s'0.ms (x'1.pa + i) 1).headD (0 : Byte)) (List.range 64)))) 8 = false) && true | _ => false)) = true) := by
  refine ⟨?_, ?_⟩ <;> decide +kernel

/-- Obligations.EventCounters, its part EventCounterWords: hypotheses met together. -/
theorem witness_EventCounterWords_part1 :
    ((guardOk (me (sFlag 5 7 0)).ctl g1 = true) ∧ (bits (rd (sFlag 5 7 0) (2 : Reg)) 31 0 = 0) ∧ ((me (sFlag 5 7 0)).cwait = none)) ∧
    ((guardOk (me (sFlag 5 7 5)).ctl g1 = true) ∧ (0 < bits (rd (sFlag 5 7 5) (2 : Reg)) 31 0) ∧ (bits (rd (sFlag 5 7 5) (2 : Reg)) 31 0 ≤ BitVec.toNat (flagP (me (sFlag 5 7 5)) 63)) ∧ (bits (rd (sFlag 5 7 5) (2 : Reg)) 31 0 ≤ BitVec.toNat (flagV (me (sFlag 5 7 5)) 63)) ∧ (flagBad (me (sFlag 5 7 5)) 63 = false) ∧ ((me (sFlag 5 7 5)).cwait = none) ∧ (gangAborted (sFlag 5 7 5) (me (sFlag 5 7 5)) = false)) ∧
    ((guardOk (me (sFlag 5 7 8)).ctl g1 = true) ∧ (BitVec.toNat (flagP (me (sFlag 5 7 8)) 63) < bits (rd (sFlag 5 7 8) (2 : Reg)) 31 0) ∧ (flagBad (me (sFlag 5 7 8)) 63 = false) ∧ ((me (sFlag 5 7 8)).cwait = none) ∧ ((me (sFlag 5 7 8)).csr.sup = false)) ∧
    ((guardOk (me (sFlag 5 7 0)).ctl g1 = true) ∧ (BitVec.toNat (flagP (me (sFlag 5 7 0)) 63) + bits (rd (sFlag 5 7 0) (2 : Reg)) 31 0 ≤ 4294967295) ∧ (flagBad (me (sFlag 5 7 0)) 63 = false) ∧ (controlStores (me (sFlag 5 7 0)) = [])) ∧
    ((guardOk (me (sFlag 4294967295 4294967295 1)).ctl g1 = true) ∧ (4294967295 < BitVec.toNat (flagP (me (sFlag 4294967295 4294967295 1)) 63) + bits (rd (sFlag 4294967295 4294967295 1) (2 : Reg)) 31 0) ∧ (flagBad (me (sFlag 4294967295 4294967295 1)) 63 = false) ∧ ((me (sFlag 4294967295 4294967295 1)).csr.sup = false)) ∧
    ((guardOk (me sFlagBad).ctl g1 = true) ∧ (flagBad (me sFlagBad) 63 = true) ∧ ((me sFlagBad).csr.sup = false)) := by
  refine ⟨?_, ?_, ?_, ?_, ?_, ?_⟩ <;> decide +kernel

/-- Obligations.EventCounters, its part EventCounterWords: hypotheses met together. -/
theorem witness_EventCounterWords_part2 :
    (guardOk (me sFlagBad).ctl g1 = true) ∧ (flagBad (me sFlagBad) 63 = true) ∧ ((me sFlagBad).csr.sup = false) ∧ (0 < bits (rd sFlagBad (2 : Reg)) 31 0) ∧ ((me sFlagBad).cwait = none) := by
  decide +kernel

/-- Obligations.EventCounters, its part CrossbarRules: hypotheses met together. -/
theorem witness_CrossbarRules_1 :
    ((decide (guardOk (me (sRule [] { : Rule })).ctl g1 = true) && decide (BitVec.toNat (rd (sRule [] { : Rule }) (1 : Reg) + BitVec.signExtend 64 (32 : BitVec 12)) % 32 = 0) && decide ((ruleOf (me (sRule [] { : Rule })) (BitVec.toNat (3 : BitVec 4))).armed = false) && (match plainRead Seq.control 4 (sRule [] { : Rule }) (rd (sRule [] { : Rule }) (1 : Reg) + BitVec.signExtend 64 (32 : BitVec 12)) with | (PRead.ok bs'1, _) => decide (ruleBad bs'1 = false) && decide ((ruleFrom bs'1).armed = false) && true | _ => false)) = true) ∧
    ((decide (guardOk (me (sRule ruleMem ruleA)).ctl g1 = true) && decide (BitVec.toNat (rd (sRule ruleMem ruleA) (1 : Reg) + BitVec.signExtend 64 (32 : BitVec 12)) % 32 = 0) && decide ((ruleOf (me (sRule ruleMem ruleA)) (BitVec.toNat (3 : BitVec 4))).armed = true) && (match plainRead Seq.control 4 (sRule ruleMem ruleA) (rd (sRule ruleMem ruleA) (1 : Reg) + BitVec.signExtend 64 (32 : BitVec 12)) with | (PRead.ok bs'1, _) => decide (ruleBad bs'1 = false) && decide ((ruleFrom bs'1).armed = true) && true | _ => false)) = true) ∧
    ((decide (guardOk (me (sRule ruleMem { : Rule })).ctl g1 = true) && decide (BitVec.toNat (rd (sRule ruleMem { : Rule }) (1 : Reg) + BitVec.signExtend 64 (32 : BitVec 12)) % 32 = 0) && decide ((ruleOf (me (sRule ruleMem { : Rule })) (BitVec.toNat (3 : BitVec 4))).armed = false) && (match plainRead Seq.control 4 (sRule ruleMem { : Rule }) (rd (sRule ruleMem { : Rule }) (1 : Reg) + BitVec.signExtend 64 (32 : BitVec 12)) with | (PRead.ok bs'1, s'0) => decide (ruleBad bs'1 = false) && decide ((ruleFrom bs'1).armed = true) && (match segEnt (me (sRule ruleMem { : Rule })) (ruleFrom bs'1).engine.toNat (ruleFrom bs'1).seg with | some x'2 => (match claimAll (termFlags (ruleFrom bs'1) 0 ++ flagsOf x'2.waits) (me s'0) with | Except.ok c1'3 => (match promiseAll (flagsOf x'2.sets) c1'3 with | Except.ok _ => true | _ => false) | _ => false) | _ => false) | _ => false)) = true) := by
  refine ⟨?_, ?_, ?_⟩ <;> decide +kernel

/-- Obligations.EventCounters, its part CrossbarRules: hypotheses met together. -/
theorem witness_CrossbarRules_2 :
    (((me sRuleStop).run.dstop = true)) ∧
    (((ruleOf (me (sRule [] ruleA)) ((sRule [] ruleA).choice.n % 16)).armed = true) ∧ (contextOn (me (sRule [] ruleA)) = true) ∧ ((me (sRule [] ruleA)).run.dstop = false) ∧ (1 < 4) ∧ (termHolds (me (sRule [] ruleA)) (ruleOf (me (sRule [] ruleA)) ((sRule [] ruleA).choice.n % 16)) 1 = true) ∧ ((List.range 1).all (fun j => decide (termHolds (me (sRule [] ruleA)) (ruleOf (me (sRule [] ruleA)) ((sRule [] ruleA).choice.n % 16)) j = false)) = true) ∧ ((termFlags (ruleOf (me (sRule [] ruleA)) ((sRule [] ruleA).choice.n % 16)) 1).Nodup) ∧ (1 ≠ 0 → (termFlags (ruleOf (me (sRule [] ruleA)) ((sRule [] ruleA).choice.n % 16)) 0).Nodup ∧ ∀ f ∈ termFlags (ruleOf (me (sRule [] ruleA)) ((sRule [] ruleA).choice.n % 16)) 0, flagBad (me (sRule [] ruleA)) f = false ∧ BitVec.toNat (flagP (me (sRule [] ruleA)) f) < 4294967295) ∧ ((queueOf (me (sRule [] ruleA)) (engNo (ruleOf (me (sRule [] ruleA)) ((sRule [] ruleA).choice.n % 16)).engine.toNat)).length + reservedFor (me (sRule [] ruleA)) (ruleOf (me (sRule [] ruleA)) ((sRule [] ruleA).choice.n % 16)).engine.toNat < 32)) := by
  refine ⟨?_, ?_⟩ <;> decide +kernel

/-- Obligations.EngineQueues, its part EnginePushes: hypotheses met together. -/
theorem witness_EnginePushes :
    ((decide (guardOk (me (sFork 0)).ctl g1 = true) && decide ((me (sFork 0)).cwait = none) && decide (gangAborted (sFork 0) (me (sFork 0)) = false) && decide (BitVec.toNat (rd (sFork 0) (1 : Reg)) % 8 = 0) && (match plainRead Seq.control 4 (sFork 0) (rd (sFork 0) (1 : Reg)) with | (PRead.ok rb'3, s'0) => decide (controlStores (me s'0) = []) && (match runCmds (me s'0) (curWord s'0) 7 rb'3 with | Except.ok cmds'1 => decide (pushRoom (me s'0) cmds'1 = true) && (match chargeAll cmds'1 (me s'0) with | Except.ok _ => true | _ => false) | _ => false) | _ => false)) = true) ∧
    ((decide (guardOk (me (sFork 0)).ctl g1 = true) && decide ((me (sFork 0)).cwait = none) && decide (gangAborted (sFork 0) (me (sFork 0)) = false) && decide (BitVec.toNat (rd (sFork 0) (1 : Reg)) % 8 = 0) && decide (epushBad (rd (sFork 0) (2 : Reg)) = false) && decide (bits (rd (sFork 0) (2 : Reg)) 1 0 = 0) && (match plainRead Seq.control 4 (sFork 0) (rd (sFork 0) (1 : Reg)) with | (PRead.ok rb'4, s'0) => decide (controlStores (me s'0) = []) && (match runCmds (me s'0) (curWord s'0) 7 rb'4 with | Except.ok cmds'1 => decide (pushRoom (me s'0) cmds'1 = true) && (match chargeAll cmds'1 (me s'0) with | Except.ok _ => true | _ => false) | _ => false) | _ => false)) = true) ∧
    ((decide (guardOk (me (sFork 257)).ctl g1 = true) && decide ((me (sFork 257)).cwait = none) && decide (gangAborted (sFork 257) (me (sFork 257)) = false) && decide (rd (sFork 257) (2 : Reg) = BitVec.setWidth 64 (BitVec.ofNat 6 1) * 256 + 1) && decide (pushRoom (me (sFork 257)) (eachEngine 5 (Cmd.setf (BitVec.ofNat 6 1))) = true) && decide (controlStores (me (sFork 257)) = []) && (match chargeAll (eachEngine 5 (Cmd.setf (BitVec.ofNat 6 1))) (me (sFork 257)) with | Except.ok _ => true | _ => false)) = true) ∧
    ((decide (guardOk (me (sFork 258)).ctl g1 = true) && decide ((me (sFork 258)).cwait = none) && decide (gangAborted (sFork 258) (me (sFork 258)) = false) && decide (rd (sFork 258) (2 : Reg) = BitVec.setWidth 64 (BitVec.ofNat 6 1) * 256 + 2) && decide (pushRoom (me (sFork 258)) (eachEngine 5 (Cmd.waitf (BitVec.ofNat 6 1) (flagP (me (sFork 258)) (BitVec.ofNat 6 1)))) = true) && decide (controlStores (me (sFork 258)) = []) && (match chargeAll (eachEngine 5 (Cmd.waitf (BitVec.ofNat 6 1) (flagP (me (sFork 258)) (BitVec.ofNat 6 1)))) (me (sFork 258)) with | Except.ok _ => true | _ => false)) = true) := by
  refine ⟨?_, ?_, ?_, ?_⟩ <;> decide +kernel

/-- Obligations.EngineQueues, its part JoinWord: hypotheses met together. -/
theorem witness_JoinWord :
    ((guardOk (me (sJoin EngSt.stopped EngSt.stopped)).ctl g1 = true) ∧ ((me (sJoin EngSt.stopped EngSt.stopped)).cwait = none) ∧ (gangAborted (sJoin EngSt.stopped EngSt.stopped) (me (sJoin EngSt.stopped EngSt.stopped)) = false) ∧ (groupById (me (sJoin EngSt.stopped EngSt.stopped)) 6 = none)) ∧
    ((decide (guardOk (me (sJoin EngSt.stopped EngSt.stopped)).ctl g1 = true) && decide ((me (sJoin EngSt.stopped EngSt.stopped)).cwait = none) && decide (gangAborted (sJoin EngSt.stopped EngSt.stopped) (me (sJoin EngSt.stopped EngSt.stopped)) = false) && (match groupById (me (sJoin EngSt.stopped EngSt.stopped)) 5 with | some x'0 => decide (∀ m ∈ x'0.members, m.sq ≠ Seq.control) && decide (joinCond (me (sJoin EngSt.stopped EngSt.stopped)) x'0.num 5 = true) && true | _ => false)) = true) := by
  refine ⟨?_, ?_⟩ <;> decide +kernel

/-- Obligations.EngineQueues, its part EngineCommands: hypotheses met together. -/
theorem witness_EngineCommands :
    ((decide (mayDequeue (sEng Seq.copy [Cmd.run 36864 8 (some 2053)]) (sEng Seq.copy [Cmd.run 36864 8 (some 2053)]).choice.sq = true) && (match queueOf (me (sEng Seq.copy [Cmd.run 36864 8 (some 2053)])) (sEng Seq.copy [Cmd.run 36864 8 (some 2053)]).choice.sq with | Cmd.run _ _ _ :: _ => true | _ => false)) = true) ∧
    ((decide (mayDequeue (sEng Seq.vector [Cmd.setf 7, Cmd.setf 8]) (sEng Seq.vector [Cmd.setf 7, Cmd.setf 8]).choice.sq = true) && (match queueOf (me (sEng Seq.vector [Cmd.setf 7, Cmd.setf 8])) (sEng Seq.vector [Cmd.setf 7, Cmd.setf 8]).choice.sq with | Cmd.setf fl'4 :: _ => decide (flagBad (me (sEng Seq.vector [Cmd.setf 7, Cmd.setf 8])) fl'4 = false) && true | _ => false)) = true) ∧
    ((decide (mayDequeue (sEng Seq.matrix [Cmd.waitf 8 1]) (sEng Seq.matrix [Cmd.waitf 8 1]).choice.sq = true) && decide (gangAborted (sEng Seq.matrix [Cmd.waitf 8 1]) (me (sEng Seq.matrix [Cmd.waitf 8 1])) = false) && (match queueOf (me (sEng Seq.matrix [Cmd.waitf 8 1])) (sEng Seq.matrix [Cmd.waitf 8 1]).choice.sq with | Cmd.waitf fl'6 _ :: _ => decide (flagBad (me (sEng Seq.matrix [Cmd.waitf 8 1])) fl'6 = false) && decide (1 ≤ BitVec.toNat (flagV (me (sEng Seq.matrix [Cmd.waitf 8 1])) fl'6)) && true | _ => false)) = true) := by
  refine ⟨?_, ?_, ?_⟩ <;> decide +kernel

/-- Obligations.EngineQueues, its part FlagCommandExpiry: hypotheses met together. -/
theorem witness_FlagCommandExpiry :
    (((sWaitfLate Seq.vector).choice.sq ≠ Seq.control) ∧ (engineRuns (me (sWaitfLate Seq.vector)) = true) ∧ ((engOf (me (sWaitfLate Seq.vector)) (sWaitfLate Seq.vector).choice.sq).st = EngSt.waitf 9) ∧ ((engOf (me (sWaitfLate Seq.vector)) (sWaitfLate Seq.vector).choice.sq).wait = some (10, 50)) ∧ (0 < 50) ∧ (50 ≤ BitVec.toNat ((me (sWaitfLate Seq.vector)).ctc - 10)) ∧ (BitVec.toNat (flagV (me (sWaitfLate Seq.vector)) 9) = 0) ∧ (flagBad (me (sWaitfLate Seq.vector)) 9 = false) ∧ (gangAborted (sWaitfLate Seq.vector) (me (sWaitfLate Seq.vector)) = false) ∧ (escalates (me (sWaitfLate Seq.vector)) = false) ∧ (BitVec.toNat (flagP (me (sWaitfLate Seq.vector)) 9) < 4294967295)) ∧
    ((sWaitfFull.choice.sq ≠ Seq.control) ∧ (engineRuns (me sWaitfFull) = true) ∧ ((engOf (me sWaitfFull) sWaitfFull.choice.sq).st = EngSt.waitf 9) ∧ ((engOf (me sWaitfFull) sWaitfFull.choice.sq).wait = some (10, 50)) ∧ (0 < 50) ∧ (50 ≤ BitVec.toNat ((me sWaitfFull).ctc - 10)) ∧ (BitVec.toNat (flagV (me sWaitfFull) 9) = 0) ∧ (flagBad (me sWaitfFull) 9 = false) ∧ (gangAborted sWaitfFull (me sWaitfFull) = false) ∧ (escalates (me sWaitfFull) = false) ∧ (BitVec.toNat (flagP (me sWaitfFull) 9) = 4294967295) ∧ ((me sWaitfFull).csr.sup = false) ∧ ((me sWaitfFull).pend = none)) := by
  refine ⟨?_, ?_⟩ <;> decide +kernel

/-- Obligations.EntryAndHalt, its part HaltWord: hypotheses met together. -/
theorem witness_HaltWord :
    ((decide (guardOk (me (sHalt false)).ctl g1 = true) && decide (∀ e ∈ [(0, Seq.copy), (1, Seq.matrix), (2, Seq.vector)], queueOf (me (sHalt false)) e.2 = [] ∧ (engOf (me (sHalt false)) e.2).st = EngSt.idle) && decide (classesZero (me (sHalt false)) = true) && (match tblGet none (sHalt false).launches (me (sHalt false)).run.inst.launch with | some l'0 => (match l'0.nodes[(me (sHalt false)).run.inst.node]? with | some _ => true | _ => false) | _ => false)) = true) ∧
    ((decide (guardOk (me (sHalt true)).ctl g1 = true) && decide (∀ e ∈ [(0, Seq.copy), (1, Seq.matrix), (2, Seq.vector)], queueOf (me (sHalt true)) e.2 = [] ∧ (engOf (me (sHalt true)) e.2).st = EngSt.idle) && decide (classesZero (me (sHalt true)) = false) && (match tblGet none (sHalt true).launches (me (sHalt true)).run.inst.launch with | some l'0 => (match l'0.nodes[(me (sHalt true)).run.inst.node]? with | some _ => true | _ => false) | _ => false)) = true) := by
  refine ⟨?_, ?_⟩ <;> decide +kernel

/-- Obligations.Streams, its part StreamBinding: hypotheses met together. -/
theorem witness_StreamBinding :
    ((guardOk (me (sStrm 4)).ctl g1 = true) ∧ ((me (sStrm 4)).cwait = none) ∧ (gangAborted (sStrm 4) (me (sStrm 4)) = false) ∧ (cleanThen (sStrm 4) [(6 : BitVec 6)] (checkBind (sStrm 4) (curWord (sStrm 4)) (BitVec.toNat (6 : BitVec 6))) = Except.ok ()) ∧ (strmCount (unbindStrm (me (sStrm 4)) (BitVec.toNat (3 : BitVec 4))) (1 : BitVec 2) < 4)) ∧
    ((decide (guardOk (me (sStrm 4)).ctl g1 = true) && (match strmAt (me (sStrm 4)) (BitVec.toNat (3 : BitVec 4)) with | some _ => true | _ => false)) = true) ∧
    ((guardOk (me (sStrm 4)).ctl g1 = true) ∧ (strmAt (me (sStrm 4)) (BitVec.toNat (15 : BitVec 4)) = none)) := by
  refine ⟨?_, ?_, ?_⟩ <;> decide +kernel

/-- Obligations.TensorHomeWords: hypotheses met together. -/
theorem witness_TensorHomeWords :
    ((decide (guardOk (me (sHome 2 3)).ctl g1 = true) && decide (BitVec.toNat (rd (sHome 2 3) (2 : Reg)) ≤ 3) && decide (tierPresent (sHome 2 3) (BitVec.toNat (rd (sHome 2 3) (2 : Reg))) = true) && (match ownTht (sHome 2 3) (ctxOf (sHome 2 3)) (BitVec.setWidth 32 (rd (sHome 2 3) (1 : Reg))) with | some t'0 => decide (t'0.ms = 0) && decide (t'0.old < BitVec.toNat (rd (sHome 2 3) (2 : Reg))) && (match reserved (sHome 2 3) t'0.ctx t'0.npages (BitVec.toNat (rd (sHome 2 3) (2 : Reg))) t'0.enc t'0.stack (sHome 2 3).choice.list with | some _ => true | _ => false) | _ => false)) = true) ∧
    ((decide (guardOk (me (sHome 2 1)).ctl g1 = true) && decide (BitVec.toNat (rd (sHome 2 1) (2 : Reg)) ≤ 3) && decide (tierPresent (sHome 2 1) (BitVec.toNat (rd (sHome 2 1) (2 : Reg))) = true) && (match ownTht (sHome 2 1) (ctxOf (sHome 2 1)) (BitVec.setWidth 32 (rd (sHome 2 1) (1 : Reg))) with | some t'0 => decide (t'0.ms = 0) && decide (BitVec.toNat (rd (sHome 2 1) (2 : Reg)) < t'0.old) && (match reserved (sHome 2 1) t'0.ctx t'0.npages (BitVec.toNat (rd (sHome 2 1) (2 : Reg))) t'0.enc t'0.stack (sHome 2 1).choice.list with | some _ => true | _ => false) | _ => false)) = true) ∧
    ((decide (guardOk (me (sHome 2 2)).ctl g1 = true) && decide (BitVec.toNat (rd (sHome 2 2) (2 : Reg)) ≤ 3) && decide (tierPresent (sHome 2 2) (BitVec.toNat (rd (sHome 2 2) (2 : Reg))) = true) && (match ownTht (sHome 2 2) (ctxOf (sHome 2 2)) (BitVec.setWidth 32 (rd (sHome 2 2) (1 : Reg))) with | some t'0 => decide (t'0.ms = 0) && decide (BitVec.toNat (rd (sHome 2 2) (2 : Reg)) = t'0.old) && true | _ => false)) = true) ∧
    ((decide (guardOk (me (sHome 2 1)).ctl g1 = true) && decide (BitVec.toNat (rd (sHome 2 1) (2 : Reg)) ≤ 3) && decide (tierPresent (sHome 2 1) (BitVec.toNat (rd (sHome 2 1) (2 : Reg))) = true) && (match ownTht (sHome 2 1) (ctxOf (sHome 2 1)) (BitVec.setWidth 32 (rd (sHome 2 1) (1 : Reg))) with | some t'0 => decide (t'0.ms = 0) && decide (BitVec.toNat (rd (sHome 2 1) (2 : Reg)) < t'0.old) && true | _ => false)) = true) ∧
    ((decide (guardOk (me (sHome 2 3)).ctl g1 = true) && (match ownTht (sHome 2 3) (ctxOf (sHome 2 3)) (BitVec.setWidth 32 (rd (sHome 2 3) (1 : Reg))) with | some _ => true | _ => false)) = true) := by
  refine ⟨?_, ?_, ?_, ?_, ?_⟩ <;> decide +kernel

/-- Obligations.Launches, its part SpawnWord: hypotheses met together. -/
theorem witness_SpawnWord :
    ((guardOk (me (sSpawn 256 0)).ctl g1 = true) ∧ (BitVec.toNat (rd (sSpawn 256 0) (1 : Reg)) % 64 = 0) ∧ (controlStores (me (sSpawn 256 0)) = []) ∧ (256 ≤ (sSpawn 256 0).lqueue.length)) ∧
    ((guardOk (me (sSpawn 255 0)).ctl g1 = true) ∧ (BitVec.toNat (rd (sSpawn 255 0) (1 : Reg)) % 64 = 0) ∧ (controlStores (me (sSpawn 255 0)) = []) ∧ ((sSpawn 255 0).lqueue.length < 256)) := by
  refine ⟨?_, ?_⟩ <;> decide +kernel

/-- Obligations.Csrs, its part CsrWords: hypotheses met together. -/
theorem witness_CsrWords :
    ((decide (guardOk (me (sCsr true (18446744073709551615 : W64))).ctl g1 = true) && ([(0, fun (s : State) => ((BitVec.setWidth 64 (me s).csr.tocnt * (65536 : W64) + if (me s).csr.dbgp = true then (256 : W64) else (0 : W64)) + if (me s).csr.lqto = true then (4 : W64) else (0 : W64)) + if (me s).csr.sup = true then (1 : W64) else (0 : W64)), (2, fun (s : State) => (me s).csr.cause), (3, fun (s : State) => (me s).csr.epc), (4, fun (s : State) => BitVec.setWidth 64 (me s).csr.dlmax), (5, fun (s : State) => BitVec.setWidth 64 (me s).csr.toesc), (6, fun (s : State) => BitVec.setWidth 64 (me s).csr.maxred), (7, fun (s : State) => BitVec.setWidth 64 (me s).csr.spwin * (2097152 : W64)), (16, fun (s : State) => (me s).csr.tseg), (17, fun (s : State) => (me s).csr.tpos), (18, fun (s : State) => (me s).csr.tval), (19, fun (s : State) => (me s).csr.tvec), (20, fun (s : State) => BitVec.setWidth 64 (me s).csr.tctl), (256, fun (s : State) => BitVec.setWidth 64 (me s).csr.mpace), (257, fun (s : State) => BitVec.setWidth 64 (me s).csr.vpace), (258, fun (s : State) => BitVec.setWidth 64 (me s).csr.xpace), (259, fun (s : State) => (me s).csr.estat), (512, fun (s : State) => (me s).csr2.ptroot), (513, fun (s : State) => (me s).csr2.xfaddr), (514, fun (s : State) => BitVec.setWidth 64 (me s).csr2.xfinfo), (768, fun (s : State) => BitVec.setWidth 64 (me s).csr2.rrdepth), (770, fun (s : State) => (me s).csr2.rttbase), (771, fun (s : State) => BitVec.setWidth 64 (me s).csr2.rttsz), (1025, fun (s : State) => (me s).csrd.bcbase), (1027, fun (s : State) => (me s).csrd.bccnt), (1280, fun (s : State) => BitVec.setWidth 64 (me s).csr2.lgen * (4294967296 : W64) + BitVec.setWidth 64 (me s).csr2.lnode)]).any (fun e'0 => decide (BitVec.toNat (19 : BitVec 16) = e'0.1) && decide (csrMay (me (sCsr true (18446744073709551615 : W64))) (csrReadAcc e'0.1) = true) && true)) = true) ∧
    ((decide (guardOk (me (sCsr true (18446744073709551615 : W64))).ctl g1 = true) && ([(3, BitVec.allOnes 64), (4, (4294967295 : W64)), (5, (65535 : W64)), (7, (36028797016866816 : W64)), (16, BitVec.allOnes 64), (18, BitVec.allOnes 64), (19, (18446744073709551608 : W64)), (20, (3 : W64)), (21, BitVec.allOnes 64), (22, BitVec.allOnes 64), (23, BitVec.allOnes 64), (24, BitVec.allOnes 64), (256, (4095 : W64)), (257, (4095 : W64)), (258, (4095 : W64)), (512, (2251799813619712 : W64)), (529, (2251799813619712 : W64)), (530, (2251799813619712 : W64)), (531, (2251799813685232 : W64)), (768, (7 : W64)), (769, (4294967295 : W64)), (770, (18446744073709551600 : W64)), (1025, (36028797018963904 : W64)), (1028, (511 : W64)), (1032, (36028797018959872 : W64)), (1042, (4095 : W64))]).any (fun e'1 => decide (BitVec.toNat (19 : BitVec 16) = e'1.1) && decide (csrMay (me (sCsr true (18446744073709551615 : W64))) (csrWriteAcc e'1.1) = true) && true)) = true) := by
  refine ⟨?_, ?_⟩ <;> decide +kernel

/-- Obligations.Csrs, its part CsrPrivilege: hypotheses met together. -/
theorem witness_CsrPrivilege :
    ((guardOk (me (sCsr false 18446744073709551615)).ctl g1 = true) ∧ ((me (sCsr false 18446744073709551615)).csr.sup = false)) ∧
    ((guardOk (me (sCsr true 18446744073709551615)).ctl g1 = true) ∧ ((me (sCsr true 18446744073709551615)).csr.sup = true)) := by
  refine ⟨?_, ?_⟩ <;> decide +kernel

/-- Obligations.Csrs, its part CsrWritesThatAct: hypotheses met together. -/
theorem witness_CsrWritesThatAct_part1 :
    ((guardOk (me (sCsr true (9223372036854779649 : W64))).ctl g1 = true) ∧ ((me (sCsr true (9223372036854779649 : W64))).csr.sup = true)) ∧
    ((guardOk (me (sCsr true (9223372036854779649 : W64))).ctl g1 = true) ∧ ((me (sCsr true (9223372036854779649 : W64))).csr.sup = true) ∧ (frrRefused (sCsr true (9223372036854779649 : W64)).ms (bits (BitVec.setWidth 64 (me (sCsr true (9223372036854779649 : W64))).csr2.frrsel) 7 4) (bits (BitVec.setWidth 64 (me (sCsr true (9223372036854779649 : W64))).csr2.frrsel) 3 0) { en := BitVec.getLsbD (rd (sCsr true (9223372036854779649 : W64)) (2 : Reg)) 63, fmt := BitVec.extractLsb' 8 4 (rd (sCsr true (9223372036854779649 : W64)) (2 : Reg)), blk := BitVec.getLsbD (rd (sCsr true (9223372036854779649 : W64)) (2 : Reg)) 0, base := (me (sCsr true (9223372036854779649 : W64))).csr2.frrbase, lim := (me (sCsr true (9223372036854779649 : W64))).csr2.frrlim, scb := (me (sCsr true (9223372036854779649 : W64))).csr2.frrscb : Frr } = true)) ∧
    ((guardOk (me sFrr).ctl g1 = true) ∧ ((me sFrr).csr.sup = true) ∧ (frrRefused sFrr.ms (bits (BitVec.setWidth 64 (me sFrr).csr2.frrsel) 7 4) (bits (BitVec.setWidth 64 (me sFrr).csr2.frrsel) 3 0) { en := BitVec.getLsbD (rd sFrr (2 : Reg)) 63, fmt := BitVec.extractLsb' 8 4 (rd sFrr (2 : Reg)), blk := BitVec.getLsbD (rd sFrr (2 : Reg)) 0, base := (me sFrr).csr2.frrbase, lim := (me sFrr).csr2.frrlim, scb := (me sFrr).csr2.frrscb : Frr } = false)) ∧
    ((guardOk (me (sCsr true (9223372036854779649 : W64))).ctl g1 = true) ∧ ((me (sCsr true (9223372036854779649 : W64))).csr.sup = true) ∧ (BitVec.getLsbD (rd (sCsr true (9223372036854779649 : W64)) (2 : Reg)) 8 = true)) ∧
    ((guardOk (me (sCsr true (257 : W64))).ctl g1 = true) ∧ (((me (sCsr true (257 : W64))).sync.kq.get (BitVec.toFin (7 : BitVec 3))).length < 16)) ∧
    ((guardOk (me (sCsr true (9223372036854779649 : W64))).ctl g1 = true) ∧ (16 ≤ ((me (sCsr true (9223372036854779649 : W64))).sync.kq.get (BitVec.toFin (2 : BitVec 3))).length)) := by
  refine ⟨?_, ?_, ?_, ?_, ?_, ?_⟩ <;> decide +kernel

/-- Obligations.Csrs, its part CsrWritesThatAct: hypotheses met together. -/
theorem witness_CsrWritesThatAct_part2 :
    (guardOk (me (sCsr true 9223372036854779649)).ctl g1 = true) ∧ ((me (sCsr true 9223372036854779649)).csr.dbgp = true) ∧ (BitVec.getLsbD (rd (sCsr true 9223372036854779649) (2 : Reg)) 0 = true) := by
  decide +kernel

/-- Obligations.Traps, its part TrapWords: hypotheses met together. -/
theorem witness_TrapWords_1 :
    (((me (sTrap false (0 : BitVec 5))).csr.sup = false) ∧ (guardOk (me (sTrap false (0 : BitVec 5))).ctl g1 = true) ∧ (BitVec.toNat (127 : BitVec 16) < 128)) ∧
    (((me (sTrap false (0 : BitVec 5))).csr.sup = false) ∧ (guardOk (me (sTrap false (0 : BitVec 5))).ctl g1 = true) ∧ ((me (sTrap false (0 : BitVec 5))).csrd.dbgctl.getLsbD 1 = false)) ∧
    (((me (sTrap false (0 : BitVec 5))).csr.sup = false)) := by
  refine ⟨?_, ?_, ?_⟩ <;> decide +kernel

/-- Obligations.Traps, its part TrapWords: hypotheses met together. -/
theorem witness_TrapWords_2_1 :
    (Seq.vector ≠ Seq.control) ∧ ((me (sTrap false 0)).csr.sup = false) ∧ ((me (sTrap false 0)).pend = none) := by
  decide +kernel

/-- Obligations.Traps, its part TrapWords: hypotheses met together. -/
theorem witness_TrapWords_2_2 :
    ((decide (guardOk (me (sTrap true (0 : BitVec 5))).ctl g1 = true) && decide ((me (sTrap true (0 : BitVec 5))).csr.sup = true) && decide (BitVec.toNat (127 : BitVec 16) < 128) && decide (∀ (ch : Fin 4), (me (sTrap true (0 : BitVec 5))).cp.ch.get ch = []) && (match tblGet none (sTrap true (0 : BitVec 5)).launches (me (sTrap true (0 : BitVec 5))).run.inst.launch with | some l'0 => (match l'0.nodes[(me (sTrap true (0 : BitVec 5))).run.inst.node]? with | some _ => true | _ => false) | _ => false)) = true) ∧
    ((decide (guardOk (me (upd busy (sTrap true (0 : BitVec 5)))).ctl g1 = true) && decide ((me (upd busy (sTrap true (0 : BitVec 5)))).csr.sup = true) && decide (BitVec.toNat (127 : BitVec 16) < 128) && decide (¬∀ (ch : Fin 4), (me (upd busy (sTrap true (0 : BitVec 5)))).cp.ch.get ch = []) && (match tblGet none (upd busy (sTrap true (0 : BitVec 5))).launches (me (upd busy (sTrap true (0 : BitVec 5)))).run.inst.launch with | some l'0 => (match l'0.nodes[(me (upd busy (sTrap true (0 : BitVec 5)))).run.inst.node]? with | some _ => true | _ => false) | _ => false)) = true) := by
  refine ⟨?_, ?_⟩ <;> decide +kernel

/-- Obligations.Traps, its part EretAndInterrupt: hypotheses met together. -/
theorem witness_EretAndInterrupt_1 :
    ((guardOk (me (sTrap true 0)).ctl g1 = true) ∧ ((me (sTrap true 0)).csr.sup = true) ∧ ((me (sTrap true 0)).csr.tctl = 0) ∧ ((me (sTrap true 0)).parked = none)) ∧
    ((guardOk (me sKill).ctl g1 = true) ∧ ((me sKill).csr.sup = true) ∧ ((me sKill).csr.tctl.getLsbD 1 = true) ∧ (∀ (ch : Fin 4), (me sKill).cp.ch.get ch = [])) ∧
    ((guardOk (me (upd busy sKill)).ctl g1 = true) ∧ ((me (upd busy sKill)).csr.sup = true) ∧ ((me (upd busy sKill)).csr.tctl.getLsbD 1 = true) ∧ (¬∀ (ch : Fin 4), (me (upd busy sKill)).cp.ch.get ch = [])) := by
  refine ⟨?_, ?_, ?_⟩ <;> decide +kernel

/-- Obligations.Traps, its part EretAndInterrupt: hypotheses met together. -/
theorem witness_EretAndInterrupt_2 :
    (decide (irqDue (me sIrq) = true) && (match (me sIrq).irq with | _ :: _ => true | _ => false)) = true := by
  decide +kernel

/-- Obligations.CacheAndTlbWords: hypotheses met together. -/
theorem witness_CacheAndTlbWords :
    ((guardOk (me sTlb).ctl g1 = true) ∧ ((me sTlb).csr.sup = true) ∧ ((me sTlb).cwait = none) ∧ ((BitVec.ofNat 16 0).toNat ≤ 2) ∧ (tlbQuiet sTlb (dropsGlobal sTlb (ctxOf sTlb) (BitVec.ofNat 16 0).toNat (rd sTlb (1 : Reg))) sTlb.nextId = true)) ∧
    ((decide (guardOk (me sTlb).ctl g1 = true) && decide ((me sTlb).cwait = none) && decide (gangAborted sTlb (me sTlb) = false) && decide (inWindow (me sTlb) (rd sTlb (1 : Reg) + BitVec.signExtend 64 (0 : BitVec 12)) = false) && (match Machine.translate sTlb (rd sTlb (1 : Reg) + BitVec.signExtend 64 (0 : BitVec 12)) Acc.read Seq.control with | (Except.ok x'1, s'2) => decide (pageWrites (wcFlushSq s'2 Seq.control) (ctxOf sTlb) (pa50 x'1.pa / 65536) = []) && true | _ => false)) = true) ∧
    ((guardOk (me sTlb).ctl g1 = true) ∧ ((BitVec.ofNat 16 2).toNat = 2)) ∧
    ((decide (guardOk (me sTlb).ctl g1 = true) && decide ((BitVec.ofNat 16 0).toNat < 2) && decide (inWindow (me sTlb) (rd sTlb (1 : Reg)) = false) && (match Machine.translate sTlb (rd sTlb (1 : Reg)) Acc.read Seq.control with | (Except.ok _, _) => true | _ => false)) = true) := by
  refine ⟨?_, ?_, ?_, ?_⟩ <;> decide +kernel

/-- Obligations.DebugWords: hypotheses met together. -/
theorem witness_DebugWords :
    ((guardOk (me (sDbg 0 true)).ctl g1 = true) ∧ (BitVec.getLsbD (me (sDbg 0 true)).csrd.bcctl 31 = true) ∧ ((me (sDbg 0 true)).reqs.any (isRecord true) = false) ∧ (∀ (i : Fin 4), ¬(((me (sDbg 0 true)).ctl.loops.get i).act = true ∧ ((me (sDbg 0 true)).ctl.loops.get i).last = (me (sDbg 0 true)).ctl.pc))) ∧
    ((guardOk (me sInt).ctl g1 = true) ∧ (BitVec.getLsbD (me sInt).csrd.bcctl 31 = false)) ∧
    ((guardOk (me (sDbg 2 false)).ctl g1 = true) ∧ ((me (sDbg 2 false)).csrd.dbgctl.getLsbD 1 = true) ∧ ((me (sDbg 2 false)).run.group = none)) ∧
    (((me (sDbg 0 true)).run.dreq = true) ∧ ((me (sDbg 0 true)).run.live = true) ∧ ((me (sDbg 0 true)).run.group = none)) ∧
    ((trcOn (me (sDbg 0 true)) = true) ∧ ((me (sDbg 0 true)).dbg.post = none) ∧ (bits (me (sDbg 0 true)).csrd.tbtrig 2 0 = 1) ∧ (bits (me (sDbg 0 true)).csrd.tbtrig 63 3 = bits (me (sDbg 0 true)).ctl.pc 63 3) ∧ (0 < bits (BitVec.setWidth 64 (me (sDbg 0 true)).csrd.tbctl) 31 16)) := by
  refine ⟨?_, ?_, ?_, ?_, ?_⟩ <;> decide +kernel

/-- Obligations.VectorLaneWords: hypotheses met together. -/
theorem witness_VectorLaneWords :
    ((decide ((me (sVec 2 0)).ve.wait = none) && decide (∀ g ∈ (me (landVec (sVec 2 0))).vec.gathers, g.load = true → g.dst ∉ [srcAt 10 { m := true, step := 1, rpt := 0 : VH }.step (me (sVec 2 0)).ve.rep] ++ [vidx 767 { m := true, step := 1, rpt := 0 : VH }.step (me (sVec 2 0)).ve.rep]) && decide (nullified (me (landVec (sVec 2 0))) { m := true, step := 1, rpt := 0 : VH }.m = false) && decide ((me (landVec (sVec 2 0))).vec.vpoison = []) && (match takeRows (me (sVec 2 0)).ve [srcAt 10 { m := true, step := 1, rpt := 0 : VH }.step (me (sVec 2 0)).ve.rep] 0 (me (landVec (sVec 2 0))) with | Except.ok (rr0, _) => decide (rr0 = List.map (fun (r : Row) => (r, none)) (rowsOk (sVec 2 0) [10])) | _ => false)) = true) ∧
    ((decide ((me (sVec 2 0)).ve.wait = none) && decide (∀ g ∈ (me (landVec (sVec 2 0))).vec.gathers, g.load = true → g.dst ∉ [srcAt 10 { m := true, step := 1, rpt := 0 : VH }.step (me (sVec 2 0)).ve.rep, srcAt 11 { m := true, step := 1, rpt := 0 : VH }.step (me (sVec 2 0)).ve.rep] ++ [vidx 767 { m := true, step := 1, rpt := 0 : VH }.step (me (sVec 2 0)).ve.rep]) && decide (nullified (me (landVec (sVec 2 0))) { m := true, step := 1, rpt := 0 : VH }.m = false) && decide ((me (landVec (sVec 2 0))).vec.vpoison = []) && (match takeRows (me (sVec 2 0)).ve [srcAt 10 { m := true, step := 1, rpt := 0 : VH }.step (me (sVec 2 0)).ve.rep, srcAt 11 { m := true, step := 1, rpt := 0 : VH }.step (me (sVec 2 0)).ve.rep] 0 (me (landVec (sVec 2 0))) with | Except.ok (rr0, _) => decide (rr0 = List.map (fun (r : Row) => (r, none)) (rowsOk (sVec 2 0) [10, 11])) | _ => false)) = true) ∧
    ((decide ((me (sVec 2 0)).ve.wait = none) && decide (∀ g ∈ (me (landVec (sVec 2 0))).vec.gathers, g.load = true → g.dst ∉ [srcAt 10 { m := true, step := 1, rpt := 0 : VH }.step (me (sVec 2 0)).ve.rep, srcAt 11 { m := true, step := 1, rpt := 0 : VH }.step (me (sVec 2 0)).ve.rep, srcAt 767 { m := true, step := 1, rpt := 0 : VH }.step (me (sVec 2 0)).ve.rep] ++ [vidx 767 { m := true, step := 1, rpt := 0 : VH }.step (me (sVec 2 0)).ve.rep]) && decide (nullified (me (landVec (sVec 2 0))) { m := true, step := 1, rpt := 0 : VH }.m = false) && decide ((me (landVec (sVec 2 0))).vec.vpoison = []) && (match takeRows (me (sVec 2 0)).ve [srcAt 10 { m := true, step := 1, rpt := 0 : VH }.step (me (sVec 2 0)).ve.rep, srcAt 11 { m := true, step := 1, rpt := 0 : VH }.step (me (sVec 2 0)).ve.rep, srcAt 767 { m := true, step := 1, rpt := 0 : VH }.step (me (sVec 2 0)).ve.rep] 0 (me (landVec (sVec 2 0))) with | Except.ok (rr0, _) => decide (rr0 = List.map (fun (r : Row) => (r, none)) (rowsOk (sVec 2 0) [10, 11, 767])) | _ => false)) = true) := by
  refine ⟨?_, ?_, ?_⟩ <;> decide +kernel

/-- Obligations.VectorMasksAndRows, its part VectorMaskWords: hypotheses met together. -/
theorem witness_VectorMaskWords :
    ((decide ((me (sVec 2 0)).ve.wait = none) && decide (∀ g ∈ (me (landVec (sVec 2 0))).vec.gathers, g.load = true → g.dst ∉ [srcAt 10 { m := true, step := 1, rpt := 0 : VH }.step (me (sVec 2 0)).ve.rep, srcAt 11 { m := true, step := 1, rpt := 0 : VH }.step (me (sVec 2 0)).ve.rep] ++ []) && decide (nullified (me (landVec (sVec 2 0))) { m := true, step := 1, rpt := 0 : VH }.m = false) && decide ((me (landVec (sVec 2 0))).vec.vpoison = []) && (match takeRows (me (sVec 2 0)).ve [srcAt 10 { m := true, step := 1, rpt := 0 : VH }.step (me (sVec 2 0)).ve.rep, srcAt 11 { m := true, step := 1, rpt := 0 : VH }.step (me (sVec 2 0)).ve.rep] 0 (me (landVec (sVec 2 0))) with | Except.ok (rr0, _) => decide (rr0 = List.map (fun (r : Row) => (r, none)) (rowsOk (sVec 2 0) [10, 11])) | _ => false)) = true) ∧
    ((decide ((me (sVec 2 0)).ve.wait = none) && decide (∀ g ∈ (me (landVec (sVec 2 0))).vec.gathers, g.load = true → g.dst ∉ [] ++ []) && decide (nullified (me (landVec (sVec 2 0))) { m := true, step := 1, rpt := 0 : VH }.m = false) && decide ((me (landVec (sVec 2 0))).vec.vpoison = []) && (match takeRows (me (sVec 2 0)).ve [] 0 (me (landVec (sVec 2 0))) with | Except.ok (rr0, _) => decide (rr0 = List.map (fun (r : Row) => (r, none)) []) | _ => false)) = true) ∧
    ((decide ((me (sVec 2 0)).ve.wait = none) && decide (∀ g ∈ (me (landVec (sVec 2 0))).vec.gathers, g.load = true → g.dst ∉ [srcAt 10 { m := true, step := 1, rpt := 0 : VH }.step (me (sVec 2 0)).ve.rep, srcAt 11 { m := true, step := 1, rpt := 0 : VH }.step (me (sVec 2 0)).ve.rep] ++ [vidx 767 { m := true, step := 1, rpt := 0 : VH }.step (me (sVec 2 0)).ve.rep]) && decide (nullified (me (landVec (sVec 2 0))) false = false) && decide ((me (landVec (sVec 2 0))).vec.vpoison = []) && (match takeRows (me (sVec 2 0)).ve [srcAt 10 { m := true, step := 1, rpt := 0 : VH }.step (me (sVec 2 0)).ve.rep, srcAt 11 { m := true, step := 1, rpt := 0 : VH }.step (me (sVec 2 0)).ve.rep] 0 (me (landVec (sVec 2 0))) with | Except.ok (rr0, _) => decide (rr0 = List.map (fun (r : Row) => (r, none)) (rowsOk (sVec 2 0) [10, 11])) | _ => false)) = true) := by
  refine ⟨?_, ?_, ?_⟩ <;> decide +kernel

/-- Obligations.VectorMasksAndRows, its part VectorRowWords: hypotheses met together. -/
theorem witness_VectorRowWords_part1 :
    ((decide ((me (sVec 2 0)).ve.wait = none) && decide (∀ g ∈ (me (landVec (sVec 2 0))).vec.gathers, g.load = true → g.dst ∉ [srcAt 10 { m := true, step := 1, rpt := 0 : VH }.step (me (sVec 2 0)).ve.rep] ++ [vidx 767 { m := true, step := 1, rpt := 0 : VH }.step (me (sVec 2 0)).ve.rep, vidx 11 { m := true, step := 1, rpt := 0 : VH }.step (me (sVec 2 0)).ve.rep]) && decide (nullified (me (landVec (sVec 2 0))) false = false) && decide ((me (landVec (sVec 2 0))).vec.vpoison = []) && (match takeRows (me (sVec 2 0)).ve [srcAt 10 { m := true, step := 1, rpt := 0 : VH }.step (me (sVec 2 0)).ve.rep] 0 (me (landVec (sVec 2 0))) with | Except.ok (rr0, _) => decide (rr0 = List.map (fun (r : Row) => (r, none)) (rowsOk (sVec 2 0) [10])) | _ => false)) = true) ∧
    ((decide ((me (sVec 2 0)).ve.wait = none) && decide (∀ g ∈ (me (landVec (sVec 2 0))).vec.gathers, g.load = true → g.dst ∉ [srcAt 10 { m := true, step := 1, rpt := 0 : VH }.step (me (sVec 2 0)).ve.rep, srcAt 11 { m := true, step := 1, rpt := 0 : VH }.step (me (sVec 2 0)).ve.rep] ++ [vidx 767 { m := true, step := 1, rpt := 0 : VH }.step (me (sVec 2 0)).ve.rep]) && decide (nullified (me (landVec (sVec 2 0))) false = false) && decide ((me (landVec (sVec 2 0))).vec.vpoison = []) && (match takeRows (me (sVec 2 0)).ve [srcAt 10 { m := true, step := 1, rpt := 0 : VH }.step (me (sVec 2 0)).ve.rep, srcAt 11 { m := true, step := 1, rpt := 0 : VH }.step (me (sVec 2 0)).ve.rep] 0 (me (landVec (sVec 2 0))) with | Except.ok (rr0, _) => decide (rr0 = List.map (fun (r : Row) => (r, none)) (rowsOk (sVec 2 0) [10, 11])) | _ => false)) = true) ∧
    ((decide ((me (sVec 2 0)).ve.wait = none) && decide (∀ g ∈ (me (landVec (sVec 2 0))).vec.gathers, g.load = true → g.dst ∉ [srcAt 10 { m := true, step := 1, rpt := 0 : VH }.step (me (sVec 2 0)).ve.rep] ++ [vidx 767 { m := true, step := 1, rpt := 0 : VH }.step (me (sVec 2 0)).ve.rep]) && decide (nullified (me (landVec (sVec 2 0))) { m := true, step := 1, rpt := 0 : VH }.m = false) && decide ((me (landVec (sVec 2 0))).vec.vpoison = []) && (match takeRows (me (sVec 2 0)).ve [srcAt 10 { m := true, step := 1, rpt := 0 : VH }.step (me (sVec 2 0)).ve.rep] 0 (me (landVec (sVec 2 0))) with | Except.ok (rr0, _) => decide (rr0 = List.map (fun (r : Row) => (r, none)) (rowsOk (sVec 2 0) [10])) | _ => false)) = true) ∧
    ((decide ((me (sVec 2 0)).ve.wait = none) && decide (∀ g ∈ (me (landVec (sVec 2 0))).vec.gathers, g.load = true → g.dst ∉ [srcAt 10 { m := true, step := 1, rpt := 0 : VH }.step (me (sVec 2 0)).ve.rep] ++ [vidx 767 { m := true, step := 1, rpt := 0 : VH }.step (me (sVec 2 0)).ve.rep]) && decide (nullified (me (landVec (sVec 2 0))) { m := true, step := 1, rpt := 0 : VH }.m = false) && decide ((me (landVec (sVec 2 0))).vec.vpoison = []) && (match takeRows (me (sVec 2 0)).ve [srcAt 10 { m := true, step := 1, rpt := 0 : VH }.step (me (sVec 2 0)).ve.rep] 0 (me (landVec (sVec 2 0))) with | Except.ok (rr0, _) => decide (rr0 = List.map (fun (r : Row) => (r, none)) (rowsOk (sVec 2 0) [10])) | _ => false)) = true) ∧
    ((decide ((me (sVec 2 0)).ve.wait = none) && decide (∀ g ∈ (me (landVec (sVec 2 0))).vec.gathers, g.load = true → g.dst ∉ [srcAt 10 { m := true, step := 1, rpt := 0 : VH }.step (me (sVec 2 0)).ve.rep] ++ [vidx 767 { m := true, step := 1, rpt := 0 : VH }.step (me (sVec 2 0)).ve.rep]) && decide (nullified (me (landVec (sVec 2 0))) { m := true, step := 1, rpt := 0 : VH }.m = false) && decide ((me (landVec (sVec 2 0))).vec.vpoison = []) && (match takeRows (me (sVec 2 0)).ve [srcAt 10 { m := true, step := 1, rpt := 0 : VH }.step (me (sVec 2 0)).ve.rep] 0 (me (landVec (sVec 2 0))) with | Except.ok (rr0, _) => decide (rr0 = List.map (fun (r : Row) => (r, none)) (rowsOk (sVec 2 0) [10])) | _ => false)) = true) ∧
    ((decide ((me (sVec 2 0)).ve.wait = none) && decide (∀ g ∈ (me (landVec (sVec 2 0))).vec.gathers, g.load = true → g.dst ∉ [srcAt 10 { m := true, step := 1, rpt := 0 : VH }.step (me (sVec 2 0)).ve.rep] ++ [vidx 767 { m := true, step := 1, rpt := 0 : VH }.step (me (sVec 2 0)).ve.rep]) && decide (nullified (me (landVec (sVec 2 0))) { m := true, step := 1, rpt := 0 : VH }.m = false) && decide ((me (landVec (sVec 2 0))).vec.vpoison = []) && (match takeRows (me (sVec 2 0)).ve [srcAt 10 { m := true, step := 1, rpt := 0 : VH }.step (me (sVec 2 0)).ve.rep] 0 (me (landVec (sVec 2 0))) with | Except.ok (rr0, _) => decide (rr0 = List.map (fun (r : Row) => (r, none)) (rowsOk (sVec 2 0) [10])) | _ => false)) = true) := by
  refine ⟨?_, ?_, ?_, ?_, ?_, ?_⟩ <;> decide +kernel

/-- Obligations.VectorMasksAndRows, its part VectorRowWords: hypotheses met together. -/
theorem witness_VectorRowWords_part2 :
    ((decide ((me (sVec 2 0)).ve.wait = none) && decide (∀ g ∈ (me (landVec (sVec 2 0))).vec.gathers, g.load = true → g.dst ∉ [srcAt 10 { m := true, step := 1, rpt := 0 : VH }.step (me (sVec 2 0)).ve.rep, srcAt 11 { m := true, step := 1, rpt := 0 : VH }.step (me (sVec 2 0)).ve.rep] ++ [vidx 767 { m := true, step := 1, rpt := 0 : VH }.step (me (sVec 2 0)).ve.rep]) && decide (nullified (me (landVec (sVec 2 0))) { m := true, step := 1, rpt := 0 : VH }.m = false) && decide ((me (landVec (sVec 2 0))).vec.vpoison = []) && (match takeRows (me (sVec 2 0)).ve [srcAt 10 { m := true, step := 1, rpt := 0 : VH }.step (me (sVec 2 0)).ve.rep, srcAt 11 { m := true, step := 1, rpt := 0 : VH }.step (me (sVec 2 0)).ve.rep] 0 (me (landVec (sVec 2 0))) with | Except.ok (rr0, _) => decide (rr0 = List.map (fun (r : Row) => (r, none)) (rowsOk (sVec 2 0) [10, 11])) | _ => false)) = true) ∧
    ((decide ((me (sVec 2 0)).ve.wait = none) && decide (∀ g ∈ (me (landVec (sVec 2 0))).vec.gathers, g.load = true → g.dst ∉ [] ++ [vidx 767 { m := true, step := 1, rpt := 0 : VH }.step (me (sVec 2 0)).ve.rep]) && decide (nullified (me (landVec (sVec 2 0))) { m := true, step := 1, rpt := 0 : VH }.m = false) && decide ((me (landVec (sVec 2 0))).vec.vpoison = []) && (match takeRows (me (sVec 2 0)).ve [] 0 (me (landVec (sVec 2 0))) with | Except.ok (rr0, _) => decide (rr0 = List.map (fun (r : Row) => (r, none)) []) | _ => false)) = true) ∧
    ((decide ((me (sVec 2 0)).ve.wait = none) && decide (∀ g ∈ (me (landVec (sVec 2 0))).vec.gathers, g.load = true → g.dst ∉ [] ++ [vidx 767 { m := true, step := 1, rpt := 0 : VH }.step (me (sVec 2 0)).ve.rep]) && decide (nullified (me (landVec (sVec 2 0))) { m := true, step := 1, rpt := 0 : VH }.m = false) && decide ((me (landVec (sVec 2 0))).vec.vpoison = []) && (match takeRows (me (sVec 2 0)).ve [] 0 (me (landVec (sVec 2 0))) with | Except.ok (rr0, _) => decide (rr0 = List.map (fun (r : Row) => (r, none)) []) | _ => false)) = true) := by
  refine ⟨?_, ?_, ?_⟩ <;> decide +kernel

/-- Obligations.VectorResults, its part ResultsLand: hypotheses met together. -/
theorem witness_ResultsLand :
    (draining     (upd       (fun (c : Core) =>         ({ c with ve :=             let __src := c.ve;             ({ __src with st := EngSt.stopped } : Eng) } : Core))       (sVec 2 0)) =   true) := by
  decide +kernel

/-- Obligations.VectorScratchpadWords: hypotheses met together. -/
theorem witness_VectorScratchpadWords :
    ((decide (vmAddr ((me (sVec (2 : BitVec 4) 0)).vec.a.get (BitVec.toFin (3 : BitVec 3))) (0 : BitVec 17) { m := true, step := (1 : BitVec 4), rpt := (0 : BitVec 6) : VH }.step (me (sVec (2 : BitVec 4) 0)).ve.rep % 16 = 0) && decide (BitVec.toNat (767 : BitVec 10) + (me (sVec (2 : BitVec 4) 0)).ve.rep < 768) && decide ((me (sVec (2 : BitVec 4) 0)).ve.wait = none) && decide (∀ g ∈ (me (landVec (sVec (2 : BitVec 4) 0))).vec.gathers, g.load = true → g.dst ∉ [] ++ [BitVec.toNat (767 : BitVec 10) + (me (sVec (2 : BitVec 4) 0)).ve.rep]) && decide (nullified (me (landVec (sVec (2 : BitVec 4) 0))) { m := true, step := (1 : BitVec 4), rpt := (0 : BitVec 6) : VH }.m = false) && decide ((me (landVec (sVec (2 : BitVec 4) 0))).vec.vpoison = []) && decide (vmPoison (me (sVec (2 : BitVec 4) 0)) (vmAddr ((me (sVec (2 : BitVec 4) 0)).vec.a.get (BitVec.toFin (3 : BitVec 3))) (0 : BitVec 17) { m := true, step := (1 : BitVec 4), rpt := (0 : BitVec 6) : VH }.step (me (sVec (2 : BitVec 4) 0)).ve.rep) (if { m := true, step := (1 : BitVec 4), rpt := (0 : BitVec 6) : VH }.m = true then actMask (me (landVec (sVec (2 : BitVec 4) 0))) else BitVec.allOnes 64) = false) && decide ((List.range 64).all (fun i => decide ((List.range 4).all (fun k => decide (BitVec.extractLsb' (8 * k) 8 (lane (padRow (sVec (2 : BitVec 4) 0) 2097024) i) = spByte (me (sVec (2 : BitVec 4) 0)) ((vmAddr ((me (sVec (2 : BitVec 4) 0)).vec.a.get (BitVec.toFin (3 : BitVec 3))) (0 : BitVec 17) { m := true, step := (1 : BitVec 4), rpt := (0 : BitVec 6) : VH }.step (me (sVec (2 : BitVec 4) 0)).ve.rep + 4 * i + k) % 2097152))) = true)) = true) && (match takeRows (me (sVec (2 : BitVec 4) 0)).ve [] 0 (me (landVec (sVec (2 : BitVec 4) 0))) with | Except.ok (rr0, _) => decide (rr0 = List.map (fun (r : Row) => (r, none)) []) | _ => false)) = true) ∧
    ((decide (vmAddr ((me (sVec (2 : BitVec 4) 0)).vec.a.get (BitVec.toFin (3 : BitVec 3))) (0 : BitVec 17) { m := true, step := (1 : BitVec 4), rpt := (0 : BitVec 6) : VH }.step (me (sVec (2 : BitVec 4) 0)).ve.rep % 16 = 0) && decide (BitVec.toNat (767 : BitVec 10) + (me (sVec (2 : BitVec 4) 0)).ve.rep < 768) && decide ((me (sVec (2 : BitVec 4) 0)).ve.wait = none) && decide (∀ g ∈ (me (landVec (sVec (2 : BitVec 4) 0))).vec.gathers, g.load = true → g.dst ∉ [BitVec.toNat (767 : BitVec 10) + (me (sVec (2 : BitVec 4) 0)).ve.rep] ++ []) && decide (nullified (me (landVec (sVec (2 : BitVec 4) 0))) { m := true, step := (1 : BitVec 4), rpt := (0 : BitVec 6) : VH }.m = false) && decide ((me (landVec (sVec (2 : BitVec 4) 0))).vec.vpoison = []) && (match takeRows (me (sVec (2 : BitVec 4) 0)).ve [BitVec.toNat (767 : BitVec 10) + (me (sVec (2 : BitVec 4) 0)).ve.rep] 0 (me (landVec (sVec (2 : BitVec 4) 0))) with | Except.ok (rr0, _) => decide (rr0 = List.map (fun (r : Row) => (r, none)) [zeroRow]) | _ => false)) = true) ∧
    ((decide (vmAddr ((me sFull).vec.a.get (BitVec.toFin (0 : BitVec 3))) (0 : BitVec 17) { m := true, step := (1 : BitVec 4), rpt := (0 : BitVec 6) : VH }.step (me sFull).ve.rep % 16 = 0) && decide (BitVec.toNat (767 : BitVec 10) + (me sFull).ve.rep < 768) && decide ((me sFull).ve.wait = none) && decide (∀ g ∈ (me (landVec sFull)).vec.gathers, g.load = true → g.dst ∉ [] ++ [BitVec.toNat (767 : BitVec 10) + (me sFull).ve.rep]) && decide (nullified (me (landVec sFull)) { m := true, step := (1 : BitVec 4), rpt := (0 : BitVec 6) : VH }.m = false) && decide ((me (landVec sFull)).vec.vpoison = []) && decide ((me sFull).spad.waiters = []) && decide ((me sFull).frozen = false) && decide ((me sFull).ve.tdead = false) && decide (gangAborted sFull (me sFull) = false) && decide (∀ w ∈ if { m := true, step := (1 : BitVec 4), rpt := (0 : BitVec 6) : VH }.m = true then vmIdx (vmAddr ((me sFull).vec.a.get (BitVec.toFin (0 : BitVec 3))) (0 : BitVec 17) { m := true, step := (1 : BitVec 4), rpt := (0 : BitVec 6) : VH }.step (me sFull).ve.rep) (if { m := true, step := (1 : BitVec 4), rpt := (0 : BitVec 6) : VH }.m = true then actMask (me (landVec sFull)) else BitVec.allOnes 64) else vmIdx (vmAddr ((me sFull).vec.a.get (BitVec.toFin (0 : BitVec 3))) (0 : BitVec 17) { m := true, step := (1 : BitVec 4), rpt := (0 : BitVec 6) : VH }.step (me sFull).ve.rep) (BitVec.allOnes 64), spTag (me sFull) w = true) && decide (wordsPoison (me sFull) (if { m := true, step := (1 : BitVec 4), rpt := (0 : BitVec 6) : VH }.m = true then vmIdx (vmAddr ((me sFull).vec.a.get (BitVec.toFin (0 : BitVec 3))) (0 : BitVec 17) { m := true, step := (1 : BitVec 4), rpt := (0 : BitVec 6) : VH }.step (me sFull).ve.rep) (if { m := true, step := (1 : BitVec 4), rpt := (0 : BitVec 6) : VH }.m = true then actMask (me (landVec sFull)) else BitVec.allOnes 64) else vmIdx (vmAddr ((me sFull).vec.a.get (BitVec.toFin (0 : BitVec 3))) (0 : BitVec 17) { m := true, step := (1 : BitVec 4), rpt := (0 : BitVec 6) : VH }.step (me sFull).ve.rep) (BitVec.allOnes 64)) = false) && decide ((List.range 64).all (fun i => decide ((List.range 4).all (fun k => decide (BitVec.extractLsb' (8 * k) 8 (lane (padRow sFull 0) i) = spByte (me sFull) ((vmAddr ((me sFull).vec.a.get (BitVec.toFin (0 : BitVec 3))) (0 : BitVec 17) { m := true, step := (1 : BitVec 4), rpt := (0 : BitVec 6) : VH }.step (me sFull).ve.rep + 4 * i + k) % 2097152))) = true)) = true) && (match takeRows (me sFull).ve [] 0 (me (landVec sFull)) with | Except.ok (rr0, _) => decide (rr0 = List.map (fun (r : Row) => (r, none)) []) | _ => false)) = true) ∧
    ((decide (vmAddr ((me (sVec (2 : BitVec 4) 0)).vec.a.get (BitVec.toFin (3 : BitVec 3))) (0 : BitVec 17) { m := true, step := (1 : BitVec 4), rpt := (0 : BitVec 6) : VH }.step (me (sVec (2 : BitVec 4) 0)).ve.rep % 16 = 0) && decide (BitVec.toNat (767 : BitVec 10) + (me (sVec (2 : BitVec 4) 0)).ve.rep < 768) && decide ((me (sVec (2 : BitVec 4) 0)).ve.wait = none) && decide (∀ g ∈ (me (landVec (sVec (2 : BitVec 4) 0))).vec.gathers, g.load = true → g.dst ∉ [BitVec.toNat (767 : BitVec 10) + (me (sVec (2 : BitVec 4) 0)).ve.rep] ++ []) && decide (nullified (me (landVec (sVec (2 : BitVec 4) 0))) { m := true, step := (1 : BitVec 4), rpt := (0 : BitVec 6) : VH }.m = false) && decide ((me (landVec (sVec (2 : BitVec 4) 0))).vec.vpoison = []) && decide ((me (sVec (2 : BitVec 4) 0)).spad.waiters = []) && decide ((me (sVec (2 : BitVec 4) 0)).frozen = false) && decide ((me (sVec (2 : BitVec 4) 0)).ve.tdead = false) && decide (gangAborted (sVec (2 : BitVec 4) 0) (me (sVec (2 : BitVec 4) 0)) = false) && decide (∀ w ∈ if { m := true, step := (1 : BitVec 4), rpt := (0 : BitVec 6) : VH }.m = true then vmIdx (vmAddr ((me (sVec (2 : BitVec 4) 0)).vec.a.get (BitVec.toFin (3 : BitVec 3))) (0 : BitVec 17) { m := true, step := (1 : BitVec 4), rpt := (0 : BitVec 6) : VH }.step (me (sVec (2 : BitVec 4) 0)).ve.rep) (if { m := true, step := (1 : BitVec 4), rpt := (0 : BitVec 6) : VH }.m = true then actMask (me (landVec (sVec (2 : BitVec 4) 0))) else BitVec.allOnes 64) else vmIdx (vmAddr ((me (sVec (2 : BitVec 4) 0)).vec.a.get (BitVec.toFin (3 : BitVec 3))) (0 : BitVec 17) { m := true, step := (1 : BitVec 4), rpt := (0 : BitVec 6) : VH }.step (me (sVec (2 : BitVec 4) 0)).ve.rep) (BitVec.allOnes 64), spTag (me (sVec (2 : BitVec 4) 0)) w = false) && (match takeRows (me (sVec (2 : BitVec 4) 0)).ve [BitVec.toNat (767 : BitVec 10) + (me (sVec (2 : BitVec 4) 0)).ve.rep] 0 (me (landVec (sVec (2 : BitVec 4) 0))) with | Except.ok (rr0, _) => decide (rr0 = List.map (fun (r : Row) => (r, none)) [zeroRow]) | _ => false)) = true) := by
  refine ⟨?_, ?_, ?_, ?_⟩ <;> decide +kernel

/-- Obligations.GatherWords: hypotheses met together. -/
theorem witness_GatherWords :
    ((decide ((me (sGath 2)).ve.gdead = false) && decide (outstanding (me (landVec (sGath 2))) < 8) && decide ((List.range 64).all (fun i => decide (BitVec.getLsbD (if { m := true, step := 1, rpt := 0 : VH }.m = true then actMask (me (landVec (sGath 2))) else BitVec.allOnes 64) i = true → BitVec.toNat (lane (row (rowsOk (sGath 2) [10, 11]) 0) i) % 4 = 0 ∧ inWindow (me (sGath 2)) (pairAddr (row (rowsOk (sGath 2) [10, 11]) 0) (row (rowsOk (sGath 2) [10, 11]) 1) i) = false)) = true) && decide ((me (sGath 2)).ve.wait = none) && decide (∀ g ∈ (me (landVec (sGath 2))).vec.gathers, g.load = true → g.dst ∉ [srcAt 10 { m := true, step := 1, rpt := 0 : VH }.step (me (sGath 2)).ve.rep, srcAt 10 { m := true, step := 1, rpt := 0 : VH }.step (me (sGath 2)).ve.rep + 1] ++ [srcAt 767 { m := true, step := 1, rpt := 0 : VH }.step (me (sGath 2)).ve.rep]) && decide (nullified (me (landVec (sGath 2))) { m := true, step := 1, rpt := 0 : VH }.m = false) && decide ((me (landVec (sGath 2))).vec.vpoison = []) && (match takeRows (me (sGath 2)).ve [srcAt 10 { m := true, step := 1, rpt := 0 : VH }.step (me (sGath 2)).ve.rep, srcAt 10 { m := true, step := 1, rpt := 0 : VH }.step (me (sGath 2)).ve.rep + 1] 0 (me (landVec (sGath 2))) with | Except.ok (rr0, _) => decide (rr0 = List.map (fun (r : Row) => (r, none)) (rowsOk (sGath 2) [10, 11])) | _ => false)) = true) ∧
    ((decide ((me (sGath 2)).ve.gdead = false) && decide (outstanding (me (landVec (sGath 2))) < 8) && decide ((List.range 64).all (fun i => decide (BitVec.getLsbD (if { m := true, step := 1, rpt := 0 : VH }.m = true then actMask (me (landVec (sGath 2))) else BitVec.allOnes 64) i = true → BitVec.toNat (lane (row (rowsOk (sGath 2) [10, 11, 767]) 0) i) % 4 = 0 ∧ inWindow (me (sGath 2)) (pairAddr (row (rowsOk (sGath 2) [10, 11, 767]) 0) (row (rowsOk (sGath 2) [10, 11, 767]) 1) i) = false)) = true) && decide ((me (sGath 2)).ve.wait = none) && decide (∀ g ∈ (me (landVec (sGath 2))).vec.gathers, g.load = true → g.dst ∉ [srcAt 10 { m := true, step := 1, rpt := 0 : VH }.step (me (sGath 2)).ve.rep, srcAt 10 { m := true, step := 1, rpt := 0 : VH }.step (me (sGath 2)).ve.rep + 1, srcAt 767 { m := true, step := 1, rpt := 0 : VH }.step (me (sGath 2)).ve.rep] ++ []) && decide (nullified (me (landVec (sGath 2))) { m := true, step := 1, rpt := 0 : VH }.m = false) && decide ((me (landVec (sGath 2))).vec.vpoison = []) && (match takeRows (me (sGath 2)).ve [srcAt 10 { m := true, step := 1, rpt := 0 : VH }.step (me (sGath 2)).ve.rep, srcAt 10 { m := true, step := 1, rpt := 0 : VH }.step (me (sGath 2)).ve.rep + 1, srcAt 767 { m := true, step := 1, rpt := 0 : VH }.step (me (sGath 2)).ve.rep] 0 (me (landVec (sGath 2))) with | Except.ok (rr0, _) => decide (rr0 = List.map (fun (r : Row) => (r, none)) (rowsOk (sGath 2) [10, 11, 767])) | _ => false)) = true) := by
  refine ⟨?_, ?_⟩ <;> decide +kernel

/-- Obligations.GatherLaneArrival: hypotheses met together. -/
theorem witness_GatherLaneArrival :
    (decide (∀ x ∈ (me sLane).vec.gathers, x.lanes = []) && decide (linesOk sLane.ms = true) && (match List.find? (fun (x : Gather) => x.id == sLane.choice.n) (me sLane).vec.gathers with | some g'0 => decide (g'0.load = true) && (match List.find? (fun (x : ℕ × ℕ × Bool) => x.1 == sLane.choice.m) g'0.sent with | some (i'1, pa'2, so'3) => decide (i'1 < 64) && decide (pa'2 % 4 = 0) && decide (l1Hit sLane Seq.vector pa'2 4 false so'3 = none) && decide (laneTurn (me sLane) g'0 i'1 pa'2 = true) && decide (laneReady (me sLane) g'0 i'1 pa'2 so'3 = true) && decide (slicePoison (sliceTouch sLane.ms pa'2 4) pa'2 4 = false) && true | _ => false) | _ => false)) = true := by
  decide +kernel

/-- Obligations.DeferralQueue: hypotheses met together. -/
theorem witness_DeferralQueue :
    ((decide ((me (sDq 500)).ve.wait = none) && decide (∀ g ∈ (me (landVec (sDq 500))).vec.gathers, g.load = true → g.dst ∉ List.map (fun (i : ℕ) => srcAt (10 : BitVec 10) { m := true, step := (1 : BitVec 4), rpt := (0 : BitVec 6) : VH }.step (me (sDq 500)).ve.rep + i) (List.range (BitVec.toNat (3 : BitVec 2) + 1)) ++ []) && decide (nullified (me (landVec (sDq 500))) { m := true, step := (1 : BitVec 4), rpt := (0 : BitVec 6) : VH }.m = false) && decide ((me (landVec (sDq 500))).vec.vpoison = []) && decide ((me (sDq 500)).vec.dq.length + (List.filter (fun (i : ℕ) => BitVec.getLsbD (if { m := true, step := (1 : BitVec 4), rpt := (0 : BitVec 6) : VH }.m = true then actMask (me (landVec (sDq 500))) else BitVec.allOnes 64) i) (List.range 64)).length ≤ 512) && (match takeRows (me (sDq 500)).ve (List.map (fun (i : ℕ) => srcAt (10 : BitVec 10) { m := true, step := (1 : BitVec 4), rpt := (0 : BitVec 6) : VH }.step (me (sDq 500)).ve.rep + i) (List.range (BitVec.toNat (3 : BitVec 2) + 1))) 0 (me (landVec (sDq 500))) with | Except.ok (rr0, _) => decide (rr0 = List.map (fun (r : Row) => (r, none)) (rowsOk (sDq 500) [10, 11, 12, 13])) | _ => false)) = true) ∧
    ((decide ((me (sDq 500)).ve.wait = none) && decide (∀ g ∈ (me (landVec (sDq 500))).vec.gathers, g.load = true → g.dst ∉ [] ++ List.map (fun (i : ℕ) => srcAt (10 : BitVec 10) { m := true, step := (1 : BitVec 4), rpt := (0 : BitVec 6) : VH }.step (me (sDq 500)).ve.rep + i) (List.range (BitVec.toNat (3 : BitVec 2) + 1))) && decide (nullified (me (landVec (sDq 500))) false = false) && decide ((me (landVec (sDq 500))).vec.vpoison = []) && decide (∀ e ∈ (me (sDq 500)).vec.dq, e ≠ []) && (match takeRows (me (sDq 500)).ve [] 0 (me (landVec (sDq 500))) with | Except.ok (rr0, _) => decide (rr0 = List.map (fun (r : Row) => (r, none)) []) | _ => false)) = true) := by
  refine ⟨?_, ?_⟩ <;> decide +kernel

/-- Obligations.VectorResults, its part AddressLoad: hypotheses met together. -/
theorem witness_AddressLoad_1 :
    ((me (sParam false)).vec.vload = none) ∧ ((me (sParam false)).ve.wait = none) ∧ (0 < engDl (me (sParam false)) Seq.vector) ∧ (gangAborted (sParam false) (me (sParam false)) = false) := by
  decide +kernel

/-- Obligations.VectorResults, its part AddressLoad: hypotheses met together. -/
theorem witness_AddressLoad_2 :
    (decide (engWaits (sParam true) Seq.vector = true) && decide (isHeld (me (sParam true)) HeldAt.vparam = false) && decide (gangAborted (sParam true) (me (sParam true)) = false) && (match (me (sParam true)).vec.vload with | some (_, va'2) => (match plainPiece (sParam true) Seq.vector va'2 8 with | (PRead.ok bs'3, _) => decide (bs'3.length = 8) && true | _ => false) | _ => false)) = true := by
  decide +kernel

/-- Obligations.EngineFlowWords: hypotheses met together. -/
theorem witness_EngineFlowWords :
    ((([(Instr.vrdv (BitVec.ofNat 10 0), Seq.vector), (Instr.mrdv (BitVec.ofNat 10 0), Seq.matrix), (Instr.xrdv (BitVec.ofNat 10 0), Seq.copy)]).any (fun e'4 => decide ((engOf (me (sEngFlow (eng EngSt.running none none) (5 : W64))) e'4.2).group = none) && true)) = true) ∧
    ((([(Instr.vrdv (5 : BitVec 10), Seq.vector), (Instr.mrdv (5 : BitVec 10), Seq.matrix), (Instr.xrdv (5 : BitVec 10), Seq.copy)]).any (fun e'4 => (match (engOf (me (sEngFlow (eng EngSt.running none (some 2053)) (5 : W64))) e'4.2).group with | some n'5 => decide (n'5 % 1024 = BitVec.toNat (5 : BitVec 10)) && true | _ => false))) = true) ∧
    ((decide ((engOf (me (sEngFlow (eng EngSt.stopped (some ((10 : W64), 50)) (some 2053)) (60 : W64))) (sEngFlow (eng EngSt.stopped (some ((10 : W64), 50)) (some 2053)) (60 : W64)).choice.sq).st = EngSt.stopped) && decide (engineRuns (me (sEngFlow (eng EngSt.stopped (some ((10 : W64), 50)) (some 2053)) (60 : W64))) = true) && decide ((sEngFlow (eng EngSt.stopped (some ((10 : W64), 50)) (some 2053)) (60 : W64)).choice.sq ≠ Seq.control) && decide (gangAborted (sEngFlow (eng EngSt.stopped (some ((10 : W64), 50)) (some 2053)) (60 : W64)) (me (sEngFlow (eng EngSt.stopped (some ((10 : W64), 50)) (some 2053)) (60 : W64))) = false) && decide (escalates (me (sEngFlow (eng EngSt.stopped (some ((10 : W64), 50)) (some 2053)) (60 : W64))) = false) && (match (engOf (me (sEngFlow (eng EngSt.stopped (some ((10 : W64), 50)) (some 2053)) (60 : W64))) (sEngFlow (eng EngSt.stopped (some ((10 : W64), 50)) (some 2053)) (60 : W64)).choice.sq).wait with | some (t0'6, dl'7) => decide (0 < dl'7) && decide (dl'7 ≤ BitVec.toNat ((me (sEngFlow (eng EngSt.stopped (some ((10 : W64), 50)) (some 2053)) (60 : W64))).ctc - t0'6)) && true | _ => false)) = true) ∧
    ((([(Instr.vloop (BitVec.ofNat 1 0) (BitVec.ofNat 12 0) (BitVec.ofNat 12 0), Seq.vector), (Instr.xloop (BitVec.ofNat 1 0) (BitVec.ofNat 12 0) (BitVec.ofNat 12 0), Seq.copy)]).any (fun e'11 => decide (eLoopBad (sEngFlow (eng EngSt.running none none) (5 : W64)) e'11.2 (BitVec.ofNat 1 0).toNat (BitVec.ofNat 12 0).toNat = false) && true)) = true) ∧
    ((([(Instr.vend, Seq.vector), (Instr.mend, Seq.matrix), (Instr.xend, Seq.copy)]).any (fun e'12 => decide (endReady (me (sEngFlow (eng EngSt.running none none) (5 : W64))) e'12.2 = true) && true)) = true) := by
  refine ⟨?_, ?_, ?_, ?_, ?_⟩ <;> decide +kernel

/-- Obligations.EngineFlagsAndCountedLoops, its part EngineFlagWords: hypotheses met together. -/
theorem witness_EngineFlagWords :
    ((decide (flagBad (me (sEngFlow (eng EngSt.running none none) 5)) 11 = false) && ([(Instr.vsetf 11, Seq.vector), (Instr.msetf 11, Seq.matrix), (Instr.xsetf 11, Seq.copy)]).any (fun e'0 => decide (setReady (me (wcFlushSq (sEngFlow (eng EngSt.running none none) 5) e'0.2)) e'0.2 = true) && true)) = true) ∧
    ((flagBad (me (sEngFlow (eng EngSt.running none none) 5)) 11 = false) ∧ (gangAborted (sEngFlow (eng EngSt.running none none) 5) (me (sEngFlow (eng EngSt.running none none) 5)) = false) ∧ (1 ≤ BitVec.toNat (flagV (me (sEngFlow (eng EngSt.running none none) 5)) 11))) ∧
    ((decide (flagBad (me (sEngWord Seq.vector (Instr.vwaitf 9) 60)) 9 = false) && decide (engineRuns (me (sEngWord Seq.vector (Instr.vwaitf 9) 60)) = true) && decide (gangAborted (sEngWord Seq.vector (Instr.vwaitf 9) 60) (me (sEngWord Seq.vector (Instr.vwaitf 9) 60)) = false) && decide (escalates (me (sEngWord Seq.vector (Instr.vwaitf 9) 60)) = false) && decide (BitVec.toNat (flagV (me (sEngWord Seq.vector (Instr.vwaitf 9) 60)) 9) = 0) && decide (BitVec.toNat (flagP (me (sEngWord Seq.vector (Instr.vwaitf 9) 60)) 9) < 4294967295) && ([(Instr.vwaitf 9, Seq.vector), (Instr.mwaitf 9, Seq.matrix), (Instr.xwaitf 9, Seq.copy)]).any (fun e'1 => decide ((sEngWord Seq.vector (Instr.vwaitf 9) 60).choice.sq = e'1.2) && decide (engWaits (sEngWord Seq.vector (Instr.vwaitf 9) 60) e'1.2 = true) && decide (curInstr (sEngWord Seq.vector (Instr.vwaitf 9) 60) e'1.2 = some e'1.1) && decide (e'1.2 ≠ Seq.control) && (match (engOf (me (sEngWord Seq.vector (Instr.vwaitf 9) 60)) e'1.2).wait with | some (t0'2, dl'3) => decide (0 < dl'3) && decide (dl'3 ≤ BitVec.toNat ((me (sEngWord Seq.vector (Instr.vwaitf 9) 60)).ctc - t0'2)) && true | _ => false))) = true) := by
  refine ⟨?_, ?_, ?_⟩ <;> decide +kernel

/-- Obligations.EngineFlagsAndCountedLoops, its part LoopsFromCountQueues: hypotheses met together. -/
theorem witness_LoopsFromCountQueues_1 :
    ((decide (guardOk (me (sKq [some (5 : W32), some (6 : W32)])).ctl g1 = true) && decide ((me (sKq [some (5 : W32), some (6 : W32)])).cwait = none) && decide (gangAborted (sKq [some (5 : W32), some (6 : W32)]) (me (sKq [some (5 : W32), some (6 : W32)])) = false) && decide (nests (me (sKq [some (5 : W32), some (6 : W32)])).ctl (lvl (1 : BitVec 3)) ((me (sKq [some (5 : W32), some (6 : W32)])).ctl.pc + (8 : W64) * BitVec.setWidth 64 (3 : BitVec 16)) = true) && decide (0 < BitVec.toNat (3 : BitVec 16)) && decide (∀ (i : Fin 4), i ≠ lvl (1 : BitVec 3) → ¬(((me (sKq [some (5 : W32), some (6 : W32)])).ctl.loops.get i).act = true ∧ ((me (sKq [some (5 : W32), some (6 : W32)])).ctl.loops.get i).last = (me (sKq [some (5 : W32), some (6 : W32)])).ctl.pc)) && (match kqOf (me (sKq [some (5 : W32), some (6 : W32)])) (2 : BitVec 3) with | some n'0 :: _ => decide (0 < BitVec.toNat n'0) && true | _ => false)) = true) ∧
    ((decide (guardOk (me (sKq [some (0 : W32), some (6 : W32)])).ctl g1 = true) && decide ((me (sKq [some (0 : W32), some (6 : W32)])).cwait = none) && decide (gangAborted (sKq [some (0 : W32), some (6 : W32)]) (me (sKq [some (0 : W32), some (6 : W32)])) = false) && decide (nests (me (sKq [some (0 : W32), some (6 : W32)])).ctl (lvl (1 : BitVec 3)) ((me (sKq [some (0 : W32), some (6 : W32)])).ctl.pc + (8 : W64) * BitVec.setWidth 64 (3 : BitVec 16)) = true) && (match kqOf (me (sKq [some (0 : W32), some (6 : W32)])) (2 : BitVec 3) with | some (0 : W32) :: _ => true | _ => false)) = true) := by
  refine ⟨?_, ?_⟩ <;> decide +kernel

/-- Obligations.EngineFlagsAndCountedLoops, its part LoopsFromCountQueues: hypotheses met together. -/
theorem witness_LoopsFromCountQueues_2_1 :
    (decide (controlRuns (me (sLoopq 60)) = true) && decide (gangAborted (sLoopq 60) (me (sLoopq 60)) = false) && decide (escalates (me (sLoopq 60)) = false) && (match (me (sLoopq 60)).cwait with | some w'0 => decide (w'0.dl ≤ BitVec.toNat ((me (sLoopq 60)).ctc - w'0.t0)) && decide (w'0.poll = false) && decide (w'0.e = false) && (match w'0.kind with | WKind.loopq k'1 lv'2 len'3 => decide (nests (me (sLoopq 60)).ctl (lvl lv'2) ((me (sLoopq 60)).ctl.pc + 8 * BitVec.setWidth 64 len'3) = true) && decide (kqOf (me (sLoopq 60)) k'1 = []) && true | _ => false) | _ => false)) = true := by
  decide +kernel

/-- Obligations.EngineFlagsAndCountedLoops, its part LoopsFromCountQueues: hypotheses met together. -/
theorem witness_LoopsFromCountQueues_2_2 :
    ((decide (gangAborted (sKq [some (5 : W32), some (6 : W32)]) (me (sKq [some (5 : W32), some (6 : W32)])) = false) && (match kqOf (me (sKq [some (5 : W32), some (6 : W32)])) (2 : BitVec 3) with | some _ :: _ => ([(Instr.vloopq (0 : BitVec 1) (2 : BitVec 3) (4 : BitVec 12), Seq.vector, 43), (Instr.xloopq (0 : BitVec 1) (2 : BitVec 3) (4 : BitVec 12), Seq.copy, 44)]).any (fun e'0 => decide (eLoopBad (sKq [some (5 : W32), some (6 : W32)]) e'0.2.1 (BitVec.toNat (0 : BitVec 1)) (BitVec.toNat (4 : BitVec 12)) = false) && true) | _ => false)) = true) ∧
    ((decide (engineRuns (me (sEngWord Seq.vector (Instr.vloopq (0 : BitVec 1) (2 : BitVec 3) (4 : BitVec 12)) (60 : W64))) = true) && decide (gangAborted (sEngWord Seq.vector (Instr.vloopq (0 : BitVec 1) (2 : BitVec 3) (4 : BitVec 12)) (60 : W64)) (me (sEngWord Seq.vector (Instr.vloopq (0 : BitVec 1) (2 : BitVec 3) (4 : BitVec 12)) (60 : W64))) = false) && decide (escalates (me (sEngWord Seq.vector (Instr.vloopq (0 : BitVec 1) (2 : BitVec 3) (4 : BitVec 12)) (60 : W64))) = false) && decide (kqOf (me (sEngWord Seq.vector (Instr.vloopq (0 : BitVec 1) (2 : BitVec 3) (4 : BitVec 12)) (60 : W64))) (2 : BitVec 3) = []) && ([(Instr.vloopq (0 : BitVec 1) (2 : BitVec 3) (4 : BitVec 12), Seq.vector, 43), (Instr.xloopq (0 : BitVec 1) (2 : BitVec 3) (4 : BitVec 12), Seq.copy, 44)]).any (fun e'0 => decide (eLoopBad (sEngWord Seq.vector (Instr.vloopq (0 : BitVec 1) (2 : BitVec 3) (4 : BitVec 12)) (60 : W64)) e'0.2.1 (BitVec.toNat (0 : BitVec 1)) (BitVec.toNat (4 : BitVec 12)) = false) && decide ((sEngWord Seq.vector (Instr.vloopq (0 : BitVec 1) (2 : BitVec 3) (4 : BitVec 12)) (60 : W64)).choice.sq = e'0.2.1) && decide (engWaits (sEngWord Seq.vector (Instr.vloopq (0 : BitVec 1) (2 : BitVec 3) (4 : BitVec 12)) (60 : W64)) e'0.2.1 = true) && decide (curInstr (sEngWord Seq.vector (Instr.vloopq (0 : BitVec 1) (2 : BitVec 3) (4 : BitVec 12)) (60 : W64)) e'0.2.1 = some e'0.1) && decide (e'0.2.1 ≠ Seq.control) && (match (engOf (me (sEngWord Seq.vector (Instr.vloopq (0 : BitVec 1) (2 : BitVec 3) (4 : BitVec 12)) (60 : W64))) e'0.2.1).wait with | some (t0'3, dl'4) => decide (0 < dl'4) && decide (dl'4 ≤ BitVec.toNat ((me (sEngWord Seq.vector (Instr.vloopq (0 : BitVec 1) (2 : BitVec 3) (4 : BitVec 12)) (60 : W64))).ctc - t0'3)) && true | _ => false))) = true) := by
  refine ⟨?_, ?_⟩ <;> decide +kernel

/-- Obligations.MatrixReductions: hypotheses met together. -/
theorem witness_MatrixReductions :
    ((decide ((me sMgo).mx.mgoNext = none) && decide (tableOk (me sMgo) (me sMgo).mx.shadow = true) && decide ((me sMgo).mx.live = false) && decide (gangAborted sMgo (me sMgo) = false) && (match checkNest sMgo (me sMgo).mx.shadow (curEng sMgo Seq.matrix) with | Except.ok _ => true | _ => false)) = true) ∧
    ((decide (nestRuns (me (sNest true)) = true) && decide ((bankOf (me (sNest true)).mx (me (sNest true)).mx.next).st = BankSt.free) && decide ((bankOf (me (sNest true)).mx (me (sNest true)).mx.next).poison = false) && (match checkNest (sNest true) (me (sNest true)).mx.active (curEng (sNest true) Seq.matrix) with | Except.ok (_, _, _) => true | _ => false)) = true) ∧
    ((decide ((me (sTile 3 0 0)).run.live = true) && decide ((me (sTile 3 0 0)).run.dstop = false) && decide (tileHeld (me (sTile 3 0 0)) = false) && decide (2 < (sTile 3 0 0).choice.k) && decide ((me (sTile 3 0 0)).mx.active.mode = 0) && decide ((me (sTile 3 0 0)).mx.active.spn = 0) && decide ((me (sTile 3 0 0)).mx.active.fa = 5) && (match (me (sTile 3 0 0)).mx.red with | some r'4 => decide (r'4.step < (level (me (sTile 3 0 0)).mx.active 0).trip.toNat) && decide (missingUnit (me (sTile 3 0 0)).mx r'4 r'4.step = none) && true | _ => false)) = true) ∧
    ((decide ((me (sTile 1 0 1)).run.live = true) && decide ((me (sTile 1 0 1)).run.dstop = false) && decide (tileHeld (me (sTile 1 0 1)) = false) && decide ((sTile 1 0 1).choice.n ∈ operands (me (sTile 1 0 1)).mx.active) && decide (0 < (sTile 1 0 1).choice.k) && decide ((sTile 1 0 1).choice.k ≤ 2) && (match (me (sTile 1 0 1)).mx.red with | some r'5 => decide (r'5.step + (sTile 1 0 1).choice.k < (level (me (sTile 1 0 1)).mx.active 0).trip.toNat) && decide (fetched r'5 (sTile 1 0 1).choice.n (r'5.step + (sTile 1 0 1).choice.k) (sTile 1 0 1).choice.m = false) && decide (partOf r'5 (sTile 1 0 1).choice.n (r'5.step + (sTile 1 0 1).choice.k) (sTile 1 0 1).choice.m = { opnd := (sTile 1 0 1).choice.n, step := r'5.step + (sTile 1 0 1).choice.k, unit := (sTile 1 0 1).choice.m : TLine }) && (match (tileRuns (me (sTile 1 0 1)).mx r'5 (sTile 1 0 1).choice.n (r'5.step + (sTile 1 0 1).choice.k))[(sTile 1 0 1).choice.m]? with | some run'6 => (match locate (sTile 1 0 1) (redSlot r'5 (sTile 1 0 1).choice.n) (elemN (redSlot r'5 (sTile 1 0 1).choice.n) (originOf (me (sTile 1 0 1)).mx.active (redSlot r'5 (sTile 1 0 1).choice.n) (sTile 1 0 1).choice.n (idxAt (me (sTile 1 0 1)).mx (r'5.step + (sTile 1 0 1).choice.k))) run'6.row (coordAt (redSlot r'5 (sTile 1 0 1).choice.n) (originOf (me (sTile 1 0 1)).mx.active (redSlot r'5 (sTile 1 0 1).choice.n) (sTile 1 0 1).choice.n (idxAt (me (sTile 1 0 1)).mx (r'5.step + (sTile 1 0 1).choice.k))) 0 run'6.e) / 2) Acc.read Seq.matrix with | (Except.ok (Loc.spad _ _), _) => true | _ => false) | _ => false) | _ => false)) = true) := by
  refine ⟨?_, ?_, ?_, ?_⟩ <;> decide +kernel

/-- Obligations.MatrixRetirementAndDrains: hypotheses met together. -/
theorem witness_MatrixRetirementAndDrains_part1 :
    ((decide ((me (sRetire 2 0 false)).run.live = true) && decide ((me (sRetire 2 0 false)).run.dstop = false) && decide ((me (sRetire 2 0 false)).mx.active.mode ≠ 2) && (match (me (sRetire 2 0 false)).mx.red with | some r'0 => decide ((level (me (sRetire 2 0 false)).mx.active 0).trip.toNat ≤ r'0.step) && decide (r'0.poison = false) && decide (r'0.bad = false) && decide ((bankOf (me (sRetire 2 0 false)).mx r'0.bank).poison = false) && decide (r'0.closed = false) && true | _ => false)) = true) ∧
    ((decide ((me (sRetire 2 2 true)).run.live = true) && decide ((me (sRetire 2 2 true)).run.dstop = false) && decide ((me (sRetire 2 2 true)).me.st ≠ EngSt.ending) && decide ((me (sRetire 2 2 true)).csr.sup = false) && decide ((me (sRetire 2 2 true)).pend = none) && (match (me (sRetire 2 2 true)).mx.red with | some r'0 => decide ((level (me (sRetire 2 2 true)).mx.active 0).trip.toNat ≤ r'0.step) && decide (r'0.poison = true) && true | _ => false)) = true) ∧
    ((decide (gangAborted (sDrain true) (me (sDrain true)) = false) && (match oldestHeld (me (sDrain true)).mx with | some _ => true | _ => false)) = true) ∧
    ((decide (gangAborted (sDrain true) (me (sDrain true)) = false) && decide (1 ≠ 2) && decide ((chanOf (me (sDrain true)) 2).length < 8) && (match oldestHeld (me (sDrain true)).mx with | some b'5 => decide ((bankOf (me (sDrain true)).mx b'5).poison = false) && (match captureC (sDrain true) (1 == 1) with | Except.ok _ => true | _ => false) | _ => false)) = true) ∧
    ((gangAborted (sDrain false) (me (sDrain false)) = false) ∧ (oldestHeld (me (sDrain false)).mx = none) ∧ ((me (sDrain false)).mx.live = false)) ∧
    ((decide ((bankOf (me sDrainRead).mx true).taken = true) && decide ((bankOf (me sDrainRead).mx true).poison = false) && (match chanOf (me sDrainRead) (BitVec.ofNat 2 sDrainRead.choice.n) with | x'7 :: _ => (match x'7.kind with | CKind.drain false (1) _ _ none => true | _ => false) | _ => false)) = true) := by
  refine ⟨?_, ?_, ?_, ?_, ?_, ?_⟩ <;> decide +kernel

/-- Obligations.MatrixRetirementAndDrains: hypotheses met together. -/
theorem witness_MatrixRetirementAndDrains_part2 :
    ((gangAborted (sRetire 2 0 false) (me (sRetire 2 0 false)) = false) ∧ (false = true → (me (sRetire 2 0 false)).mx.bank0.st ≠ BankSt.active) ∧ (false = true → (me (sRetire 2 0 false)).mx.bank1.st ≠ BankSt.active)) ∧
    ((decide (engineRuns (me sMatLate) = true) && decide (gangAborted sMatLate (me sMatLate) = false) && decide (escalates (me sMatLate) = false) && decide ((me sMatLate).mx.red = none) && decide (nestWaitOver (me sMatLate) = false) && (match (me sMatLate).mx.wait with | some (t0'15, dl'16) => decide (0 < dl'16) && decide (dl'16 ≤ BitVec.toNat ((me sMatLate).ctc - t0'15)) && true | _ => false)) = true) := by
  refine ⟨?_, ?_⟩ <;> decide +kernel

/-- Obligations.CopyWordsEnqueue: hypotheses met together. -/
theorem witness_CopyWordsEnqueue_part1 :
    (((chanOf (me sCopy) (1 : BitVec 2)).length < 8) ∧ (slotsClean sCopy [(1 : BitVec 6), (2 : BitVec 6), (4 : BitVec 6)] = Except.ok ()) ∧ (checkCopy sCopy (slotOf (me sCopy) (BitVec.toNat (1 : BitVec 6))) (slotOf (me sCopy) (BitVec.toNat (2 : BitVec 6))) true = Except.ok ())) ∧
    (((chanOf (me sCopy) (1 : BitVec 2)).length < 8) ∧ (slotsClean sCopy [(3 : BitVec 6), (2 : BitVec 6), (4 : BitVec 6)] = Except.ok ()) ∧ (checkAdd sCopy (slotOf (me sCopy) (BitVec.toNat (3 : BitVec 6))) (slotOf (me sCopy) (BitVec.toNat (2 : BitVec 6))) = Except.ok ())) ∧
    (((chanOf (me sCopy) (1 : BitVec 2)).length < 8) ∧ (slotsClean sCopy [(1 : BitVec 6), (2 : BitVec 6), (4 : BitVec 6)] = Except.ok ()) ∧ (checkIndexed sCopy (slotOf (me sCopy) (BitVec.toNat (1 : BitVec 6))) (slotOf (me sCopy) (BitVec.toNat (2 : BitVec 6))) (slotOf (me sCopy) (BitVec.toNat (4 : BitVec 6))) true true = Except.ok ())) ∧
    (((chanOf (me sCopy) (1 : BitVec 2)).length < 8) ∧ (slotsClean sCopy [(1 : BitVec 6), (2 : BitVec 6), (4 : BitVec 6)] = Except.ok ()) ∧ (checkIndexed sCopy (slotOf (me sCopy) (BitVec.toNat (1 : BitVec 6))) (slotOf (me sCopy) (BitVec.toNat (2 : BitVec 6))) (slotOf (me sCopy) (BitVec.toNat (4 : BitVec 6))) false false = Except.ok ())) ∧
    ((decide ((chanOf (me sCopy) (1 : BitVec 2)).length < 8) && decide (slotsClean sCopy [(1 : BitVec 6), (2 : BitVec 6), (4 : BitVec 6)] = Except.ok ()) && decide (checkFill sCopy (slotOf (me sCopy) (BitVec.toNat (1 : BitVec 6))) true = Except.ok ()) && (match plainRead Seq.copy 1 sCopy (paramAt (me sCopy) (BitVec.toNat (1 : BitVec 10))) with | (PRead.ok _, _) => true | _ => false)) = true) ∧
    (((chanOf (me sCopy) (1 : BitVec 2)).length < 8) ∧ (slotsClean sCopy [(1 : BitVec 6), (2 : BitVec 6), (4 : BitVec 6)] = Except.ok ()) ∧ (useSlots sCopy [slotOf (me sCopy) (BitVec.toNat (1 : BitVec 6))] = Except.ok ())) := by
  refine ⟨?_, ?_, ?_, ?_, ?_, ?_⟩ <;> decide +kernel

/-- Obligations.CopyWordsEnqueue: hypotheses met together. -/
theorem witness_CopyWordsEnqueue_part2 :
    (((chanOf (me sCopy) (1 : BitVec 2)).length < 8) ∧ (slotsClean sCopy [(5 : BitVec 6), (2 : BitVec 6), (4 : BitVec 6)] = Except.ok ()) ∧ (tValid (slotOf (me sCopy) (BitVec.toNat (5 : BitVec 6))) = true) ∧ ((ownTht sCopy (ctxOf sCopy) (tHandle (slotOf (me sCopy) (BitVec.toNat (5 : BitVec 6))))).isSome = true)) ∧
    (((chanOf (me sCopy) (1 : BitVec 2)).length < 8) ∧ (slotsClean sCopy [(6 : BitVec 6), (2 : BitVec 6), (4 : BitVec 6)] = Except.ok ()) ∧ (tValid (slotOf (me sCopy) (BitVec.toNat (6 : BitVec 6))) = false) ∧ ((me sCopy).csr.sup = false) ∧ ((me sCopy).pend = none)) ∧
    (((chanOf (me sCopyBad) (1 : BitVec 2)).length < 8) ∧ ((me sCopyBad).cp.bad.getLsbD (BitVec.toNat (1 : BitVec 6)) = true) ∧ ((me sCopyBad).csr.sup = false) ∧ ((me sCopyBad).pend = none)) := by
  refine ⟨?_, ?_, ?_⟩ <;> decide +kernel

/-- Obligations.CopyCommandSteps: hypotheses met together. -/
theorem witness_CopyCommandSteps :
    ((decide (sFillStep.choice.m = 0) && decide (sFillStep.choice.flag = false) && decide (mayStep (me sFillStep) (chNo sFillStep.choice.n) 0 false = true) && decide (queued (me sFillStep) (chNo sFillStep.choice.n) < 64) && (match chanOf (me sFillStep) (chNo sFillStep.choice.n) with | x'0 :: _ => decide (x'0.acq = false) && decide (x'0.rd < unitsOf x'0) && (match x'0.kind with | CKind.fill (some _) _ => true | _ => false) | _ => false)) = true) ∧
    ((decide ((sWrite 0).choice.m = 0) && decide ((sWrite 0).choice.flag = true) && decide (mayStep (me (sWrite 0)) (chNo (sWrite 0).choice.n) 0 true = true) && (match chanOf (me (sWrite 0)) (chNo (sWrite 0).choice.n) with | x'0 :: _ => decide (alone x'0 = false) && decide (x'0.kind ≠ CKind.add) && decide (isDrain x'0 = false) && (match x'0.buf with | it'2 :: _ => decide (it'2.data ≠ []) && decide (heldPage (sWrite 0) x'0 (it'2.at_ + x'0.part) = none) && (match locate (sWrite 0) x'0.td (it'2.at_ + x'0.part) Acc.write Seq.copy with | (Except.ok (Loc.pa _), _) => true | _ => false) | _ => false) | _ => false)) = true) ∧
    ((decide (chansRun (me (sDone 0)) = true) && (match chanOf (me (sDone 0)) (chNo (sDone 0).choice.n) with | x'0 :: _ => decide (sent x'0 = true) && decide (tileUnread x'0 = false) && decide (servedAll (sDone 0) x'0 = true) && true | _ => false)) = true) ∧
    ((decide (chansRun (me sChanHeld) = true) && decide (gangAborted sChanHeld (me sChanHeld) = false) && decide (heldAtPage sChanHeld (chNo sChanHeld.choice.n) = false) && decide (isHeld (me sChanHeld) (HeldAt.chan (chNo sChanHeld.choice.n).toNat) = true) && (match waitingCmd (me sChanHeld) (chNo sChanHeld.choice.n) with | some (i'6, x'0) => decide (i'6 < (chanOf (me sChanHeld) (chNo sChanHeld.choice.n)).length) && decide (x'0.kind = CKind.copy) && (match x'0.wait with | some t0'7 => decide (x'0.wdl ≤ BitVec.toNat ((me sChanHeld).ctc - t0'7)) && true | _ => false) | _ => false)) = true) ∧
    ((decide (chansRun (me (sChanLate true true)) = true) && decide (gangAborted (sChanLate true true) (me (sChanLate true true)) = false) && decide (heldAtPage (sChanLate true true) (chNo (sChanLate true true).choice.n) = true) && (match waitingCmd (me (sChanLate true true)) (chNo (sChanLate true true).choice.n) with | some (i'6, x'0) => decide (i'6 < (chanOf (me (sChanLate true true)) (chNo (sChanLate true true).choice.n)).length) && decide (x'0.kind = CKind.copy) && decide (x'0.held = true) && (match x'0.wait with | some t0'8 => decide (x'0.wdl ≤ BitVec.toNat ((me (sChanLate true true)).ctc - t0'8)) && true | _ => false) | _ => false)) = true) := by
  refine ⟨?_, ?_, ?_, ?_, ?_⟩ <;> decide +kernel

/-- Obligations.TensorMoves: hypotheses met together. -/
theorem witness_TensorMoves :
    ((movesRun sClaim = true) ∧ (0 < 4) ∧ (served sClaim 0 false < 4) ∧ ((List.range 0).all (fun k => decide (4 ≤ served sClaim k false)) = true) ∧ (7 < 2 ^ 32) ∧ ((7, thtQ) ∈ unclaimed sClaim) ∧ (∀ y ∈ unclaimed sClaim, y ≠ (7, thtQ) → moveBefore (7, thtQ) y = true)) ∧
    ((decide ((sCommit 0).choice.n = 7) && decide (7 < 2 ^ 32) && decide (tblGet none (sCommit 0).tht 7 = some (thtC 0)) && decide (mayCommit (sCommit 0) 7 (thtC 0) = true) && decide ((thtC 0).dead = false) && decide (linesOk (sCommit 0).ms = true) && decide (∀ k ∈ (sCommit 0).holds, ¬(BitVec.toNat k.h = 7 ∧ k.page = (thtC 0).f)) && decide ((thtC 0).f + 1 < (thtC 0).npages) && decide (listGet 0 (thtC 0).oldp (thtC 0).f < 2 ^ 34) && decide (listGet 0 (thtC 0).oldp (thtC 0).f ≠ listGet 0 (thtC 0).newp (thtC 0).f) && decide (listGet 0 (thtC 0).newp (thtC 0).f < 2 ^ 34) && (match (thtC 0).claim with | Claim.tce _ _ => true | _ => false)) = true) ∧
    ((decide ((sCommit 1).choice.n = 7) && decide (7 < 2 ^ 32) && decide (tblGet none (sCommit 1).tht 7 = some (thtC 1)) && decide (mayCommit (sCommit 1) 7 (thtC 1) = true) && decide ((thtC 1).dead = false) && decide (linesOk (sCommit 1).ms = true) && decide (∀ k ∈ (sCommit 1).holds, ¬(BitVec.toNat k.h = 7 ∧ k.page = (thtC 1).f)) && decide ((thtC 1).npages ≤ (thtC 1).f + 1) && decide (listGet 0 (thtC 1).oldp (thtC 1).f < 2 ^ 34) && decide (listGet 0 (thtC 1).oldp (thtC 1).f ≠ listGet 0 (thtC 1).newp (thtC 1).f) && decide (listGet 0 (thtC 1).newp (thtC 1).f < 2 ^ 34) && decide (listGet 0 (thtC 1).newp (thtC 1).f ∉ (thtC 1).oldp) && (match (thtC 1).claim with | Claim.tce _ _ => true | _ => false)) = true) ∧
    ((decide (sPass.choice.n = 7) && decide (7 < 2 ^ 32) && decide (tblGet none sPass.tht 7 = some thtP) && (match thtP.claim with | Claim.chan ex'5 ch'6 => decide (ex'5 < 288) && decide (moveCmd (coreAt sPass ex'5) (chNo ch'6) 7 = none) && true | _ => false)) = true) ∧
    ((sClaim.dev.halvings < BitVec.toNat sClaim.gtc / 1000000)) := by
  refine ⟨?_, ?_, ?_, ?_, ?_⟩ <;> decide +kernel

/-- Obligations.SlotLoads: hypotheses met together. -/
theorem witness_SlotLoads :
    (((me (sXl none [])).cp.xload = none)) ∧
    ((decide (engWaits (sXl (some { t := 2, pw := 65600, n := 1, patch := some (7, true), ch := 1 : XLoad }) twoMem) Seq.copy = true) && decide (isHeld (me (sXl (some { t := 2, pw := 65600, n := 1, patch := some (7, true), ch := 1 : XLoad }) twoMem)) HeldAt.xparam = false) && (match (me (sXl (some { t := 2, pw := 65600, n := 1, patch := some (7, true), ch := 1 : XLoad }) twoMem)).cp.xload with | some x'7 => decide (tValid (slotOf (me (sXl (some { t := 2, pw := 65600, n := 1, patch := some (7, true), ch := 1 : XLoad }) twoMem)) x'7.t) = true) && (match plainRead Seq.copy 1 (sXl (some { t := 2, pw := 65600, n := 1, patch := some (7, true), ch := 1 : XLoad }) twoMem) x'7.pw with | (PRead.ok bs'9, s'8) => decide (slotsClean s'8 [BitVec.ofNat 6 x'7.t] = Except.ok ()) && (match x'7.patch with | some (f'10, add'11) => decide (1 < f'10) && decide (f'10 ≤ 20) && decide (checkTsr s'8 (curEng s'8 Seq.copy) (patched (slotOf (me (sXl (some { t := 2, pw := 65600, n := 1, patch := some (7, true), ch := 1 : XLoad }) twoMem)) x'7.t) f'10 add'11 (field64 bs'9 0 8)) = Except.ok ()) && true | _ => false) | _ => false) | _ => false)) = true) ∧
    ((decide (engWaits (sXl (some { t := 2, pw := 65600, n := 1, ch := 1 : XLoad }) recMem) Seq.copy = true) && decide (isHeld (me (sXl (some { t := 2, pw := 65600, n := 1, ch := 1 : XLoad }) recMem)) HeldAt.xparam = false) && (match (me (sXl (some { t := 2, pw := 65600, n := 1, ch := 1 : XLoad }) recMem)).cp.xload with | some x'7 => decide (x'7.patch = none) && (match plainRead Seq.copy 1 (sXl (some { t := 2, pw := 65600, n := 1, ch := 1 : XLoad }) recMem) x'7.pw with | (PRead.ok bs'9, s'8) => decide (BitVec.toNat (field64 bs'9 0 8) % 64 = 0) && (match plainRead Seq.copy 8 s'8 (field64 bs'9 0 8 + BitVec.ofNat 64 (64 * x'7.n)) with | (PRead.ok b'12, s'13) => decide (checkTsr s'13 (curEng s'13 Seq.copy) b'12 = Except.ok ()) && true | _ => false) | _ => false) | _ => false)) = true) ∧
    ((decide (engineRuns (me (sXl (some { t := 2, pw := 65600, n := 1, patch := some (7, true), ch := 1 : XLoad }) twoMem)) = true) && decide ((me (sXl (some { t := 2, pw := 65600, n := 1, patch := some (7, true), ch := 1 : XLoad }) twoMem)).xe.st = EngSt.running) && decide (gangAborted (sXl (some { t := 2, pw := 65600, n := 1, patch := some (7, true), ch := 1 : XLoad }) twoMem) (me (sXl (some { t := 2, pw := 65600, n := 1, patch := some (7, true), ch := 1 : XLoad }) twoMem)) = false) && (match (me (sXl (some { t := 2, pw := 65600, n := 1, patch := some (7, true), ch := 1 : XLoad }) twoMem)).cp.xload with | some x'14 => decide ((slotOf (me (sXl (some { t := 2, pw := 65600, n := 1, patch := some (7, true), ch := 1 : XLoad }) twoMem)) x'14.t).length = 64) && (match (me (sXl (some { t := 2, pw := 65600, n := 1, patch := some (7, true), ch := 1 : XLoad }) twoMem)).xe.wait with | some (t0'15, dl'16) => decide (dl'16 ≤ BitVec.toNat ((me (sXl (some { t := 2, pw := 65600, n := 1, patch := some (7, true), ch := 1 : XLoad }) twoMem)).ctc - t0'15)) && true | _ => false) | _ => false)) = true) := by
  refine ⟨?_, ?_, ?_, ?_⟩ <;> decide +kernel

/-- Obligations.Streams, its part CopyStreams: hypotheses met together. -/
theorem witness_CopyStreams :
    (((me (sBindX 3 false)).xe.wait = none) ∧ (cleanThen (sBindX 3 false) [(2 : BitVec 6)] (checkBind (sBindX 3 false) (curEng (sBindX 3 false) Seq.copy) (BitVec.toNat (2 : BitVec 6))) = Except.ok ()) ∧ (strmCount (unbindStrm (me (sBindX 3 false)) (BitVec.toNat (2 : BitVec 4))) (1 : BitVec 2) < 4) ∧ (gangAborted (sBindX 3 false) (me (sBindX 3 false)) = false)) ∧
    ((decide (engWaits (sBindX 4 true) Seq.copy = true) && decide (curInstr (sBindX 4 true) Seq.copy = some (Instr.xstrm (7 : BitVec 4) (2 : BitVec 6) (1 : BitVec 2))) && decide (gangAborted (sBindX 4 true) (me (sBindX 4 true)) = false) && decide (4 ≤ strmCount (me (sBindX 4 true)) (1 : BitVec 2)) && (match (me (sBindX 4 true)).xe.wait with | some (t0'0, dl'1) => decide (dl'1 ≤ BitVec.toNat ((me (sBindX 4 true)).ctc - t0'0)) && true | _ => false)) = true) ∧
    ((decide (∀ p ∈ (me (sRowIn 7 slotF)).parts, p.at_ ≠ HeldAt.strm (sRowIn 7 slotF).choice.n) && (match strmAt (me (sRowIn 7 slotF)) (sRowIn 7 slotF).choice.n with | some b'2 => decide (strmMay (me (sRowIn 7 slotF)) b'2.ch = true) && decide (0 < strmInFlight b'2) && decide (gOut (strmRow b'2.slot (strmArrived b'2)).1 = true ∨ rowLen b'2.slot (strmRow b'2.slot (strmArrived b'2)).1 (strmRow b'2.slot (strmArrived b'2)).2 = 0) && true | _ => false)) = true) ∧
    (((match strmAt (me (sRowIn 1 slotF)) (sRowIn 1 slotF).choice.n with | some b'2 => decide (strmMay (me (sRowIn 1 slotF)) b'2.ch = true) && decide (0 < strmInFlight b'2) && decide (gOut (strmRow b'2.slot (strmArrived b'2)).1 = false) && (match readWide (sRowIn 1 slotF) (HeldAt.strm (sRowIn 1 slotF).choice.n) b'2.bind b'2.slot (rowAddr b'2.slot (strmRow b'2.slot (strmArrived b'2)).1 (strmRow b'2.slot (strmArrived b'2)).2 0) (elemBytes (tFmt b'2.slot) (rowLen b'2.slot (strmRow b'2.slot (strmArrived b'2)).1 (strmRow b'2.slot (strmArrived b'2)).2)) with | (Except.ok (some _), _) => true | _ => false) | _ => false)) = true) ∧
    (((match strmAt (me sRowCut) sRowCut.choice.n with | some b'2 => decide (strmMay (me sRowCut) b'2.ch = true) && decide (0 < strmInFlight b'2) && decide (gOut (strmRow b'2.slot (strmArrived b'2)).1 = false) && (match readWide sRowCut (HeldAt.strm sRowCut.choice.n) b'2.bind b'2.slot (rowAddr b'2.slot (strmRow b'2.slot (strmArrived b'2)).1 (strmRow b'2.slot (strmArrived b'2)).2 0) (elemBytes (tFmt b'2.slot) (rowLen b'2.slot (strmRow b'2.slot (strmArrived b'2)).1 (strmRow b'2.slot (strmArrived b'2)).2)) with | (Except.ok none, _) => true | _ => false) | _ => false)) = true) := by
  refine ⟨?_, ?_, ?_, ?_, ?_⟩ <;> decide +kernel

/-- Obligations.VectorWaitExpiries: hypotheses met together. -/
theorem witness_VectorWaitExpiries :
    ((decide ((me (sVWait (WFor.stream [3, 771]))).ve.st = EngSt.running) && decide (engineRuns (me (sVWait (WFor.stream [3, 771]))) = true) && decide (Seq.vector ≠ Seq.control) && decide (gangAborted (sVWait (WFor.stream [3, 771])) (me (sVWait (WFor.stream [3, 771]))) = false) && decide (escalates (me (sVWait (WFor.stream [3, 771]))) = false) && (match (engOf (me (sVWait (WFor.stream [3, 771]))) Seq.vector).wait with | some (t0'2, dl'3) => decide (0 < dl'3) && decide (dl'3 ≤ BitVec.toNat ((me (sVWait (WFor.stream [3, 771]))).ctc - t0'2)) && (match (me (sVWait (WFor.stream [3, 771]))).ve.wfor with | WFor.stream srcs'0 => (match takeRows (me (sVWait (WFor.stream [3, 771]))).ve srcs'0 0 (me (sVWait (WFor.stream [3, 771]))) with | Except.error (_, false) => true | _ => false) | _ => false) | _ => false)) = true) ∧
    ((decide ((me (sVWait WFor.tag)).ve.st = EngSt.running) && decide (engineRuns (me (sVWait WFor.tag)) = true) && decide (Seq.vector ≠ Seq.control) && decide (gangAborted (sVWait WFor.tag) (me (sVWait WFor.tag)) = false) && decide (escalates (me (sVWait WFor.tag)) = false) && decide ((me (sVWait WFor.tag)).ve.wfor = WFor.tag) && decide ((myTag (me (sVWait WFor.tag)) Seq.vector).isSome = true) && decide (tagDone (me (sVWait WFor.tag)) Seq.vector = false) && decide ((me (sVWait WFor.tag)).ve.tdead = false) && (match (engOf (me (sVWait WFor.tag)) Seq.vector).wait with | some (t0'2, dl'3) => decide (0 < dl'3) && decide (dl'3 ≤ BitVec.toNat ((me (sVWait WFor.tag)).ctc - t0'2)) && true | _ => false)) = true) ∧
    ((decide ((me (sVWait (WFor.gather [20] false))).ve.st = EngSt.running) && decide (engineRuns (me (sVWait (WFor.gather [20] false))) = true) && decide (Seq.vector ≠ Seq.control) && decide (gangAborted (sVWait (WFor.gather [20] false)) (me (sVWait (WFor.gather [20] false))) = false) && decide (escalates (me (sVWait (WFor.gather [20] false))) = false) && (match (engOf (me (sVWait (WFor.gather [20] false))) Seq.vector).wait with | some (t0'3, dl'4) => decide (0 < dl'4) && decide (dl'4 ≤ BitVec.toNat ((me (sVWait (WFor.gather [20] false))).ctc - t0'3)) && (match (me (sVWait (WFor.gather [20] false))).ve.wfor with | WFor.gather regs'2 false => decide (regs'2.any (pendingReg (showGathers regs'2 (me (sVWait (WFor.gather [20] false))).vec)) = true) && true | _ => false) | _ => false)) = true) ∧
    ((decide ((me (sVWait WFor.param)).ve.st = EngSt.running) && decide (engineRuns (me (sVWait WFor.param)) = true) && decide (Seq.vector ≠ Seq.control) && decide (gangAborted (sVWait WFor.param) (me (sVWait WFor.param)) = false) && decide (escalates (me (sVWait WFor.param)) = false) && decide ((me (sVWait WFor.param)).ve.wfor = WFor.param) && decide ((me (sVWait WFor.param)).vec.vload.isSome = true) && (match (engOf (me (sVWait WFor.param)) Seq.vector).wait with | some (t0'3, dl'4) => decide (0 < dl'4) && decide (dl'4 ≤ BitVec.toNat ((me (sVWait WFor.param)).ctc - t0'3)) && true | _ => false)) = true) := by
  refine ⟨?_, ?_, ?_, ?_⟩ <;> decide +kernel

/-- Obligations.RoutingWordsEnqueue: hypotheses met together. -/
theorem witness_RoutingWordsEnqueue :
    (((chanOf (me (sRouteWord 65664 ratD)) (1 : BitVec 2)).length < 8) ∧ (slotsClean (sRouteWord 65664 ratD) [(1 : BitVec 6), (6 : BitVec 6)] = Except.ok ()) ∧ (routeSlots (sRouteWord 65664 ratD) [slotOf (me (sRouteWord 65664 ratD)) (BitVec.toNat (1 : BitVec 6)), slotOf (me (sRouteWord 65664 ratD)) (BitVec.toNat (6 : BitVec 6))] = Except.ok ()) ∧ (2 ≤ tRank (slotOf (me (sRouteWord 65664 ratD)) (BitVec.toNat (1 : BitVec 6)))) ∧ (tFmt (slotOf (me (sRouteWord 65664 ratD)) (BitVec.toNat (1 : BitVec 6))) ≠ 4) ∧ (tBox (slotOf (me (sRouteWord 65664 ratD)) (BitVec.toNat (1 : BitVec 6))) 1 ≤ 128) ∧ (tFmt (slotOf (me (sRouteWord 65664 ratD)) (BitVec.toNat (6 : BitVec 6))) = 5) ∧ (tRank (slotOf (me (sRouteWord 65664 ratD)) (BitVec.toNat (6 : BitVec 6))) = 2) ∧ (tBox (slotOf (me (sRouteWord 65664 ratD)) (BitVec.toNat (6 : BitVec 6))) 0 = 64) ∧ (tBox (slotOf (me (sRouteWord 65664 ratD)) (BitVec.toNat (6 : BitVec 6))) 1 = tBox (slotOf (me (sRouteWord 65664 ratD)) (BitVec.toNat (1 : BitVec 6))) 1)) ∧
    (((chanOf (me (sRouteWord 65664 ratD)) (1 : BitVec 2)).length < 8) ∧ (slotsClean (sRouteWord 65664 ratD) [(1 : BitVec 6)] = Except.ok ()) ∧ (routeSlots (sRouteWord 65664 ratD) [slotOf (me (sRouteWord 65664 ratD)) (BitVec.toNat (1 : BitVec 6))] = Except.ok ()) ∧ (tFmt (slotOf (me (sRouteWord 65664 ratD)) (BitVec.toNat (1 : BitVec 6))) = 6) ∧ (2 ≤ tRank (slotOf (me (sRouteWord 65664 ratD)) (BitVec.toNat (1 : BitVec 6))))) ∧
    (((chanOf (me (sRouteWord 65664 ratD)) (1 : BitVec 2)).length < 8)) ∧
    ((decide ((chanOf (me (sRouteWord 65664 ratD)) (1 : BitVec 2)).length < 8) && decide (isHeld (me (sRouteWord 65664 ratD)) HeldAt.xparam = false) && (match readDesc (paramAt (me (sRouteWord 65664 ratD)) (BitVec.toNat (0 : BitVec 10))) false (sRouteWord 65664 ratD) with | (PRead.ok b'0, _) => decide (ratOk (List.drop 8 b'0) = true) && true | _ => false)) = true) ∧
    ((decide ((chanOf (me (sRouteWord 65664 ringD)) (1 : BitVec 2)).length < 8) && decide (isHeld (me (sRouteWord 65664 ringD)) HeldAt.xparam = false) && (match readDesc (paramAt (me (sRouteWord 65664 ringD)) (BitVec.toNat (0 : BitVec 10))) true (sRouteWord 65664 ringD) with | (PRead.ok b'0, _) => decide (8 < b'0.length → ringOk (List.drop 8 b'0) = true) && true | _ => false)) = true) ∧
    ((decide ((chanOf (me (sRouteWord 65664 collD)) (1 : BitVec 2)).length < 8) && decide (isHeld (me (sRouteWord 65664 collD)) HeldAt.xparam = false) && (match readColl (paramAt (me (sRouteWord 65664 collD)) (BitVec.toNat (0 : BitVec 10))) (sRouteWord 65664 collD) with | (PRead.ok _, _) => true | _ => false)) = true) := by
  refine ⟨?_, ?_, ?_, ?_, ?_, ?_⟩ <;> decide +kernel

/-- Obligations.RoutingArrivals: hypotheses met together. -/
theorem witness_RoutingArrivals_part1 :
    ((decide (List.find? (fun (y : Msg) => y.id == (sMsg placeK none []).choice.n && y.dst == ↑(sMsg placeK none []).ex) (sMsg placeK none []).msgs = some (msgA placeK)) && (match (msgA placeK).kind with | MsgKind.place n'0 _ _ _ _ _ => decide (heldAway (sMsg placeK none []) (msgA placeK) n'0 = false) && decide (mayAdmit (sMsg placeK none []) (msgA placeK) n'0 = true) && decide (ringAt (me (sMsg placeK none [])) n'0 = none) && true | _ => false)) = true) ∧
    ((decide (List.find?     (fun (y : Msg) =>       y.id ==           (sMsg placeK                 (some                   (let __src := ringR 1;                   { desc := __src.desc, ctx := 9, win := __src.win, occ := __src.occ, ticks := __src.ticks, first := __src.first, closed := __src.closed, held := __src.held, at_ := __src.at_ : Machine.Ring }))                 []).choice.n &&         y.dst ==           ↑(sMsg placeK                 (some                   (let __src := ringR 1;                   { desc := __src.desc, ctx := 9, win := __src.win, occ := __src.occ, ticks := __src.ticks, first := __src.first, closed := __src.closed, held := __src.held, at_ := __src.at_ : Machine.Ring }))                 []).ex)     (sMsg placeK         (some           (let __src := ringR 1;           { desc := __src.desc, ctx := 9, win := __src.win, occ := __src.occ, ticks := __src.ticks, first := __src.first, closed := __src.closed, held := __src.held, at_ := __src.at_ : Machine.Ring }))         []).msgs =   some (msgA placeK)) && (match (msgA placeK).kind with | MsgKind.place n'0 cap'1 _ hdr'3 payload'4 _ => decide (heldAway     (sMsg placeK       (some         (let __src := ringR 1;         { desc := __src.desc, ctx := 9, win := __src.win, occ := __src.occ, ticks := __src.ticks, first := __src.first, closed := __src.closed, held := __src.held, at_ := __src.at_ : Machine.Ring }))       [])     (msgA placeK) n'0 =   false) && decide (mayAdmit     (sMsg placeK       (some         (let __src := ringR 1;         { desc := __src.desc, ctx := 9, win := __src.win, occ := __src.occ, ticks := __src.ticks, first := __src.first, closed := __src.closed, held := __src.held, at_ := __src.at_ : Machine.Ring }))       [])     (msgA placeK) n'0 =   true) && (match ringAt   (me     (sMsg placeK       (some         (let __src := ringR 1;         { desc := __src.desc, ctx := 9, win := __src.win, occ := __src.occ, ticks := __src.ticks, first := __src.first, closed := __src.closed, held := __src.held, at_ := __src.at_ : Machine.Ring }))       []))   n'0 with | some r'6 => decide ((msgA placeK).ctx ≠ r'6.ctx ∨   resident         (me           (sMsg placeK             (some               (let __src := ringR 1;               { desc := __src.desc, ctx := 9, win := __src.win, occ := __src.occ, ticks := __src.ticks, first := __src.first, closed := __src.closed, held := __src.held, at_ := __src.at_ : Machine.Ring }))             [])) =       false ∨     hdr'3.expert.toNat ≠ ringExpert r'6.desc ∨ ringSlot r'6.desc - 64 < payload'4.length ∨ min cap'1 (ringNslot r'6.desc) ≤ r'6.occ.length ∧ victim r'6 hdr'3.gate = none) && true | _ => false) | _ => false)) = true) ∧
    ((decide (List.find? (fun (y : Msg) => y.id == (sMsg placeK (some (ringR 1)) []).choice.n && y.dst == ↑(sMsg placeK (some (ringR 1)) []).ex) (sMsg placeK (some (ringR 1)) []).msgs = some (msgA placeK)) && decide (resident (me (sMsg placeK (some (ringR 1)) [])) = true) && (match (msgA placeK).kind with | MsgKind.place n'0 cap'1 _ hdr'3 payload'4 marks'5 => decide (heldAway (sMsg placeK (some (ringR 1)) []) (msgA placeK) n'0 = false) && decide (mayAdmit (sMsg placeK (some (ringR 1)) []) (msgA placeK) n'0 = true) && (match ringAt (me (sMsg placeK (some (ringR 1)) [])) n'0 with | some r'7 => decide ((msgA placeK).ctx = r'7.ctx) && decide (hdr'3.expert.toNat = ringExpert r'7.desc) && decide (payload'4.length ≤ ringSlot r'7.desc - 64) && decide (r'7.occ.length < min cap'1 (ringNslot r'7.desc) ∧ 1 = freeSlot r'7 ∧ noOut = none ∨ min cap'1 (ringNslot r'7.desc) ≤ r'7.occ.length ∧ ∃ (v : ℕ × Hdr), victim r'7 hdr'3.gate = some v ∧ 1 = v.1 ∧ noOut = some v) && (match if r'7.held = some (msgA placeK).id ∧ liesIn r'7.at_ (slotVa r'7.desc r'7.win 1 + 64) payload'4.length = true then (Except.ok (), sMsg placeK (some (ringR 1)) []) else ringWrite (sMsg placeK (some (ringR 1)) []) n'0 r'7 (msgA placeK) (slotVa r'7.desc r'7.win 1) (hdrBytes ({ hdr'3 with gtc := (sMsg placeK (some (ringR 1)) []).gtc } : Hdr)) [] with | (Except.ok (), s1'10) => (match ringWrite s1'10 n'0 r'7 (msgA placeK) (slotVa r'7.desc r'7.win 1 + 64) payload'4 marks'5 with | (Except.ok (), _) => true | _ => false) | _ => false) | _ => false) | _ => false)) = true) ∧
    ((decide (List.find? (fun (y : Msg) => y.id == (sMsg (MsgKind.answer hdrA 0) none []).choice.n && y.dst == ↑(sMsg (MsgKind.answer hdrA 0) none []).ex) (sMsg (MsgKind.answer hdrA 0) none []).msgs = some (msgA (MsgKind.answer hdrA 0))) && decide (heldBack (sMsg (MsgKind.answer hdrA 0) none []) (msgA (MsgKind.answer hdrA 0)) = false) && decide (∀ y ∈ List.takeWhile (fun (y : Msg) => y.id != (msgA (MsgKind.answer hdrA 0)).id) (sMsg (MsgKind.answer hdrA 0) none []).msgs, ¬(y.src = (msgA (MsgKind.answer hdrA 0)).src ∧ y.dst = (msgA (MsgKind.answer hdrA 0)).dst)) && (match (msgA (MsgKind.answer hdrA 0)).kind with | MsgKind.answer h'12 _ => decide (ratTakes (sMsg (MsgKind.answer hdrA 0) none []) (msgA (MsgKind.answer hdrA 0)).ctx h'12 = false) && decide (ratHome (sMsg (MsgKind.answer hdrA 0) none []) (msgA (MsgKind.answer hdrA 0)).ctx h'12 = some 0 ∨ ratHome (sMsg (MsgKind.answer hdrA 0) none []) (msgA (MsgKind.answer hdrA 0)).ctx h'12 = none ∧ 0 = ↑(sMsg (MsgKind.answer hdrA 0) none []).ex ∧ (me (sMsg (MsgKind.answer hdrA 0) none [])).run.live = true ∧ ctxOf (sMsg (MsgKind.answer hdrA 0) none []) = (msgA (MsgKind.answer hdrA 0)).ctx) && true | _ => false)) = true) ∧
    ((decide (List.find? (fun (y : Msg) => y.id == (sMsg (MsgKind.answer hdrA 0) none [(2, ratR)]).choice.n && y.dst == ↑(sMsg (MsgKind.answer hdrA 0) none [(2, ratR)]).ex) (sMsg (MsgKind.answer hdrA 0) none [(2, ratR)]).msgs = some (msgA (MsgKind.answer hdrA 0))) && decide (heldBack (sMsg (MsgKind.answer hdrA 0) none [(2, ratR)]) (msgA (MsgKind.answer hdrA 0)) = false) && decide (∀ y ∈ List.takeWhile (fun (y : Msg) => y.id != (msgA (MsgKind.answer hdrA 0)).id) (sMsg (MsgKind.answer hdrA 0) none [(2, ratR)]).msgs, ¬(y.src = (msgA (MsgKind.answer hdrA 0)).src ∧ y.dst = (msgA (MsgKind.answer hdrA 0)).dst)) && (match (msgA (MsgKind.answer hdrA 0)).kind with | MsgKind.answer h'12 0 => decide (ratTakes (sMsg (MsgKind.answer hdrA 0) none [(2, ratR)]) (msgA (MsgKind.answer hdrA 0)).ctx h'12 = true) && decide ((ratAt (me (sMsg (MsgKind.answer hdrA 0) none [(2, ratR)])) h'12.rat).todo = []) && decide (h'12.row < (ratAt (me (sMsg (MsgKind.answer hdrA 0) none [(2, ratR)])) h'12.rat).rows.length) && decide (h'12.j < (listGet { : RRow } (ratAt (me (sMsg (MsgKind.answer hdrA 0) none [(2, ratR)])) h'12.rat).rows h'12.row).pos.length) && decide (listGet Pos.none (listGet { : RRow } (ratAt (me (sMsg (MsgKind.answer hdrA 0) none [(2, ratR)])) h'12.rat).rows h'12.row).pos h'12.j = Pos.pending) && decide ((listGet { : RRow } (ratAt (me (sMsg (MsgKind.answer hdrA 0) none [(2, ratR)])) h'12.rat).rows h'12.row).supplied = true) && decide ((listGet { : RRow } (ratAt (me (sMsg (MsgKind.answer hdrA 0) none [(2, ratR)])) h'12.rat).rows h'12.row).outcome = 0) && true | _ => false)) = true) ∧
    ((decide (List.find? (fun (y : Msg) => y.id == (sMsg (MsgKind.ret hdrA [1] []) none []).choice.n && y.dst == ↑(sMsg (MsgKind.ret hdrA [1] []) none []).ex) (sMsg (MsgKind.ret hdrA [1] []) none []).msgs = some (msgA (MsgKind.ret hdrA [1] []))) && decide (heldBack (sMsg (MsgKind.ret hdrA [1] []) none []) (msgA (MsgKind.ret hdrA [1] [])) = false) && (match (msgA (MsgKind.ret hdrA [1] [])).kind with | MsgKind.ret h'15 _ _ => decide (ratTakes (sMsg (MsgKind.ret hdrA [1] []) none []) (msgA (MsgKind.ret hdrA [1] [])).ctx h'15 = false) && decide (ratHome (sMsg (MsgKind.ret hdrA [1] []) none []) (msgA (MsgKind.ret hdrA [1] [])).ctx h'15 = some 0 ∨ ratHome (sMsg (MsgKind.ret hdrA [1] []) none []) (msgA (MsgKind.ret hdrA [1] [])).ctx h'15 = none ∧ 0 = ↑(sMsg (MsgKind.ret hdrA [1] []) none []).ex ∧ (me (sMsg (MsgKind.ret hdrA [1] []) none [])).run.live = true ∧ ctxOf (sMsg (MsgKind.ret hdrA [1] []) none []) = (msgA (MsgKind.ret hdrA [1] [])).ctx) && true | _ => false)) = true) := by
  refine ⟨?_, ?_, ?_, ?_, ?_, ?_⟩ <;> decide +kernel

/-- Obligations.RoutingArrivals: hypotheses met together. -/
theorem witness_RoutingArrivals_part2 :
    ((decide (List.find? (fun (y : Msg) => y.id == (sRet Pos.placed).choice.n && y.dst == ↑(sRet Pos.placed).ex) (sRet Pos.placed).msgs = some (msgA retK)) && decide (heldBack (sRet Pos.placed) (msgA retK) = false) && (match (msgA retK).kind with | MsgKind.ret h'15 data'16 marks'17 => decide (ratTakes (sRet Pos.placed) (msgA retK).ctx h'15 = true) && decide (h'15.row < (ratAt (me (sRet Pos.placed)) h'15.rat).rows.length) && decide (h'15.j < 8) && decide ((listGet { : RRow } (ratAt (me (sRet Pos.placed)) h'15.rat).rows h'15.row).pos.length = 8) && decide (listGet Pos.none (listGet { : RRow } (ratAt (me (sRet Pos.placed)) h'15.rat).rows h'15.row).pos h'15.j = Pos.placed) && decide (data'16.length = 4 * ratRw (ratAt (me (sRet Pos.placed)) h'15.rat).desc) && decide (returnMay (me (sRet Pos.placed)) h'15 data'16.length = true) && decide ((listGet { : RRow } (ratAt (me (sRet Pos.placed)) h'15.rat).rows h'15.row).supplied = true) && decide ((listGet { : RRow } (ratAt (me (sRet Pos.placed)) h'15.rat).rows h'15.row).read = true) && decide ((listGet { : RRow } (ratAt (me (sRet Pos.placed)) h'15.rat).rows h'15.row).outcome = 0) && decide ((List.range 8).any (fun i => decide ((fun (i : ℕ) => i ≠ h'15.j ∧ (listGet Pos.none (listGet { : RRow } (ratAt (me (sRet Pos.placed)) h'15.rat).rows h'15.row).pos i = Pos.queued ∨ listGet Pos.none (listGet { : RRow } (ratAt (me (sRet Pos.placed)) h'15.rat).rows h'15.row).pos i = Pos.pending ∨ listGet Pos.none (listGet { : RRow } (ratAt (me (sRet Pos.placed)) h'15.rat).rows h'15.row).pos i = Pos.placed)) i)) = true) && decide ((ratAt (me (sRet Pos.placed)) h'15.rat).todo = []) && (match ratWrite (sRet Pos.placed) h'15.rat (rbufVa (ratAt (me (sRet Pos.placed)) h'15.rat).desc h'15.row h'15.j) data'16 marks'17 with | (Except.ok (), _) => true | _ => false) | _ => false)) = true) ∧
    ((decide (List.find? (fun (y : Msg) => y.id == (sRet Pos.none).choice.n && y.dst == ↑(sRet Pos.none).ex) (sRet Pos.none).msgs = some (msgA retK)) && decide (heldBack (sRet Pos.none) (msgA retK) = false) && (match (msgA retK).kind with | MsgKind.ret h'15 data'16 marks'17 => decide (ratTakes (sRet Pos.none) (msgA retK).ctx h'15 = true) && decide (h'15.row < (ratAt (me (sRet Pos.none)) h'15.rat).rows.length) && decide (h'15.j < 8) && decide ((listGet { : RRow } (ratAt (me (sRet Pos.none)) h'15.rat).rows h'15.row).pos.length = 8) && decide (listGet Pos.none (listGet { : RRow } (ratAt (me (sRet Pos.none)) h'15.rat).rows h'15.row).pos h'15.j = Pos.placed) && decide (data'16.length = 4 * ratRw (ratAt (me (sRet Pos.none)) h'15.rat).desc) && decide (returnMay (me (sRet Pos.none)) h'15 data'16.length = true) && decide ((listGet { : RRow } (ratAt (me (sRet Pos.none)) h'15.rat).rows h'15.row).supplied = true) && decide ((listGet { : RRow } (ratAt (me (sRet Pos.none)) h'15.rat).rows h'15.row).read = true) && decide ((listGet { : RRow } (ratAt (me (sRet Pos.none)) h'15.rat).rows h'15.row).outcome = 0) && decide ((List.range 8).all (fun i => decide (¬(fun (i : ℕ) => i ≠ h'15.j ∧ (listGet Pos.none (listGet { : RRow } (ratAt (me (sRet Pos.none)) h'15.rat).rows h'15.row).pos i = Pos.queued ∨ listGet Pos.none (listGet { : RRow } (ratAt (me (sRet Pos.none)) h'15.rat).rows h'15.row).pos i = Pos.pending ∨ listGet Pos.none (listGet { : RRow } (ratAt (me (sRet Pos.none)) h'15.rat).rows h'15.row).pos i = Pos.placed)) i)) = true) && decide ((List.range ((ratAt (me (sRet Pos.none)) h'15.rat).rows.length)).any (fun k => decide (k ≠ h'15.row ∧ (listGet { : RRow } (ratAt (me (sRet Pos.none)) h'15.rat).rows k).supplied = true ∧ (listGet { : RRow } (ratAt (me (sRet Pos.none)) h'15.rat).rows k).outcome = 0)) = true) && (match ratWrite (sRet Pos.none) h'15.rat (rbufVa (ratAt (me (sRet Pos.none)) h'15.rat).desc h'15.row h'15.j) data'16 marks'17 with | (Except.ok (), _) => true | _ => false) | _ => false)) = true) := by
  refine ⟨?_, ?_⟩ <;> decide +kernel

/-- Obligations.RoutingExpiries: hypotheses met together. -/
theorem witness_RoutingExpiries_part1 :
    ((decide (resident (me sWindow) = true) && (match ringAt (me sWindow) sWindow.choice.n with | some r'0 => decide (r'0.ticks ≠ 0) && decide (mayClose (me sWindow) sWindow.choice.n r'0 = true) && (match r'0.first with | some t0'1 => decide (r'0.ticks ≤ BitVec.toNat (sWindow.gtc - t0'1)) && true | _ => false) | _ => false)) = true) ∧
    ((decide (chansRun (me (sRouteCh 2 (CKind.route 2 3 1 (some (10, 50))))) = true) && decide ((ratAt (me (sRouteCh 2 (CKind.route 2 3 1 (some (10, 50))))) (sRouteCh 2 (CKind.route 2 3 1 (some (10, 50)))).choice.n).closed = false) && decide (gangAborted (sRouteCh 2 (CKind.route 2 3 1 (some (10, 50)))) (me (sRouteCh 2 (CKind.route 2 3 1 (some (10, 50))))) = false) && decide (escalates (me (sRouteCh 2 (CKind.route 2 3 1 (some (10, 50))))) = false) && (match routeCmd (me (sRouteCh 2 (CKind.route 2 3 1 (some (10, 50))))) (sRouteCh 2 (CKind.route 2 3 1 (some (10, 50)))).choice.n with | some (_, _, x'4) => (match x'4.kind with | CKind.route rr _ _ (some (t0'7, d'8)) => decide (rr = (sRouteCh 2 (CKind.route 2 3 1 (some (10, 50)))).choice.n) && decide (0 < d'8) && decide (d'8 ≤ BitVec.toNat ((me (sRouteCh 2 (CKind.route 2 3 1 (some (10, 50))))).ctc - t0'7)) && true | _ => false) | _ => false)) = true) ∧
    ((decide (chansRun (me (sRouteCh 1 (CKind.ratArm 2 ratD))) = true) && decide (gangAborted (sRouteCh 1 (CKind.ratArm 2 ratD)) (me (sRouteCh 1 (CKind.ratArm 2 ratD))) = false) && (match waitingCmd (me (sRouteCh 1 (CKind.ratArm 2 ratD))) (chNo (sRouteCh 1 (CKind.ratArm 2 ratD)).choice.n) with | some (_, x'10) => (match x'10.wait with | some t0'13 => decide (x'10.wdl ≤ BitVec.toNat ((me (sRouteCh 1 (CKind.ratArm 2 ratD))).ctc - t0'13)) && (match x'10.kind with | CKind.ratArm k'11 _ => decide ((ratAt (me (sRouteCh 1 (CKind.ratArm 2 ratD))) k'11).st = 2) && true | _ => false) | _ => false) | _ => false)) = true) ∧
    ((decide (chansRun (me sCloseFull) = true) && decide (gangAborted sCloseFull (me sCloseFull) = false) && (match waitingCmd (me sCloseFull) (chNo sCloseFull.choice.n) with | some (_, x'14) => (match x'14.wait with | some t0'17 => decide (x'14.wdl ≤ BitVec.toNat ((me sCloseFull).ctc - t0'17)) && (match x'14.kind with | CKind.ringClose k'15 => (match ringAt (me sCloseFull) k'15 with | some r'16 => decide (r'16.closed = none) && decide (mayClose (me sCloseFull) k'15 r'16 = false) && true | _ => false) | _ => false) | _ => false) | _ => false)) = true) ∧
    ((decide ((sRouteCh 77 (CKind.coll collD 0 (some { step := 2 : Coll }))).choice.flag = false) && decide ((sRouteCh 77 (CKind.coll collD 0 (some { step := 2 : Coll }))).choice.k ≠ 1) && (match colCmd (me (sRouteCh 77 (CKind.coll collD 0 (some { step := 2 : Coll })))) (sRouteCh 77 (CKind.coll collD 0 (some { step := 2 : Coll }))).choice.n (sRouteCh 77 (CKind.coll collD 0 (some { step := 2 : Coll }))).choice.m with | some (ch'18, k'19, _, _, _, _) => decide (mayStep (me (sRouteCh 77 (CKind.coll collD 0 (some { step := 2 : Coll })))) ch'18 k'19 true = true) && true | _ => false)) = true) ∧
    ((sWindow.choice.flag = false) ∧ (sWindow.choice.k ≠ 1) ∧ (colCmd (me sWindow) sWindow.choice.n sWindow.choice.m = none)) := by
  refine ⟨?_, ?_, ?_, ?_, ?_, ?_⟩ <;> decide +kernel

/-- Obligations.RoutingExpiries: hypotheses met together. -/
theorem witness_RoutingExpiries_part2 :
    ((decide ((sPiece 1).choice.flag = true) && (match colCmd (me (sPiece 1)) (sPiece 1).choice.n (sPiece 1).choice.m with | some (ch'23, k'24, _, d'26, _, _) => decide (mayStep (me (sPiece 1)) ch'23 k'24 true = true) && decide (BitVec.toNat (sPiece 1).choice.v < colPieces d'26) && decide ((sPiece 1).choice.data.length = pieceLen d'26 (BitVec.toNat (sPiece 1).choice.v)) && (match cprMaps (sPiece 1) d'26 with | (Except.ok (map'29, _), _) => decide (BitVec.getLsbD map'29 (BitVec.toNat (sPiece 1).choice.v) = true) && true | _ => false) | _ => false)) = true) ∧
    ((decide ((sPiece 0).choice.flag = true) && (match colCmd (me (sPiece 0)) (sPiece 0).choice.n (sPiece 0).choice.m with | some (ch'23, k'24, x'25, d'26, _, c'28) => decide (mayStep (me (sPiece 0)) ch'23 k'24 true = true) && decide (BitVec.toNat (sPiece 0).choice.v < colPieces d'26) && decide ((sPiece 0).choice.data.length = pieceLen d'26 (BitVec.toNat (sPiece 0).choice.v)) && (match cprMaps (sPiece 0) d'26 with | (Except.ok (map'29, _), s1'32) => decide (BitVec.getLsbD map'29 (BitVec.toNat (sPiece 0).choice.v) = false) && (match if colReduces d'26 c'28.step = true then readMem s1'32 (pieceVa d'26 (colTakes d'26 c'28.step) (BitVec.toNat (sPiece 0).choice.v)) (sPiece 0).choice.data.length else (Except.ok { : CRead }, s1'32) with | (Except.ok y'31, s2'33) => (match writeMem s2'33 ch'23.toNat x'25.id (pieceVa d'26 (colTakes d'26 c'28.step) (BitVec.toNat (sPiece 0).choice.v)) (if colReduces d'26 c'28.step = true then addPiece (colFmt d'26 == 7) (sPiece 0).choice.data y'31.data else (sPiece 0).choice.data) (List.map (fun (e : ℕ × W64) => (e.1, BitVec.toNat e.2)) (sPiece 0).choice.pairs ++ y'31.marks) with | (Except.ok (), s3'34) => (match cprWrite s3'34 x'25 d'26 8 (leBytes 8 (BitVec.toNat (map'29 ||| ↑(1 <<< BitVec.toNat (sPiece 0).choice.v)))) with | (Except.ok (), _) => true | _ => false) | _ => false) | _ => false) | _ => false) | _ => false)) = true) ∧
    (((match sQuiesce.dev.sus.st with | SusSt.entering t0'37 => decide (quiesceTicks ≤ BitVec.toNat (sQuiesce.gtc - t0'37)) && true | _ => false)) = true) := by
  refine ⟨?_, ?_, ?_⟩ <;> decide +kernel

/-- Obligations.Seams, its part SeamWord: hypotheses met together. -/
theorem witness_SeamWord :
    ((guardOk (me (sSeam (0 : Fin 288) HReq.none false id)).ctl g1 = true) ∧ ((me (sSeam (0 : Fin 288) HReq.none false id)).cwait = none) ∧ (seamBad (sSeam (0 : Fin 288) HReq.none false id) (BitVec.toNat (2 : BitVec 14)) = true) ∧ ((me (sSeam (0 : Fin 288) HReq.none false id)).csr.sup = false)) ∧
    ((guardOk (me (sSeam (0 : Fin 288) HReq.none false id)).ctl g1 = true) ∧ ((me (sSeam (0 : Fin 288) HReq.none false id)).cwait = none) ∧ (seamBad (sSeam (0 : Fin 288) HReq.none false id) (BitVec.toNat (1 : BitVec 14)) = false) ∧ (gangAborted (sSeam (0 : Fin 288) HReq.none false id) (me (sSeam (0 : Fin 288) HReq.none false id)) = false) ∧ (seamCond (me (sSeam (0 : Fin 288) HReq.none false id)) = true)) ∧
    ((guardOk (me sSeamBusy).ctl g1 = true) ∧ ((me sSeamBusy).cwait = none) ∧ (seamBad sSeamBusy (BitVec.toNat (1 : BitVec 14)) = false) ∧ (gangAborted sSeamBusy (me sSeamBusy) = false) ∧ (seamCond (me sSeamBusy) = false) ∧ ((me sSeamBusy).remain = none) ∧ (min (dlOf sSeamBusy (3 : Reg)) (BitVec.toNat (me sSeamBusy).csr.dlmax) = 0)) := by
  refine ⟨?_, ?_, ?_⟩ <;> decide +kernel

/-- Obligations.Seams, its part SeamInstant: hypotheses met together. -/
theorem witness_SeamInstant :
    (((me (sSeam (0 : Fin 288) HReq.none true id)).cwait = some waitS) ∧ (waitS.kind = WKind.seam 1) ∧ (contextOn (me (sSeam (0 : Fin 288) HReq.none true id)) = true) ∧ ((me (sSeam (0 : Fin 288) HReq.none true id)).run.dstop = false) ∧ (seamCond (me (sSeam (0 : Fin 288) HReq.none true id)) = true) ∧ (gangAborted (sSeam (0 : Fin 288) HReq.none true id) (me (sSeam (0 : Fin 288) HReq.none true id)) = false) ∧ ((me (sSeam (0 : Fin 288) HReq.none true id)).run.hreq = HReq.none)) ∧
    (((me (sSeam (0 : Fin 288) HReq.rebind true id)).cwait = some waitS) ∧ (waitS.kind = WKind.seam 1) ∧ (contextOn (me (sSeam (0 : Fin 288) HReq.rebind true id)) = true) ∧ ((me (sSeam (0 : Fin 288) HReq.rebind true id)).run.dstop = false) ∧ (seamCond (me (sSeam (0 : Fin 288) HReq.rebind true id)) = true) ∧ (gangAborted (sSeam (0 : Fin 288) HReq.rebind true id) (me (sSeam (0 : Fin 288) HReq.rebind true id)) = false) ∧ ((me (sSeam (0 : Fin 288) HReq.rebind true id)).run.hreq = HReq.rebind) ∧ (isRoot (sSeam (0 : Fin 288) HReq.rebind true id) = false)) ∧
    ((decide ((me (sSeam (256 : Fin 288) HReq.handover true id)).cwait = some waitS) && decide (waitS.kind = WKind.seam 1) && decide (contextOn (me (sSeam (256 : Fin 288) HReq.handover true id)) = true) && decide ((me (sSeam (256 : Fin 288) HReq.handover true id)).run.dstop = false) && decide (seamCond (me (sSeam (256 : Fin 288) HReq.handover true id)) = true) && decide (gangAborted (sSeam (256 : Fin 288) HReq.handover true id) (me (sSeam (256 : Fin 288) HReq.handover true id)) = false) && decide ((me (sSeam (256 : Fin 288) HReq.handover true id)).run.hreq = HReq.handover) && decide ((me (sSeam (256 : Fin 288) HReq.handover true id)).vec.dq = []) && decide ((me (sSeam (256 : Fin 288) HReq.handover true id)).run.preq = false) && (match handoverCore (sSeam (256 : Fin 288) HReq.handover true id) with | some _ => true | _ => false)) = true) ∧
    (((me sSeamFull).cwait = some waitS) ∧ (waitS.kind = WKind.seam 1) ∧ (contextOn (me sSeamFull) = true) ∧ ((me sSeamFull).run.dstop = false) ∧ (seamCond (me sSeamFull) = true) ∧ (gangAborted sSeamFull (me sSeamFull) = false) ∧ ((me sSeamFull).run.hreq = HReq.handover) ∧ (handoverCore sSeamFull = none)) := by
  refine ⟨?_, ?_, ?_, ?_⟩ <;> decide +kernel

/-- Obligations.HandoverEvents: hypotheses met together. -/
theorem witness_HandoverEvents :
    ((myHandover (sHover false false) = some (hoverS false)) ∧ ((hoverS false).written = false) ∧ (ksrReady (sHover false false) (me (sHover false false)) = true) ∧ ((me (sHover false false)).wc = [])) ∧
    ((List.find? (fun (x : Handover) => x.src == sHoverBad.choice.n) sHoverBad.handovers = some hoverB) ∧ (hoverB.written = true) ∧ (movesRun sHoverBad = true) ∧ (hoverB.src < 288) ∧ (hoverB.dst < 288) ∧ (hoverB.src ≠ hoverB.dst) ∧ (hoverB.bad = true)) ∧
    ((List.find? (fun (x : Handover) => x.src == sHoverRes.choice.n) sHoverRes.handovers = some (hoverS true)) ∧ ((hoverS true).written = true) ∧ (movesRun sHoverRes = true) ∧ ((hoverS true).src < 288) ∧ ((hoverS true).dst < 288) ∧ ((hoverS true).src ≠ (hoverS true).dst) ∧ ((hoverS true).bad = false) ∧ (∃ (r : Resident), (coreAt sHoverRes (hoverS true).dst).run.res = some r ∧ r.image = (coreAt sHoverRes (hoverS true).src).run.inst.image)) ∧
    ((sPolicy.dev.sched.hopol = true) ∧ (isRoot sPolicy = true) ∧ ((me sPolicy).run.live = true) ∧ ((me sPolicy).run.st = RunSt.running) ∧ (kAffin (myKernel sPolicy) ≠ 1) ∧ (∃ e ∈ (me sPolicy).cp.slots, (ownTht sPolicy (ctxOf sPolicy) (tHandle e.2)).isSome = true) ∧ (∀ e ∈ (me sPolicy).cp.slots, ∀ (x : Tht), ownTht sPolicy (ctxOf sPolicy) (tHandle e.2) = some x → 1 ≤ x.old) ∧ ((List.range 256).any (fun n => decide (freeEx sPolicy n = true)) = true)) := by
  refine ⟨?_, ?_, ?_, ?_⟩ <;> decide +kernel

/-- Obligations.FencesAndWaits, its part DeadlineExpiry: hypotheses met together. -/
theorem witness_DeadlineExpiry :
    ((decide ((me (sWaitcLate true false 16)).cwait = some (waitW true false)) && decide ((waitW true false).kind = WKind.waitc 7 0 7 7) && decide ((waitW true false).e = false) && decide (controlRuns (me (sWaitcLate true false 16)) = true) && decide ((me (sWaitcLate true false 16)).frozen = false) && decide ((waitW true false).dl ≤ BitVec.toNat ((me (sWaitcLate true false 16)).ctc - (waitW true false).t0)) && decide (gangAborted (sWaitcLate true false 16) (me (sWaitcLate true false 16)) = false) && decide (waitcCond (me (sWaitcLate true false 16)) 7 0 7 7 = false) && decide ((waitW true false).poll = true) && (match imemWord (me (sWaitcLate true false 16)) (me (sWaitcLate true false 16)).ctl.pc with | some x'0 => decide (decodeControl x'0 = Except.ok (Instr.waitc g1 (4 : Reg) (3 : Reg) false 7 0 7 7)) && true | _ => false)) = true) ∧
    ((decide ((me (sWaitcLate false false 16)).cwait = some (waitW false false)) && decide ((waitW false false).kind = WKind.waitc 7 0 7 7) && decide ((waitW false false).e = false) && decide (controlRuns (me (sWaitcLate false false 16)) = true) && decide ((me (sWaitcLate false false 16)).frozen = false) && decide ((waitW false false).dl ≤ BitVec.toNat ((me (sWaitcLate false false 16)).ctc - (waitW false false).t0)) && decide (gangAborted (sWaitcLate false false 16) (me (sWaitcLate false false 16)) = false) && decide (waitcCond (me (sWaitcLate false false 16)) 7 0 7 7 = false) && decide ((waitW false false).poll = false) && decide (false = false) && decide (escalates (me (sWaitcLate false false 16)) = false) && (match imemWord (me (sWaitcLate false false 16)) (me (sWaitcLate false false 16)).ctl.pc with | some x'0 => decide (decodeControl x'0 = Except.ok (Instr.waitc g1 (4 : Reg) (3 : Reg) false 7 0 7 7)) && true | _ => false)) = true) ∧
    ((decide ((me (sWaitcLate false true 16)).cwait = some (waitW false true)) && decide ((waitW false true).kind = WKind.waitc 7 0 7 7) && decide ((waitW false true).e = true) && decide (controlRuns (me (sWaitcLate false true 16)) = true) && decide ((me (sWaitcLate false true 16)).frozen = false) && decide ((waitW false true).dl ≤ BitVec.toNat ((me (sWaitcLate false true 16)).ctc - (waitW false true).t0)) && decide (gangAborted (sWaitcLate false true 16) (me (sWaitcLate false true 16)) = false) && decide (waitcCond (me (sWaitcLate false true 16)) 7 0 7 7 = false) && decide ((waitW false true).poll = false) && decide (true = true ∨ escalates (me (sWaitcLate false true 16)) = true) && decide ((me (sWaitcLate false true 16)).csr.sup = false) && (match imemWord (me (sWaitcLate false true 16)) (me (sWaitcLate false true 16)).ctl.pc with | some x'0 => decide (decodeControl x'0 = Except.ok (Instr.waitc g1 (4 : Reg) (3 : Reg) true 7 0 7 7)) && true | _ => false)) = true) := by
  refine ⟨?_, ?_, ?_⟩ <;> decide +kernel

/-- Obligations.Attention, its part AttentionDispatch: hypotheses met together. -/
theorem witness_AttentionDispatch :
    ((decide (dispatchRuns (sAde (adCmd 7 7 0 66304) none) = true) && decide (candS.idx = none) && decide (tblGet none (sAde (adCmd 7 7 0 66304) none).launches candS.place = some launchS) && decide (candS.node < launchS.nodes.length) && decide ((listGet { : Node } launchS.nodes candS.node).typ = 2) && decide ((ctxRead (sAde (adCmd 7 7 0 66304) none) launchS.ctx (listGet { : Node } launchS.nodes candS.node).argb 128).1 = some (adCmd 7 7 0 66304)) && decide (tblGet none (sAde (adCmd 7 7 0 66304) none).ades (adeOf (sAde (adCmd 7 7 0 66304) none) launchS.ctx (adCmd 7 7 0 66304)) = none) && decide (adIllegal (adCmd 7 7 0 66304) = true) && (match candidates (sAde (adCmd 7 7 0 66304) none) with | candS :: _ => true | _ => false)) = true) ∧
    ((decide (dispatchRuns (sAde (adCmd 7 8 2 66304) none) = true) && decide (candS.idx = none) && decide (tblGet none (sAde (adCmd 7 8 2 66304) none).launches candS.place = some launchS) && decide (candS.node < launchS.nodes.length) && decide ((listGet { : Node } launchS.nodes candS.node).typ = 2) && decide ((ctxRead (sAde (adCmd 7 8 2 66304) none) launchS.ctx (listGet { : Node } launchS.nodes candS.node).argb 128).1 = some (adCmd 7 8 2 66304)) && decide (tblGet none (sAde (adCmd 7 8 2 66304) none).ades (adeOf (sAde (adCmd 7 8 2 66304) none) launchS.ctx (adCmd 7 8 2 66304)) = none) && decide (adIllegal (adCmd 7 8 2 66304) = false) && decide (adForeign (sAde (adCmd 7 8 2 66304) none) launchS.ctx (adK (adCmd 7 8 2 66304)) = true ∨ adForeign (sAde (adCmd 7 8 2 66304) none) launchS.ctx (adV (adCmd 7 8 2 66304)) = true) && (match candidates (sAde (adCmd 7 8 2 66304) none) with | candS :: _ => true | _ => false)) = true) ∧
    ((decide (dispatchRuns (sAde (adCmd 7 7 2 66304) none) = true) && decide (candS.idx = none) && decide (tblGet none (sAde (adCmd 7 7 2 66304) none).launches candS.place = some launchS) && decide (candS.node < launchS.nodes.length) && decide ((listGet { : Node } launchS.nodes candS.node).typ = 2) && decide ((ctxRead (sAde (adCmd 7 7 2 66304) none) launchS.ctx (listGet { : Node } launchS.nodes candS.node).argb 128).1 = some (adCmd 7 7 2 66304)) && decide (tblGet none (sAde (adCmd 7 7 2 66304) none).ades (adeOf (sAde (adCmd 7 7 2 66304) none) launchS.ctx (adCmd 7 7 2 66304)) = none) && (match candidates (sAde (adCmd 7 7 2 66304) none) with | candS :: _ => true | _ => false)) = true) := by
  refine ⟨?_, ?_, ?_⟩ <;> decide +kernel

/-- Obligations.Attention, its part AttentionChunk: hypotheses met together. -/
theorem witness_AttentionChunk :
    ((tblGet none (sAde [] (some adeAb)).ades (sAde [] (some adeAb)).choice.n = some adeAb) ∧ (adeAb.aborted = true ∨ movesRun (sAde [] (some adeAb)) = false)) ∧
    ((tblGet none sAdeGone7.ades sAdeGone7.choice.n = some (adeR (adCmd 7 7 2 0) 0 0)) ∧ (ownTht sAdeGone7 (adeR (adCmd 7 7 2 0) 0 0).ctx (if (false, 32).1 = true then adV (adeR (adCmd 7 7 2 0) 0 0).cmd else adK (adeR (adCmd 7 7 2 0) 0 0).cmd) = none)) ∧
    ((decide (tblGet none (sAde [] (some (adeR (adCmd 7 7 2 0) 0 0))).ades (sAde [] (some (adeR (adCmd 7 7 2 0) 0 0))).choice.n = some (adeR (adCmd 7 7 2 0) 0 0)) && (match ownTht (sAde [] (some (adeR (adCmd 7 7 2 0) 0 0))) (adeR (adCmd 7 7 2 0) 0 0).ctx (if (false, 32).1 = true then adV (adeR (adCmd 7 7 2 0) 0 0).cmd else adK (adeR (adCmd 7 7 2 0) 0 0).cmd) with | some _ => true | _ => false)) = true) ∧
    ((decide (tblGet none (sAde [] (some (adeR (adCmd 7 7 2 0) 0 0))).ades (sAde [] (some (adeR (adCmd 7 7 2 0) 0 0))).choice.n = some (adeR (adCmd 7 7 2 0) 0 0)) && decide (0 < 32) && (match ownTht (sAde [] (some (adeR (adCmd 7 7 2 0) 0 0))) (adeR (adCmd 7 7 2 0) 0 0).ctx (if (false, 32).1 = true then adV (adeR (adCmd 7 7 2 0) 0 0).cmd else adK (adeR (adCmd 7 7 2 0) 0 0).cmd) with | some _ => true | _ => false)) = true) ∧
    ((tblGet none (sAdeCut (adeR (adCmd 7 7 2 0) 0 0)).ades (sAdeCut (adeR (adCmd 7 7 2 0) 0 0)).choice.n = some (adeR (adCmd 7 7 2 0) 0 0)) ∧ (adeMay (sAdeCut (adeR (adCmd 7 7 2 0) 0 0)) (adeR (adCmd 7 7 2 0) 0 0) = true) ∧ (takeSectors (sAdeCut (adeR (adCmd 7 7 2 0) 0 0)) (List.drop (adeR (adCmd 7 7 2 0) 0 0).got.length (chunkSectors (adeR (adCmd 7 7 2 0) 0 0))).length < (List.drop (adeR (adCmd 7 7 2 0) 0 0).got.length (chunkSectors (adeR (adCmd 7 7 2 0) 0 0))).length)) ∧
    ((tblGet none (sAde [] (some (adeR (adCmd 7 7 2 0) 0 0))).ades (sAde [] (some (adeR (adCmd 7 7 2 0) 0 0))).choice.n = some (adeR (adCmd 7 7 2 0) 0 0)) ∧ (adeMay (sAde [] (some (adeR (adCmd 7 7 2 0) 0 0))) (adeR (adCmd 7 7 2 0) 0 0) = true) ∧ ((adeR (adCmd 7 7 2 0) 0 0).head < (adeR (adCmd 7 7 2 0) 0 0).heads.length) ∧ (List.drop (adeR (adCmd 7 7 2 0) 0 0).got.length (chunkSectors (adeR (adCmd 7 7 2 0) 0 0)) ≠ []) ∧ (takeSectors (sAde [] (some (adeR (adCmd 7 7 2 0) 0 0))) (List.drop (adeR (adCmd 7 7 2 0) 0 0).got.length (chunkSectors (adeR (adCmd 7 7 2 0) 0 0))).length = (List.drop (adeR (adCmd 7 7 2 0) 0 0).got.length (chunkSectors (adeR (adCmd 7 7 2 0) 0 0))).length)) := by
  refine ⟨?_, ?_, ?_, ?_, ?_, ?_⟩ <;> decide +kernel

/-- Obligations.Attention, its part AttentionEnd: hypotheses met together. -/
theorem witness_AttentionEnd :
    ((tblGet none (sAde [] (some (adeR (adCmd 7 7 2 131136) 0 4))).ades (sAde [] (some (adeR (adCmd 7 7 2 131136) 0 4))).choice.n = some (adeR (adCmd 7 7 2 131136) 0 4)) ∧ (movesRun (sAde [] (some (adeR (adCmd 7 7 2 131136) 0 4))) = true) ∧ (tblGet none (sAde [] (some (adeR (adCmd 7 7 2 131136) 0 4))).launches (adeR (adCmd 7 7 2 131136) 0 4).launch = some launchS) ∧ ((adeR (adCmd 7 7 2 131136) 0 4).node < launchS.nodes.length) ∧ ((adeR (adCmd 7 7 2 131136) 0 4).cause ≠ 0 ∨ (adeR (adCmd 7 7 2 131136) 0 4).aborted = true) ∧ (∀ h ∈ (adeR (adCmd 7 7 2 131136) 0 4).heads, h.poison = false)) ∧
    ((tblGet none (sAdeCut adeO).ades (sAdeCut adeO).choice.n = some adeO) ∧ (movesRun (sAdeCut adeO) = true) ∧ (tblGet none (sAdeCut adeO).launches adeO.launch = some launchS) ∧ (adeO.node < launchS.nodes.length) ∧ (adeO.cause = 0) ∧ (adeO.aborted = false) ∧ (adHeads adeO.cmd ≤ adeO.head) ∧ (takeSectors (sAdeCut adeO) (outSectors adeO - adeO.out) < outSectors adeO - adeO.out)) ∧
    ((tblGet none (sAde [] (some (adeR (adCmd 7 7 2 0) 1 0))).ades (sAde [] (some (adeR (adCmd 7 7 2 0) 1 0))).choice.n = some (adeR (adCmd 7 7 2 0) 1 0)) ∧ (movesRun (sAde [] (some (adeR (adCmd 7 7 2 0) 1 0))) = true) ∧ (tblGet none (sAde [] (some (adeR (adCmd 7 7 2 0) 1 0))).launches (adeR (adCmd 7 7 2 0) 1 0).launch = some launchS) ∧ ((adeR (adCmd 7 7 2 0) 1 0).node < launchS.nodes.length) ∧ ((adeR (adCmd 7 7 2 0) 1 0).cause = 0) ∧ ((adeR (adCmd 7 7 2 0) 1 0).aborted = false) ∧ (adHeads (adeR (adCmd 7 7 2 0) 1 0).cmd ≤ (adeR (adCmd 7 7 2 0) 1 0).head) ∧ (takeSectors (sAde [] (some (adeR (adCmd 7 7 2 0) 1 0))) (outSectors (adeR (adCmd 7 7 2 0) 1 0) - (adeR (adCmd 7 7 2 0) 1 0).out) = outSectors (adeR (adCmd 7 7 2 0) 1 0) - (adeR (adCmd 7 7 2 0) 1 0).out) ∧ (∀ h ∈ (adeR (adCmd 7 7 2 0) 1 0).heads, h.poison = false)) ∧
    ((tblGet none (sAde [] (some adeBad)).ades (sAde [] (some adeBad)).choice.n = some adeBad) ∧ (movesRun (sAde [] (some adeBad)) = true) ∧ (tblGet none (sAde [] (some adeBad)).launches adeBad.launch = some launchS) ∧ (adeBad.node < launchS.nodes.length) ∧ (adeBad.cause = 0) ∧ (adeBad.aborted = false) ∧ (adHeads adeBad.cmd ≤ adeBad.head) ∧ (takeSectors (sAde [] (some adeBad)) (outSectors adeBad - adeBad.out) = outSectors adeBad - adeBad.out) ∧ (∃ h ∈ adeBad.heads, h.poison = true)) ∧
    ((tblGet none (sAde [] (some (adeR (adCmd 7 7 2 0) 1 0))).ades (sAde [] (some (adeR (adCmd 7 7 2 0) 1 0))).choice.n = some (adeR (adCmd 7 7 2 0) 1 0)) ∧ (movesRun (sAde [] (some (adeR (adCmd 7 7 2 0) 1 0))) = true) ∧ (tblGet none (sAde [] (some (adeR (adCmd 7 7 2 0) 1 0))).launches (adeR (adCmd 7 7 2 0) 1 0).launch = some launchS) ∧ ((adeR (adCmd 7 7 2 0) 1 0).node < launchS.nodes.length) ∧ (0 < headR.o.length)) := by
  refine ⟨?_, ?_, ?_, ?_, ?_⟩ <;> decide +kernel

/-- Obligations.Launches, its part LaunchQueue: hypotheses met together. -/
theorem witness_LaunchQueue :
    ((decide ((sBell 3 1).choice.n < 1024) && decide (hostServed (sBell 3 1) = true) && decide ((sBell 3 1).lqueue.length < 256) && (match ctxAt (sBell 3 1) (sBell 3 1).choice.n with | some _ => true | _ => false)) = true) ∧
    (((sBell 256 1).choice.n < 1024) ∧ (hostServed (sBell 256 1) = false ∨ ctxAt (sBell 256 1) (sBell 256 1).choice.n = none ∨ 256 ≤ (sBell 256 1).lqueue.length)) ∧
    ((decide (queueServed (sBell 3 1) = true) && decide ((sBell 3 1).dev.sec.lcs ≠ 4) && (match (sBell 3 1).lqueue with | e'1 :: r'2 => decide ((ctxRead ({ (sBell 3 1) with nextId := (sBell 3 1).nextId + 1, lqueue := r'2 } : State) e'1.ctx e'1.va 64).1 = none) && (match freePlace (sBell 3 1) with | some _ => true | _ => false) | _ => false)) = true) ∧
    ((decide (queueServed (sAccept 65664) = true) && decide ((sAccept 65664).dev.sec.lcs ≠ 4) && (match (sAccept 65664).lqueue with | e'1 :: r'2 => decide (BitVec.toNat e'1.va % 64 = 0) && (match freePlace (sAccept 65664) with | some _ => (match ctxRead ({ (sAccept 65664) with nextId := (sAccept 65664).nextId + 1, lqueue := r'2 } : State) e'1.ctx e'1.va 64 with | (some b'4, s1'5) => decide (descOk b'4 = true) && (match imageOf s1'5 e'1.ctx (field64 b'4 0 8) with | some img'6 => (match readNodes e'1.ctx img'6 (field64 b'4 8 8) (field b'4 16 2) s1'5 0 with | (ns'7, s2'8) => decide (∀ x ∈ ns'7, kGang x.1.ker = false) && decide (refusal s2'8 e'1.ctx b'4 ns'7 (some []) = none) && true) | _ => false) | _ => false) | _ => false) | _ => false)) = true) := by
  refine ⟨?_, ?_, ?_, ?_⟩ <;> decide +kernel

/-- Obligations.DispatchAndCompletion, its part DispatchAndBoot: hypotheses met together. -/
theorem witness_DispatchAndBoot :
    ((decide (movesRun sDispatch = true) && (match nextDispatch (refill (sweepGroups sDispatch)) with | some (c'0, ex'1) => decide (ex'1 < 288) && decide (c'0.idx = none) && (match tblGet none sDispatch.launches c'0.place with | some l'2 => decide (c'0.node < l'2.nodes.length) && decide (kCluster (listGet { : Node } l'2.nodes c'0.node).ker = false ∨ onRoot (refill (sweepGroups sDispatch)) (listGet { : Node } l'2.nodes c'0.node) = true) && true | _ => false) | _ => false)) = true) ∧
    ((decide (movesRun sRedispatch = true) && (match nextDispatch (refill (sweepGroups sRedispatch)) with | some (c'3, ex'4) => decide (ex'4 < 288) && (match tblGet none sRedispatch.launches c'3.place with | some l'5 => decide (c'3.node < l'5.nodes.length) && (match c'3.idx with | some i'6 => (match sRedispatch.stopped[i'6]? with | some x'7 => decide (x'7.core.run.group = none) && true | _ => false) | _ => false) | _ => false) | _ => false)) = true) ∧
    ((decide (sBoot.choice.n < 288) && decide (bootable sBoot sBoot.choice.n = true) && decide (movesRun sBoot = true) && decide (sBoot.dev.sec.lcs ≠ 4) && (match tblGet none sBoot.images (field sBoot.choice.data 0 8) with | some img'8 => decide (field sBoot.choice.data 24 4 < img'8.kernels.length) && true | _ => false)) = true) := by
  refine ⟨?_, ?_, ?_⟩ <;> decide +kernel

/-- Obligations.EntryAndHalt, its part KernelEntry: hypotheses met together. -/
theorem witness_KernelEntry :
    ((tblGet none (sEnter RunSt.loading).images (BitVec.toNat (me (sEnter RunSt.loading)).run.inst.image) = some imageL) ∧ (ctxAt (sEnter RunSt.loading) (me (sEnter RunSt.loading)).run.inst.ctx = some ctxL) ∧ (awake (sEnter RunSt.loading) = true) ∧ ((me (sEnter RunSt.loading)).run.st = RunSt.loading)) ∧
    ((tblGet none (sEnter RunSt.entering).images (BitVec.toNat (me (sEnter RunSt.entering)).run.inst.image) = some imageL) ∧ (ctxAt (sEnter RunSt.entering) (me (sEnter RunSt.entering)).run.inst.ctx = some ctxL) ∧ (awake (sEnter RunSt.entering) = true) ∧ ((me (sEnter RunSt.entering)).run.group = none) ∧ ((me (sEnter RunSt.entering)).run.st = RunSt.entering) ∧ ((me (sEnter RunSt.entering)).reqs = []) ∧ ((me (sEnter RunSt.entering)).wc = [])) := by
  refine ⟨?_, ?_⟩ <;> decide +kernel

/-- Obligations.DispatchAndCompletion, its part CompletionRecord: hypotheses met together. -/
theorem witness_CompletionRecord :
    ((decide (tblGet none (sComplete none 131136).launches (sComplete none 131136).choice.n = some (launchE none 131136)) && decide (awake (sComplete none 131136) = true) && decide ((launchE none 131136).gang = none) && decide ((launchE none 131136).refused ≠ none ∨ launchOver (sComplete none 131136) (sComplete none 131136).choice.n (launchE none 131136) = true) && decide ((launchE none 131136).compl ≠ 0) && decide (BitVec.toNat (launchE none 131136).compl % 32 = 0) && (match ctxTranslate (sComplete none 131136) (launchE none 131136).ctx (launchE none 131136).compl Acc.write with | (Except.ok x'0, s1'1) => decide (linesOk s1'1.ms = true) && decide (pa50 x'0.pa + 32 ≤ 2 ^ 51) && true | _ => false)) = true) ∧
    ((tblGet none (sComplete (some 2) 0).launches (sComplete (some 2) 0).choice.n = some (launchE (some 2) 0)) ∧ (awake (sComplete (some 2) 0) = true) ∧ ((launchE (some 2) 0).gang = none) ∧ ((launchE (some 2) 0).refused ≠ none ∨ launchOver (sComplete (some 2) 0) (sComplete (some 2) 0).choice.n (launchE (some 2) 0) = true) ∧ ((launchE (some 2) 0).compl = 0)) := by
  refine ⟨?_, ?_⟩ <;> decide +kernel

/-- Obligations.GangEvents: hypotheses met together. -/
theorem witness_GangEvents :
    ((tblGet none (sGang 0 6 150).launches (sGang 0 6 150).choice.n = some (launchG 0)) ∧ ((launchG 0).gang = some (gangG 0)) ∧ ((gangG 0).state = 0)) ∧
    ((tblGet none (sGang 1 7 150).launches (sGang 1 7 150).choice.n = some (launchG 1)) ∧ ((launchG 1).gang = some (gangG 1)) ∧ ((gangG 1).state = 1) ∧ (BitVec.toNat ((sGang 1 7 150).gtc - (gangG 1).armedAt) ≤ (gangG 1).dl) ∧ ((gangG 1).dl < 2 ^ 32) ∧ (∀ d ∈ (gangG 1).devs, d ≠ (sGang 1 7 150).dev.sysdev.toNat → d ∈ (gangG 1).acks ++ [(sGang 1 7 150).choice.m])) ∧
    ((tblGet none (sGang 1 6 150).launches (sGang 1 6 150).choice.n = some (launchG 1)) ∧ ((launchG 1).gang = some (gangG 1)) ∧ ((gangG 1).state = 1) ∧ (BitVec.toNat ((sGang 1 6 150).gtc - (gangG 1).armedAt) ≤ (gangG 1).dl) ∧ ((gangG 1).dl < 2 ^ 32) ∧ (∃ d ∈ (gangG 1).devs, d ≠ (sGang 1 6 150).dev.sysdev.toNat ∧ d ∉ (gangG 1).acks ++ [(sGang 1 6 150).choice.m])) ∧
    ((decide (tblGet none (sGang 1 6 1500).launches (sGang 1 6 1500).choice.n = some (launchG 1)) && decide ((launchG 1).gang = some (gangG 1)) && decide (awake (sGang 1 6 1500) = true) && decide ((gangG 1).state = 1) && decide ((gangG 1).dl < 2 ^ 32) && decide ((gangG 1).dl ≤ BitVec.toNat ((sGang 1 6 1500).gtc - (gangG 1).armedAt)) && (missing (sGang 1 6 1500) (gangG 1)).any (fun d'0 => decide (∀ e ∈ missing (sGang 1 6 1500) (gangG 1), d'0 ≤ e) && decide (d'0 < 65536) && true)) = true) ∧
    ((tblGet none (sGang 0 6 150).launches (sGang 0 6 150).choice.n = some (launchG 0)) ∧ ((launchG 0).gang = some (gangG 0)) ∧ ((gangG 0).state ≠ 3) ∧ ((sGang 0 6 150).choice.m < 65536)) := by
  refine ⟨?_, ?_, ?_, ?_, ?_⟩ <;> decide +kernel

/-- Obligations.Preemption: hypotheses met together. -/
theorem witness_Preemption :
    ((decide (movesRun sPreempt = true) && (match candidates sPreempt with | c'0 :: _ => decide (sPreempt.dev.sched.predl.toNat * 1000 ≤ BitVec.toNat (sPreempt.gtc - c'0.since)) && decide (targetFor sPreempt c'0 = none) && decide (inProgress sPreempt c'0 = false) && (match victimFor sPreempt c'0 with | some ex'1 => decide (ex'1 < 288) && decide ((coreAt sPreempt ex'1).run.group = none) && true | _ => false) | _ => false)) = true) ∧
    (((me (sStop RunSt.running true)).run.preq = true) ∧ ((me (sStop RunSt.running true)).run.live = true) ∧ ((me (sStop RunSt.running true)).run.dstop = false) ∧ ((me (sStop RunSt.running true)).run.st = RunSt.running) ∧ (frozenEngine (me (sStop RunSt.running true)) = none) ∧ ((me (sStop RunSt.running true)).mx.live = false) ∧ (atStop (me (stopAllMoves (sStop RunSt.running true))) = true) ∧ ((me (sStop RunSt.running true)).cwait = none)) ∧
    (((me (sStop RunSt.saving false)).run.st = RunSt.saving) ∧ ((me (sStop RunSt.saving false)).reqs = []) ∧ ((me (sStop RunSt.saving false)).wc = []) ∧ ((me (sStop RunSt.saving false)).run.group = none) ∧ (∀ a ∈ (sStop RunSt.saving false).acks, a.ex ≠ ↑(sStop RunSt.saving false).ex)) ∧
    (((me (sStop RunSt.restoring false)).run.st = RunSt.restoring) ∧ ((me (sStop RunSt.restoring false)).run.group = none) ∧ (imageIn (me (sStop RunSt.restoring false)) = true)) := by
  refine ⟨?_, ?_, ?_, ?_⟩ <;> decide +kernel

/-- Obligations.ErrorsAndRetirement, its part UncorrectableError: hypotheses met together. -/
theorem witness_UncorrectableError_part1 :
    ((sErrReport.choice.flag = true)) ∧
    ((decide ((sErr (ErrSite.memory 77)).choice.flag = false) && (match (sErr (ErrSite.memory 77)).choice.site with | ErrSite.memory n'0 => decide (n'0 < 2 ^ 46) && true | _ => false)) = true) ∧
    ((decide ((sErr (ErrSite.spad 77)).choice.flag = false) && (match (sErr (ErrSite.spad 77)).choice.site with | ErrSite.spad w'1 => decide (w'1 < 262144) && true | _ => false)) = true) ∧
    ((decide ((sErr (ErrSite.vreg 77)).choice.flag = false) && (match (sErr (ErrSite.vreg 77)).choice.site with | ErrSite.vreg r'2 => decide (r'2 < 768) && true | _ => false)) = true) ∧
    ((decide ((sErr (ErrSite.sreg (7 : Reg))).choice.flag = false) && (match (sErr (ErrSite.sreg (7 : Reg))).choice.site with | ErrSite.sreg _ => true | _ => false)) = true) ∧
    ((decide ((sErr (ErrSite.tslot 7)).choice.flag = false) && (match (sErr (ErrSite.tslot 7)).choice.site with | ErrSite.tslot n'4 => decide (n'4 < 64) && true | _ => false)) = true) := by
  refine ⟨?_, ?_, ?_, ?_, ?_, ?_⟩ <;> decide +kernel

/-- Obligations.ErrorsAndRetirement, its part UncorrectableError: hypotheses met together. -/
theorem witness_UncorrectableError_part2 :
    (((upd busy (sErr ErrSite.fatal)).choice.flag = false) ∧ ((upd busy (sErr ErrSite.fatal)).choice.site = ErrSite.fatal) ∧ ((me (upd busy (sErr ErrSite.fatal))).run.live = true) ∧ ((me (upd busy (sErr ErrSite.fatal))).parked = none) ∧ (((me (upd busy (sErr ErrSite.fatal))).cp.ch.all fun (l : List CCmd) => l.isEmpty) = false)) ∧
    ((decide ((sErr ErrSite.fatal).choice.flag = false) && decide ((sErr ErrSite.fatal).choice.site = ErrSite.fatal) && decide ((me (sErr ErrSite.fatal)).run.live = true) && decide ((me (sErr ErrSite.fatal)).parked = none) && decide (((me (sErr ErrSite.fatal)).cp.ch.all fun (l : List CCmd) => l.isEmpty) = true) && (match tblGet none (sErr ErrSite.fatal).launches (me (sErr ErrSite.fatal)).run.inst.launch with | some l'5 => decide ((me (sErr ErrSite.fatal)).run.inst.node < l'5.nodes.length) && true | _ => false)) = true) := by
  refine ⟨?_, ?_⟩ <;> decide +kernel

/-- Obligations.ErrorsAndRetirement, its part RetirementAndEviction: hypotheses met together. -/
theorem witness_RetirementAndEviction :
    ((decide ((sUnit (Unit'.core 0) 0 0).choice.flag = false) && decide ((sUnit (Unit'.core 0) 0 0).handovers = []) && (match (sUnit (Unit'.core 0) 0 0).choice.target with | Unit'.core n'0 => decide (n'0 < 256) && decide (threeErrors (sUnit (Unit'.core 0) 0 0) (Unit'.core n'0) = true) && decide (n'0 ∉ (sUnit (Unit'.core 0) 0 0).dev.absent) && decide ((coreAt (sUnit (Unit'.core 0) 0 0) n'0).run.group = none) && true | _ => false)) = true) ∧
    ((decide ((sUnit (Unit'.slice 7) 0 0).choice.flag = false) && (match (sUnit (Unit'.slice 7) 0 0).choice.target with | Unit'.slice n'1 => decide (threeErrors (sUnit (Unit'.slice 7) 0 0) (Unit'.slice n'1) = true) && decide (Unit'.slice n'1 ∉ (sUnit (Unit'.slice 7) 0 0).dev.retired) && decide (Unit'.slice n'1 ∉ (sUnit (Unit'.slice 7) 0 0).dev.pendingRetire) && true | _ => false)) = true) ∧
    (((match tblGet none sEvict.ms.l2 sEvict.choice.n with | some l'2 => decide (l'2.data.length = 128) && decide (l'2.sideDirty = false) && true | _ => false)) = true) := by
  refine ⟨?_, ?_, ?_⟩ <;> decide +kernel

/-- Obligations.HostInterface, its part HostAccess: hypotheses met together. -/
theorem witness_HostAccess_part1 :
    (((sHost { n := 8, flag := true, v := 8208 : Choice } { : Hcq }).choice.flag = true) ∧ ((sHost { n := 8, flag := true, v := 8208 : Choice } { : Hcq }).choice.n = 8) ∧ (BitVec.toNat (sHost { n := 8, flag := true, v := 8208 : Choice } { : Hcq }).choice.v % 8 = 0)) ∧
    (((sHost { n := 8, v := 327744 : Choice } { : Hcq }).choice.flag = false) ∧ (awake (sHost { n := 8, v := 327744 : Choice } { : Hcq }) = true) ∧ (hostReaches (BitVec.toNat (sHost { n := 8, v := 327744 : Choice } { : Hcq }).choice.v) = true) ∧ (BitVec.toNat (sHost { n := 8, v := 327744 : Choice } { : Hcq }).choice.v < 2 ^ 51) ∧ (0 < (sHost { n := 8, v := 327744 : Choice } { : Hcq }).choice.n) ∧ ((sHost { n := 8, v := 327744 : Choice } { : Hcq }).choice.n ≤ 64) ∧ (BitVec.toNat (sHost { n := 8, v := 327744 : Choice } { : Hcq }).choice.v % 128 + (sHost { n := 8, v := 327744 : Choice } { : Hcq }).choice.n ≤ 128) ∧ (linesOk (sHost { n := 8, v := 327744 : Choice } { : Hcq }).ms = true) ∧ (slicePoison (sliceTouch (sHost { n := 8, v := 327744 : Choice } { : Hcq }).ms (BitVec.toNat (sHost { n := 8, v := 327744 : Choice } { : Hcq }).choice.v) (sHost { n := 8, v := 327744 : Choice } { : Hcq }).choice.n) (BitVec.toNat (sHost { n := 8, v := 327744 : Choice } { : Hcq }).choice.v) (sHost { n := 8, v := 327744 : Choice } { : Hcq }).choice.n = false)) ∧
    ((awake (sHost { n := 8, flag := true, v := 8208 : Choice } { : Hcq }) = true) ∧ (hostReaches (BitVec.toNat (sHost { n := 8, flag := true, v := 8208 : Choice } { : Hcq }).choice.v) = true) ∧ (BitVec.toNat (sHost { n := 8, flag := true, v := 8208 : Choice } { : Hcq }).choice.v < 2 ^ 51) ∧ (linesOk (sHost { n := 8, flag := true, v := 8208 : Choice } { : Hcq }).ms = true) ∧ (BitVec.toNat (sHost { n := 8, flag := true, v := 8208 : Choice } { : Hcq }).choice.v + (sHost { n := 8, flag := true, v := 8208 : Choice } { : Hcq }).choice.data.length ≤ 2 ^ 51)) ∧
    (((sHost { n := 8192, k := 8, v := 74565 : Choice } { : Hcq }).choice.k = 8) ∧ ((sHost { n := 8192, k := 8, v := 74565 : Choice } { : Hcq }).choice.n = 8192)) ∧
    (((sHost { n := 8200, k := 8, v := 100 : Choice } { : Hcq }).choice.k = 8) ∧ ((sHost { n := 8200, k := 8, v := 100 : Choice } { : Hcq }).choice.n = 8200)) ∧
    (((sHost { n := 8208, k := 8, v := 7 : Choice } { : Hcq }).choice.k = 8) ∧ ((sHost { n := 8208, k := 8, v := 7 : Choice } { : Hcq }).choice.n = 8208) ∧ ((sHost { n := 8208, k := 8, v := 7 : Choice } { : Hcq }).dev.hcq.overrun = false)) := by
  refine ⟨?_, ?_, ?_, ?_, ?_, ?_⟩ <;> decide +kernel

/-- Obligations.HostInterface, its part HostAccess: hypotheses met together. -/
theorem witness_HostAccess_part2 :
    (((sHost { n := 12288, k := 8, v := 3 : Choice } { : Hcq }).choice.k = 8) ∧ ((sHost { n := 12288, k := 8, v := 3 : Choice } { : Hcq }).choice.n = 12288) ∧ ((sHost { n := 12288, k := 8, v := 3 : Choice } { : Hcq }).dev.mbox.busy = false) ∧ (1 ≤ bits (sHost { n := 12288, k := 8, v := 3 : Choice } { : Hcq }).choice.v 7 0) ∧ (bits (sHost { n := 12288, k := 8, v := 3 : Choice } { : Hcq }).choice.v 7 0 ≤ 8) ∧ (bits (sHost { n := 12288, k := 8, v := 3 : Choice } { : Hcq }).choice.v 7 0 ≠ 6) ∧ (bits (sHost { n := 12288, k := 8, v := 3 : Choice } { : Hcq }).choice.v 15 8 = 0) ∧ (bits (sHost { n := 12288, k := 8, v := 3 : Choice } { : Hcq }).choice.v 63 32 = 0) ∧ ((sHost { n := 12288, k := 8, v := 3 : Choice } { : Hcq }).dev.sec.fwOk = true)) ∧
    (((sHost { : Choice } { head := 4, overrun := true : Hcq }).dev.hcq.overrun = true)) := by
  refine ⟨?_, ?_⟩ <;> decide +kernel

/-- Obligations.HostInterface, its part HostRingCommands: hypotheses met together. -/
theorem witness_HostRingCommands_part1 :
    ((decide (hostServed (sRing 1) = true) && decide ((sRing 1).dev.hcq.overrun = false) && decide ((sRing 1).dev.hcq.head ≠ (sRing 1).dev.hcq.tail) && decide ((sRing 1).choice.flag = false) && decide (isHost (hcqSlot (sRing 1).dev.hcq) = true) && decide (ringCmd 1 = sliceRead (sRing 1).ms (hcqSlot (sRing 1).dev.hcq) 64) && decide (hcqBad (ringCmd 1) = false) && decide (linesOk (sRing 1).ms = true) && decide (pa50 (hcqSlot (sRing 1).dev.hcq) + 64 ≤ 2 ^ 51) && decide (field (ringCmd 1) 0 1 = 1) && decide (field (ringCmd 1) 8 1 ≤ 10) && decide (shareFits (sRing 1) (field (ringCmd 1) 8 1) (BitVec.ofNat 4 (field (ringCmd 1) 9 1)) = true) && (match freeCtx (sRing 1) with | some _ => true | _ => false)) = true) ∧
    ((decide (hostServed (sRing 11) = true) && decide ((sRing 11).dev.hcq.overrun = false) && decide ((sRing 11).dev.hcq.head ≠ (sRing 11).dev.hcq.tail) && decide ((sRing 11).choice.flag = false) && decide (isHost (hcqSlot (sRing 11).dev.hcq) = true) && decide (ringCmd 11 = sliceRead (sRing 11).ms (hcqSlot (sRing 11).dev.hcq) 64) && decide (hcqBad (ringCmd 11) = false) && decide (linesOk (sRing 11).ms = true) && decide (pa50 (hcqSlot (sRing 11).dev.hcq) + 64 ≤ 2 ^ 51) && decide (field (ringCmd 11) 0 1 = 1) && decide (10 < field (ringCmd 11) 8 1) && (match freeCtx (sRing 11) with | some _ => true | _ => false)) = true) ∧
    ((hostServed (sRing 2) = true) ∧ ((sRing 2).dev.hcq.overrun = false) ∧ ((sRing 2).dev.hcq.head ≠ (sRing 2).dev.hcq.tail) ∧ ((sRing 2).choice.flag = false) ∧ (isHost (hcqSlot (sRing 2).dev.hcq) = true) ∧ (ringCmd 2 = sliceRead (sRing 2).ms (hcqSlot (sRing 2).dev.hcq) 64) ∧ (hcqBad (ringCmd 2) = false) ∧ (linesOk (sRing 2).ms = true) ∧ (pa50 (hcqSlot (sRing 2).dev.hcq) + 64 ≤ 2 ^ 51) ∧ (field (ringCmd 2) 0 1 = 2) ∧ (ctxAt (sRing 2) (field (ringCmd 2) 4 4) ≠ none) ∧ (ctxRuns (sRing 2) (field (ringCmd 2) 4 4) = false)) ∧
    ((hostServed (sRing 12) = true) ∧ ((sRing 12).dev.hcq.overrun = false) ∧ ((sRing 12).dev.hcq.head ≠ (sRing 12).dev.hcq.tail) ∧ ((sRing 12).choice.flag = false) ∧ (isHost (hcqSlot (sRing 12).dev.hcq) = true) ∧ (ringCmd 12 = sliceRead (sRing 12).ms (hcqSlot (sRing 12).dev.hcq) 64) ∧ (hcqBad (ringCmd 12) = false) ∧ (linesOk (sRing 12).ms = true) ∧ (pa50 (hcqSlot (sRing 12).dev.hcq) + 64 ≤ 2 ^ 51) ∧ (field (ringCmd 12) 0 1 = 2) ∧ (ctxAt (sRing 12) (field (ringCmd 12) 4 4) = none ∨ ctxRuns (sRing 12) (field (ringCmd 12) 4 4) = true)) ∧
    ((decide (hostServed (sRing 3) = true) && decide ((sRing 3).dev.hcq.overrun = false) && decide ((sRing 3).dev.hcq.head ≠ (sRing 3).dev.hcq.tail) && decide ((sRing 3).choice.flag = false) && decide (isHost (hcqSlot (sRing 3).dev.hcq) = true) && decide (ringCmd 3 = sliceRead (sRing 3).ms (hcqSlot (sRing 3).dev.hcq) 64) && decide (hcqBad (ringCmd 3) = false) && decide (linesOk (sRing 3).ms = true) && decide (pa50 (hcqSlot (sRing 3).dev.hcq) + 64 ≤ 2 ^ 51) && decide (field (ringCmd 3) 0 1 = 3) && decide (ctxAt (sRing 3) (field (ringCmd 3) 4 4) ≠ none) && decide (regOk (sRing 3) (field (ringCmd 3) 16 8) (field (ringCmd 3) 8 1) (field (ringCmd 3) 9 1) (field (ringCmd 3) 10 1) = true) && (match reserved (sRing 3) (field (ringCmd 3) 4 4) ((field (ringCmd 3) 16 8 + 65535) / 65536) (field (ringCmd 3) 8 1) (field (ringCmd 3) 9 1) (if field (ringCmd 3) 10 1 = 255 then none else some (field (ringCmd 3) 10 1)) (sRing 3).choice.list with | some _ => true | _ => false)) = true) ∧
    ((hostServed (sRing 13) = true) ∧ ((sRing 13).dev.hcq.overrun = false) ∧ ((sRing 13).dev.hcq.head ≠ (sRing 13).dev.hcq.tail) ∧ ((sRing 13).choice.flag = false) ∧ (isHost (hcqSlot (sRing 13).dev.hcq) = true) ∧ (ringCmd 13 = sliceRead (sRing 13).ms (hcqSlot (sRing 13).dev.hcq) 64) ∧ (hcqBad (ringCmd 13) = false) ∧ (linesOk (sRing 13).ms = true) ∧ (pa50 (hcqSlot (sRing 13).dev.hcq) + 64 ≤ 2 ^ 51) ∧ (field (ringCmd 13) 0 1 = 3) ∧ (ctxAt (sRing 13) (field (ringCmd 13) 4 4) = none ∨ regOk (sRing 13) (field (ringCmd 13) 16 8) (field (ringCmd 13) 8 1) (field (ringCmd 13) 9 1) (field (ringCmd 13) 10 1) = false ∨ reserved (sRing 13) (field (ringCmd 13) 4 4) ((field (ringCmd 13) 16 8 + 65535) / 65536) (field (ringCmd 13) 8 1) (field (ringCmd 13) 9 1) (if field (ringCmd 13) 10 1 = 255 then none else some (field (ringCmd 13) 10 1)) (sRing 13).choice.list = none)) := by
  refine ⟨?_, ?_, ?_, ?_, ?_, ?_⟩ <;> decide +kernel

/-- Obligations.HostInterface, its part HostRingCommands: hypotheses met together. -/
theorem witness_HostRingCommands_part2 :
    ((decide (hostServed (sRing 4) = true) && decide ((sRing 4).dev.hcq.overrun = false) && decide ((sRing 4).dev.hcq.head ≠ (sRing 4).dev.hcq.tail) && decide ((sRing 4).choice.flag = false) && decide (isHost (hcqSlot (sRing 4).dev.hcq) = true) && decide (ringCmd 4 = sliceRead (sRing 4).ms (hcqSlot (sRing 4).dev.hcq) 64) && decide (hcqBad (ringCmd 4) = false) && decide (linesOk (sRing 4).ms = true) && decide (pa50 (hcqSlot (sRing 4).dev.hcq) + 64 ≤ 2 ^ 51) && decide (field (ringCmd 4) 0 1 = 4) && (match ownTht (sRing 4) (field (ringCmd 4) 4 4) (BitVec.ofNat 32 (field (ringCmd 4) 24 4)) with | some x'2 => decide (x'2.flight = true) && true | _ => false)) = true) ∧
    ((decide (hostServed sRingStill = true) && decide (sRingStill.dev.hcq.overrun = false) && decide (sRingStill.dev.hcq.head ≠ sRingStill.dev.hcq.tail) && decide (sRingStill.choice.flag = false) && decide (isHost (hcqSlot sRingStill.dev.hcq) = true) && decide (ringCmd 4 = sliceRead sRingStill.ms (hcqSlot sRingStill.dev.hcq) 64) && decide (hcqBad (ringCmd 4) = false) && decide (linesOk sRingStill.ms = true) && decide (pa50 (hcqSlot sRingStill.dev.hcq) + 64 ≤ 2 ^ 51) && decide (field (ringCmd 4) 0 1 = 4) && (match ownTht sRingStill (field (ringCmd 4) 4 4) (BitVec.ofNat 32 (field (ringCmd 4) 24 4)) with | some x'3 => decide (x'3.flight = false) && true | _ => false)) = true) ∧
    ((hostServed (sRing 5) = true) ∧ ((sRing 5).dev.hcq.overrun = false) ∧ ((sRing 5).dev.hcq.head ≠ (sRing 5).dev.hcq.tail) ∧ ((sRing 5).choice.flag = false) ∧ (isHost (hcqSlot (sRing 5).dev.hcq) = true) ∧ (ringCmd 5 = sliceRead (sRing 5).ms (hcqSlot (sRing 5).dev.hcq) 64) ∧ (hcqBad (ringCmd 5) = false) ∧ (linesOk (sRing 5).ms = true) ∧ (pa50 (hcqSlot (sRing 5).dev.hcq) + 64 ≤ 2 ^ 51) ∧ (field (ringCmd 5) 0 1 = 4) ∧ (ownTht (sRing 5) (field (ringCmd 5) 4 4) (BitVec.ofNat 32 (field (ringCmd 5) 24 4)) = none)) := by
  refine ⟨?_, ?_, ?_⟩ <;> decide +kernel

/-- Obligations.SuspendAndResume: hypotheses met together. -/
theorem witness_SuspendAndResume_part1 :
    ((mailRuns (sMail (mailOf 1 900 0 0) { : Sus }) 1 = true) ∧ ((sMail (mailOf 1 900 0 0) { : Sus }).dev.power.off = false) ∧ ((sMail (mailOf 1 900 0 0) { : Sus }).dev.sus.st = SusSt.none) ∧ (BitVec.getLsbD (sMail (mailOf 1 900 0 0) { : Sus }).dev.mbox.arg1 0 = false)) ∧
    ((mailRuns (sMail (mailOf 1 900 1 0) { : Sus }) 1 = true) ∧ ((sMail (mailOf 1 900 1 0) { : Sus }).dev.power.off = false) ∧ ((sMail (mailOf 1 900 1 0) { : Sus }).dev.sus.st = SusSt.none) ∧ (BitVec.getLsbD (sMail (mailOf 1 900 1 0) { : Sus }).dev.mbox.arg1 0 = true)) ∧
    ((mailRuns (sMail (mailOf 1 900 0 0) { st := SusSt.suspended : Sus }) 1 = true) ∧ ((sMail (mailOf 1 900 0 0) { st := SusSt.suspended : Sus }).dev.sus.st = SusSt.suspended ∨ (sMail (mailOf 1 900 0 0) { st := SusSt.suspended : Sus }).dev.power.off = true)) ∧
    (((match sOccupied.dev.sus.st with | SusSt.ordered tick'0 _ => decide (BitVec.toNat tick'0 ≤ BitVec.toNat sOccupied.gtc) && true | _ => false)) = true) ∧
    ((decide (entryDone (sMail (mailOf 1 900 0 0) { st := SusSt.entering 5, order := true : Sus }) = true) && decide ((sMail (mailOf 1 900 0 0) { st := SusSt.entering 5, order := true : Sus }).dev.sus.resume = false) && decide ((sMail (mailOf 1 900 0 0) { st := SusSt.entering 5, order := true : Sus }).dev.sus.cluster = false) && (match (sMail (mailOf 1 900 0 0) { st := SusSt.entering 5, order := true : Sus }).dev.sus.st with | SusSt.entering _ => true | _ => false)) = true) ∧
    (((sMail (mailOf 1 900 0 0) { : Sus }).dev.sus.st = SusSt.none) ∧ (BitVec.toNat (sMail (mailOf 1 900 0 0) { : Sus }).gtc < BitVec.toNat (sMail (mailOf 1 900 0 0) { : Sus }).choice.v)) := by
  refine ⟨?_, ?_, ?_, ?_, ?_, ?_⟩ <;> decide +kernel

/-- Obligations.SuspendAndResume: hypotheses met together. -/
theorem witness_SuspendAndResume_part2 :
    (((sMail (mailOf 1 900 0 0) { st := SusSt.suspended : Sus }).dev.sus.st ≠ SusSt.none)) ∧
    ((mailRuns (sMail (mailOf 2 0 0 0) { st := SusSt.suspended : Sus }) 2 = true) ∧ ((sMail (mailOf 2 0 0 0) { st := SusSt.suspended : Sus }).dev.sus.st = SusSt.suspended)) ∧
    ((mailRuns (sMail (mailOf 2 0 0 0) { : Sus }) 2 = true) ∧ ((sMail (mailOf 2 0 0 0) { : Sus }).dev.sus.st = SusSt.none)) ∧
    (((sMail (mailOf 1 900 0 0) { : Sus }).dev.sus.st ≠ SusSt.resuming)) ∧
    (((sMail (mailOf 2 0 0 0) { st := SusSt.resuming : Sus }).dev.sus.st = SusSt.resuming) ∧ (portsTrained (sMail (mailOf 2 0 0 0) { st := SusSt.resuming : Sus }) = false)) ∧
    ((sTrained.dev.sus.st = SusSt.resuming) ∧ (portsTrained sTrained = true)) := by
  refine ⟨?_, ?_, ?_, ?_, ?_, ?_⟩ <;> decide +kernel

/-- Obligations.SuspendAndResume: hypotheses met together. -/
theorem witness_SuspendAndResume_part3 :
    ((sRestoring.dev.sus.st = SusSt.restoring)) ∧
    ((sRestoring.dev.sus.st = SusSt.restoring) ∧ (restored sRestoring = false)) ∧
    (((sMail (mailOf 2 0 0 0) { st := SusSt.restoring : Sus }).dev.sus.st = SusSt.restoring) ∧ (restored (sMail (mailOf 2 0 0 0) { st := SusSt.restoring : Sus }) = true)) := by
  refine ⟨?_, ?_, ?_⟩ <;> decide +kernel

/-- Obligations.ManagementMailbox, its part MailboxCommands: hypotheses met together. -/
theorem witness_MailboxCommands_part1 :
    ((mailRuns (sMail (mailOf 3 0 0 0) { : Sus }) 3 = true) ∧ (respOk (sMail (mailOf 3 0 0 0) { : Sus }) = true) ∧ ((sMail (mailOf 3 0 0 0) { : Sus }).dev.sec.idKey ≠ IdKey.held)) ∧
    ((mailRuns sMailBadResp 3 = true) ∧ (respOk sMailBadResp = false)) ∧
    ((mailRuns (sMail (mailOf 4 140737488359424 0 0) { : Sus }) 4 = true)) ∧
    ((mailRuns (sMail (mailOf 5 140737488359424 8 0) { : Sus }) 5 = true)) ∧
    ((mailRuns (sMail (mailOf 7 5 0 0) { : Sus }) 7 = true) ∧ (∀ e ∈ (sMail (mailOf 7 5 0 0) { : Sus }).ctxs, e.2 = none) ∧ (BitVec.toNat (sMail (mailOf 7 5 0 0) { : Sus }).dev.mbox.arg0 % 65536 ≠ 65535)) ∧
    ((mailRuns (withL (sMail (mailOf 7 5 0 0) { : Sus })) 7 = true) ∧ ((∃ e ∈ (withL (sMail (mailOf 7 5 0 0) { : Sus })).ctxs, e.2 ≠ none) ∨ BitVec.toNat (withL (sMail (mailOf 7 5 0 0) { : Sus })).dev.mbox.arg0 % 65536 = 65535)) := by
  refine ⟨?_, ?_, ?_, ?_, ?_, ?_⟩ <;> decide +kernel

/-- Obligations.ManagementMailbox, its part MailboxCommands: hypotheses met together. -/
theorem witness_MailboxCommands_part2 :
    (mailRuns (sMail (mailOf 8 0 0 0) { : Sus }) 8 = true) := by
  decide +kernel

/-- Obligations.ManagementMailbox, its part DebugPort: hypotheses met together. -/
theorem witness_DebugPort :
    ((decide (mailRuns (sDebug 0 65535 true true) 6 = true) && decide (portOpen (sDebug 0 65535 true true) (BitVec.toNat (sDebug 0 65535 true true).dev.mbox.arg1) = false) && ([(Instr.debugStop, 0), (Instr.debugResume, 1), (Instr.debugRead, 2), (Instr.debugTrace, 3)]).any (fun e'0 => decide (BitVec.toNat (sDebug 0 65535 true true).dev.mbox.arg0 = e'0.2) && true)) = true) ∧
    ((mailRuns (sDebug 0 65535 true false) 6 = true) ∧ (BitVec.toNat (sDebug 0 65535 true false).dev.mbox.arg0 = 0) ∧ (portOpen (sDebug 0 65535 true false) (BitVec.toNat (sDebug 0 65535 true false).dev.mbox.arg1) = true) ∧ (debugRuns (sDebug 0 65535 true false) ≠ []) ∧ (∀ ex ∈ debugRuns (sDebug 0 65535 true false), (coreAt (sDebug 0 65535 true false) ex).run.dstop = true)) ∧
    ((mailRuns sDebugIdle 6 = true) ∧ (BitVec.toNat sDebugIdle.dev.mbox.arg0 = 0) ∧ (portOpen sDebugIdle (BitVec.toNat sDebugIdle.dev.mbox.arg1) = true) ∧ (debugRuns sDebugIdle = [])) ∧
    ((mailRuns (sDebug 0 65535 false false) 6 = true) ∧ (BitVec.toNat (sDebug 0 65535 false false).dev.mbox.arg0 = 0) ∧ (portOpen (sDebug 0 65535 false false) (BitVec.toNat (sDebug 0 65535 false false).dev.mbox.arg1) = true) ∧ (∃ ex ∈ debugRuns (sDebug 0 65535 false false), (coreAt (sDebug 0 65535 false false) ex).run.dstop = false)) ∧
    ((mailRuns (sDebug 1 65535 true false) 6 = true) ∧ (BitVec.toNat (sDebug 1 65535 true false).dev.mbox.arg0 = 1) ∧ (portOpen (sDebug 1 65535 true false) (BitVec.toNat (sDebug 1 65535 true false).dev.mbox.arg1) = true) ∧ ((List.range 288).any (fun ex => decide ((coreAt (sDebug 1 65535 true false) ex).run.dstop = true ∧ (coreAt (sDebug 1 65535 true false) ex).run.live = true ∧ (coreAt (sDebug 1 65535 true false) ex).run.inst.ctx = BitVec.toNat (sDebug 1 65535 true false).dev.mbox.arg1)) = true)) ∧
    ((decide (mailRuns (sDebug 3 0 true false) 6 = true) && decide (BitVec.toNat (sDebug 3 0 true false).dev.mbox.arg0 = 3) && decide (portOpen (sDebug 3 0 true false) (BitVec.toNat (sDebug 3 0 true false).dev.mbox.arg1) = true) && decide (respOk (sDebug 3 0 true false) = true) && decide (BitVec.toNat (sDebug 3 0 true false).dev.mbox.resp + 65536 ≤ 2 ^ 51) && decide (linesOk (sDebug 3 0 true false).ms = true) && (match List.filter (fun (k : ℕ) => traceOwner (coreAt (sDebug 3 0 true false) k) == some (BitVec.toNat (sDebug 3 0 true false).dev.mbox.arg1)) (debugSet (BitVec.toNat (sDebug 3 0 true false).dev.mbox.arg2)) with | [_] => true | _ => false)) = true) := by
  refine ⟨?_, ?_, ?_, ?_, ?_, ?_⟩ <;> decide +kernel

/-- Obligations.LinksPowerAndHeat, its part Links: hypotheses met together. -/
theorem witness_Links :
    (((sPort { n := 2, m := 6, flag := true : Choice } false).choice.n < 18) ∧ ((sPort { n := 2, m := 6, flag := true : Choice } false).choice.flag = true) ∧ ((sPort { n := 2, m := 6, flag := true : Choice } false).choice.m < 65536)) ∧
    (((sPort { n := 2, m := 6 : Choice } false).choice.n < 18) ∧ ((sPort { n := 2, m := 6 : Choice } false).choice.flag = false)) := by
  refine ⟨?_, ?_⟩ <;> decide +kernel

/-- Obligations.LinksPowerAndHeat, its part PowerAndHeat: hypotheses met together. -/
theorem witness_PowerAndHeat :
    (((sHeat { list := [4, 5, 6] : Choice } id).dev.power.windows < BitVec.toNat (sHeat { list := [4, 5, 6] : Choice } id).gtc / 1000)) ∧
    (((sHeat { list := [4, 5, 6] : Choice } id).choice.n = ↑(0 : Fin 4)) ∧ (atSafe (sHeat { list := [4, 5, 6] : Choice } id).dev.power (railSeq ↑(0 : Fin 4)) = true) ∧ ((sHeat { list := [4, 5, 6] : Choice } id).dev.power.off = false)) ∧
    (((sHeat { list := [4, 5, 6] : Choice } id).dev.therm.sweeps < BitVec.toNat (sHeat { list := [4, 5, 6] : Choice } id).gtc / 100000) ∧ ((sHeat { list := [4, 5, 6] : Choice } id).dev.power.off = false) ∧ ((List.range 80).all (fun i => decide ((fun (i : ℕ) => listGet 0 (sHeat { list := [4, 5, 6] : Choice } id).choice.list i) i < 256)) = true)) := by
  refine ⟨?_, ?_, ?_⟩ <;> decide +kernel

/-- Obligations.ImageEvents: hypotheses met together. -/
theorem witness_ImageEvents :
    (((match loadFile (sImage [] []) (sImage [] []).choice.n (sImage [] []).choice.data (sImage [] []).choice.pairs (if (sImage [] []).choice.flag = true then some (sImage [] []).choice.v else none) with | Except.error (_, _) => true | _ => false)) = true) ∧
    (((match chooseBase (sImage [] []) (sImage [] []).choice.n (sImage [] []).choice.data (if (sImage [] []).choice.flag = true then some (sImage [] []).choice.v else none) with | some _ => (match fileBad (sImage [] []).choice.data with | some _ => true | _ => false) | _ => false)) = true) ∧
    (((sImageAt 2097153 fileG).choice.flag = true) ∧ (BitVec.toNat (sImageAt 2097153 fileG).choice.v % 65536 ≠ 0 ∨ rangeFree (sImageAt 2097153 fileG) (sImageAt 2097153 fileG).choice.n (sImageAt 2097153 fileG).choice.v (fIsize (sImageAt 2097153 fileG).choice.data) = false)) ∧
    ((decide (namesImage (sUnload []) (sUnload []).choice.n = false) && (match tblGet none (sUnload []).images (sUnload []).choice.n with | some _ => true | _ => false)) = true) ∧
    ((decide (namesImage (sUnload [(4, some launchL)]) (sUnload [(4, some launchL)]).choice.n = true) && (match tblGet none (sUnload [(4, some launchL)]).images (sUnload [(4, some launchL)]).choice.n with | some _ => true | _ => false)) = true) := by
  refine ⟨?_, ?_, ?_, ?_, ?_⟩ <;> decide +kernel

/-- Obligations.DecodeExamples, its part UnassignedOpcodes: hypotheses met together. -/
theorem witness_UnassignedOpcodes :
    ((45 ≤ bits 3386706919782612992 63 56 ∧ bits 3386706919782612992 63 56 ≤ 47 ∨ bits 3386706919782612992 63 56 = 51 ∨ 58 ≤ bits 3386706919782612992 63 56 ∧ bits 3386706919782612992 63 56 ≤ 63 ∨ 76 ≤ bits 3386706919782612992 63 56 ∧ bits 3386706919782612992 63 56 ≤ 79 ∨ 94 ≤ bits 3386706919782612992 63 56 ∧ bits 3386706919782612992 63 56 ≤ 95 ∨ 102 ≤ bits 3386706919782612992 63 56 ∧ bits 3386706919782612992 63 56 ≤ 111 ∨ 125 ≤ bits 3386706919782612992 63 56 ∧ bits 3386706919782612992 63 56 ≤ 127 ∨ 139 ≤ bits 3386706919782612992 63 56 ∧ bits 3386706919782612992 63 56 ≤ 255)) ∧
    ((20 ≤ (BitVec.extractLsb' 40 7 (25288767438848 : W48)).toNat ∧ (BitVec.extractLsb' 40 7 (25288767438848 : W48)).toNat ≤ 23 ∨ 38 ≤ (BitVec.extractLsb' 40 7 (25288767438848 : W48)).toNat ∧ (BitVec.extractLsb' 40 7 (25288767438848 : W48)).toNat ≤ 39 ∨ 50 ≤ (BitVec.extractLsb' 40 7 (25288767438848 : W48)).toNat ∧ (BitVec.extractLsb' 40 7 (25288767438848 : W48)).toNat ≤ 55 ∨ (BitVec.extractLsb' 40 7 (25288767438848 : W48)).toNat = 71 ∨ 82 ≤ (BitVec.extractLsb' 40 7 (25288767438848 : W48)).toNat ∧ (BitVec.extractLsb' 40 7 (25288767438848 : W48)).toNat ≤ 87 ∨ 94 ≤ (BitVec.extractLsb' 40 7 (25288767438848 : W48)).toNat ∧ (BitVec.extractLsb' 40 7 (25288767438848 : W48)).toNat ≤ 95 ∨ 98 ≤ (BitVec.extractLsb' 40 7 (25288767438848 : W48)).toNat ∧ (BitVec.extractLsb' 40 7 (25288767438848 : W48)).toNat ≤ 103 ∨ 112 ≤ (BitVec.extractLsb' 40 7 (25288767438848 : W48)).toNat ∧ (BitVec.extractLsb' 40 7 (25288767438848 : W48)).toNat ≤ 127)) ∧
    ((16 ≤ (BitVec.extractLsb' 40 8 (25288767438848 : W48)).toNat)) ∧
    ((23 ≤ (BitVec.extractLsb' 40 8 (25288767438848 : W48)).toNat)) := by
  refine ⟨?_, ?_, ?_, ?_⟩ <;> decide +kernel

/-- Obligations.DecodeEncode: hypotheses met together. -/
theorem witness_DecodeEncode :
    (wf (Instr.add g1 (5 : Reg) (6 : Reg) (7 : Reg)) = true) := by
  decide +kernel

/-- Obligations.StepRunsTheWord: hypotheses met together. -/
theorem witness_StepRunsTheWord_part1 :
    ((decide ((sTurn Act.control).agenda = [turnOf Act.control, { : Turn }]) && decide ((turnOf Act.control).act = Act.control) && decide (controlRuns (me ({ (sTurn Act.control) with ex := (turnOf Act.control).ex, agenda := [{ : Turn }], choice := (turnOf Act.control).choice } : State)) = true) && decide (irqDue (me ({ (sTurn Act.control) with ex := (turnOf Act.control).ex, agenda := [{ : Turn }], choice := (turnOf Act.control).choice } : State)) = false) && decide (frozenEngine (me ({ (sTurn Act.control) with ex := (turnOf Act.control).ex, agenda := [{ : Turn }], choice := (turnOf Act.control).choice } : State)) = none) && decide (slogOn (me ({ (sTurn Act.control) with ex := (turnOf Act.control).ex, agenda := [{ : Turn }], choice := (turnOf Act.control).choice } : State)) = false) && (match imemWord (me ({ (sTurn Act.control) with ex := (turnOf Act.control).ex, agenda := [{ : Turn }], choice := (turnOf Act.control).choice } : State)) (me ({ (sTurn Act.control) with ex := (turnOf Act.control).ex, agenda := [{ : Turn }], choice := (turnOf Act.control).choice } : State)).ctl.pc with | some w'0 => (match decodeControl w'0 with | Except.ok i'1 => decide (stalls (me ({ (sTurn Act.control) with ex := (turnOf Act.control).ex, agenda := [{ : Turn }], choice := (turnOf Act.control).choice } : State)) i'1 = false) && decide ((me ({ (sTurn Act.control) with ex := (turnOf Act.control).ex, agenda := [{ : Turn }], choice := (turnOf Act.control).choice } : State)).cwait.isSome = true ∨ meetsPoison (me ({ (sTurn Act.control) with ex := (turnOf Act.control).ex, agenda := [{ : Turn }], choice := (turnOf Act.control).choice } : State)).ctl (Dec.fG w'0) i'1 = false) && true | _ => false) | _ => false)) = true) ∧
    ((decide ((sTurnLog Act.control).agenda = [turnOf Act.control, { : Turn }]) && decide ((turnOf Act.control).act = Act.control) && decide (controlRuns (me ({ (sTurnLog Act.control) with ex := (turnOf Act.control).ex, agenda := [{ : Turn }], choice := (turnOf Act.control).choice } : State)) = true) && decide (irqDue (me ({ (sTurnLog Act.control) with ex := (turnOf Act.control).ex, agenda := [{ : Turn }], choice := (turnOf Act.control).choice } : State)) = false) && decide (frozenEngine (me ({ (sTurnLog Act.control) with ex := (turnOf Act.control).ex, agenda := [{ : Turn }], choice := (turnOf Act.control).choice } : State)) = none) && decide (slogOn (me ({ (sTurnLog Act.control) with ex := (turnOf Act.control).ex, agenda := [{ : Turn }], choice := (turnOf Act.control).choice } : State)) = true) && (match imemWord (me ({ (sTurnLog Act.control) with ex := (turnOf Act.control).ex, agenda := [{ : Turn }], choice := (turnOf Act.control).choice } : State)) (me ({ (sTurnLog Act.control) with ex := (turnOf Act.control).ex, agenda := [{ : Turn }], choice := (turnOf Act.control).choice } : State)).ctl.pc with | some w'0 => (match decodeControl w'0 with | Except.ok i'1 => decide (stalls (me ({ (sTurnLog Act.control) with ex := (turnOf Act.control).ex, agenda := [{ : Turn }], choice := (turnOf Act.control).choice } : State)) i'1 = false) && decide ((me ({ (sTurnLog Act.control) with ex := (turnOf Act.control).ex, agenda := [{ : Turn }], choice := (turnOf Act.control).choice } : State)).cwait.isSome = true ∨ meetsPoison (me ({ (sTurnLog Act.control) with ex := (turnOf Act.control).ex, agenda := [{ : Turn }], choice := (turnOf Act.control).choice } : State)).ctl (Dec.fG w'0) i'1 = false) && true | _ => false) | _ => false)) = true) ∧
    ((decide ((sTurn (Act.engine Seq.vector)).agenda = [turnOf (Act.engine Seq.vector), { : Turn }]) && decide (engineRuns (me ({ (sTurn (Act.engine Seq.vector)) with ex := (turnOf (Act.engine Seq.vector)).ex, agenda := [{ : Turn }], choice := (turnOf (Act.engine Seq.vector)).choice } : State)) = true) && decide (slogOn (me ({ (sTurn (Act.engine Seq.vector)) with ex := (turnOf (Act.engine Seq.vector)).ex, agenda := [{ : Turn }], choice := (turnOf (Act.engine Seq.vector)).choice } : State)) = false) && (match (turnOf (Act.engine Seq.vector)).act with | Act.engine sq'2 => decide (sq'2 ≠ Seq.control) && decide ((engOf (me ({ (sTurn (Act.engine Seq.vector)) with ex := (turnOf (Act.engine Seq.vector)).ex, agenda := [{ : Turn }], choice := (turnOf (Act.engine Seq.vector)).choice } : State)) sq'2).st = EngSt.running) && decide ((engOf (me ({ (sTurn (Act.engine Seq.vector)) with ex := (turnOf (Act.engine Seq.vector)).ex, agenda := [{ : Turn }], choice := (turnOf (Act.engine Seq.vector)).choice } : State)) sq'2).trap = none) && decide (pointStalls ({ (sTurn (Act.engine Seq.vector)) with ex := (turnOf (Act.engine Seq.vector)).ex, agenda := [{ : Turn }], choice := (turnOf (Act.engine Seq.vector)).choice } : State) sq'2 = false) && (match ememWord (me ({ (sTurn (Act.engine Seq.vector)) with ex := (turnOf (Act.engine Seq.vector)).ex, agenda := [{ : Turn }], choice := (turnOf (Act.engine Seq.vector)).choice } : State)) (engOf (me ({ (sTurn (Act.engine Seq.vector)) with ex := (turnOf (Act.engine Seq.vector)).ex, agenda := [{ : Turn }], choice := (turnOf (Act.engine Seq.vector)).choice } : State)) sq'2).seg (engOf (me ({ (sTurn (Act.engine Seq.vector)) with ex := (turnOf (Act.engine Seq.vector)).ex, agenda := [{ : Turn }], choice := (turnOf (Act.engine Seq.vector)).choice } : State)) sq'2).widx with | some w'3 => (match decodeEngine sq'2 w'3 with | Except.ok _ => true | _ => false) | _ => false) | _ => false)) = true) ∧
    ((decide ((sTurnLog (Act.engine Seq.vector)).agenda = [turnOf (Act.engine Seq.vector), { : Turn }]) && decide (engineRuns (me ({ (sTurnLog (Act.engine Seq.vector)) with ex := (turnOf (Act.engine Seq.vector)).ex, agenda := [{ : Turn }], choice := (turnOf (Act.engine Seq.vector)).choice } : State)) = true) && decide (slogOn (me ({ (sTurnLog (Act.engine Seq.vector)) with ex := (turnOf (Act.engine Seq.vector)).ex, agenda := [{ : Turn }], choice := (turnOf (Act.engine Seq.vector)).choice } : State)) = true) && (match (turnOf (Act.engine Seq.vector)).act with | Act.engine sq'2 => decide (sq'2 ≠ Seq.control) && decide ((engOf (me ({ (sTurnLog (Act.engine Seq.vector)) with ex := (turnOf (Act.engine Seq.vector)).ex, agenda := [{ : Turn }], choice := (turnOf (Act.engine Seq.vector)).choice } : State)) sq'2).st = EngSt.running) && decide ((engOf (me ({ (sTurnLog (Act.engine Seq.vector)) with ex := (turnOf (Act.engine Seq.vector)).ex, agenda := [{ : Turn }], choice := (turnOf (Act.engine Seq.vector)).choice } : State)) sq'2).trap = none) && decide (pointStalls ({ (sTurnLog (Act.engine Seq.vector)) with ex := (turnOf (Act.engine Seq.vector)).ex, agenda := [{ : Turn }], choice := (turnOf (Act.engine Seq.vector)).choice } : State) sq'2 = false) && (match ememWord (me ({ (sTurnLog (Act.engine Seq.vector)) with ex := (turnOf (Act.engine Seq.vector)).ex, agenda := [{ : Turn }], choice := (turnOf (Act.engine Seq.vector)).choice } : State)) (engOf (me ({ (sTurnLog (Act.engine Seq.vector)) with ex := (turnOf (Act.engine Seq.vector)).ex, agenda := [{ : Turn }], choice := (turnOf (Act.engine Seq.vector)).choice } : State)) sq'2).seg (engOf (me ({ (sTurnLog (Act.engine Seq.vector)) with ex := (turnOf (Act.engine Seq.vector)).ex, agenda := [{ : Turn }], choice := (turnOf (Act.engine Seq.vector)).choice } : State)) sq'2).widx with | some w'3 => (match decodeEngine sq'2 w'3 with | Except.ok _ => true | _ => false) | _ => false) | _ => false)) = true) ∧
    ((decide ((sTurn (Act.event Instr.reset)).agenda = [turnOf (Act.event Instr.reset), { : Turn }]) && (match (turnOf (Act.event Instr.reset)).act with | Act.event i'5 => decide (isEvent i'5 = true) && decide (gives ({ (sTurn (Act.event Instr.reset)) with ex := (turnOf (Act.event Instr.reset)).ex, agenda := [{ : Turn }], choice := (turnOf (Act.event Instr.reset)).choice } : State) i'5 = none ∨ slogOn (me ({ (sTurn (Act.event Instr.reset)) with ex := (turnOf (Act.event Instr.reset)).ex, agenda := [{ : Turn }], choice := (turnOf (Act.event Instr.reset)).choice } : State)) = false) && true | _ => false)) = true) ∧
    ((decide ((sTurn (Act.event Instr.engineRun)).agenda = [turnOf (Act.event Instr.engineRun), { : Turn }]) && (match (turnOf (Act.event Instr.engineRun)).act with | Act.event i'6 => decide (isEvent i'6 = true) && (match gives ({ (sTurn (Act.event Instr.engineRun)) with ex := (turnOf (Act.event Instr.engineRun)).ex, agenda := [{ : Turn }], choice := (turnOf (Act.event Instr.engineRun)).choice } : State) i'6 with | some _ => true | _ => false) | _ => false)) = true) := by
  refine ⟨?_, ?_, ?_, ?_, ?_, ?_⟩ <;> decide +kernel

/-- Obligations.StepRunsTheWord: hypotheses met together. -/
theorem witness_StepRunsTheWord_part2 :
    ((sTurn Act.control).agenda = [turnOf Act.control, { : Turn }]) ∧ (trcOn (me ({ (sTurn Act.control) with ex := (turnOf Act.control).ex, agenda := [{ : Turn }], choice := (turnOf Act.control).choice } : State)) = false) ∧ ((me ({ (sTurn Act.control) with ex := (turnOf Act.control).ex, agenda := [{ : Turn }], choice := (turnOf Act.control).choice } : State)).ctl.late = []) := by
  decide +kernel

/-! Lengths of the debug port's picture: at most 2 ^ 35 bytes where every tensor slot of the core is 64 bytes long. -/
theorem leBytes_len : ∀ n v : Nat, (leBytes n v).length = n
  | 0, _ => rfl
  | n + 1, v => by simp [leBytes, leBytes_len n]
theorem zeros_len (n : Nat) : (zeros n).length = n := by simp [zeros]
theorem openBytes_len (a n : Nat) : (openBytes a n).length = n := by simp [openBytes]
theorem flatMap_len {α : Type} (f : α → List Byte) (k : Nat) : ∀ l : List α, (∀ x ∈ l, (f x).length ≤ k) → (l.flatMap f).length ≤ l.length * k
  | [], _ => by simp
  | x :: r, h => by
      have h1 := h x (by simp)
      have h2 := flatMap_len f k r (fun y hy => h y (by simp [hy]))
      simp only [List.flatMap_cons, List.length_append, List.length_cons, Nat.succ_mul]
      omega
theorem range_len (f : Nat → List Byte) (k n : Nat) (h : ∀ i, (f i).length ≤ k) : ((List.range n).flatMap f).length ≤ n * k := by
  have := flatMap_len f k (List.range n) (fun i _ => h i)
  simpa using this
theorem vector_len {α : Type} {n : Nat} (f : α → List Byte) (k : Nat) (v : Vector α n) (h : ∀ x, (f x).length ≤ k) : (v.toList.flatMap f).length ≤ n * k := by
  have := flatMap_len f k v.toList (fun i _ => h i)
  simpa using this
theorem splice_len (b c : List Byte) (o : Nat) : (splice b o c).length ≤ b.length + c.length := by
  simp only [splice, List.length_append, List.length_take, List.length_drop]
  omega
theorem cellBytes_len (c : Core) : ∀ n i : Nat, (cellBytes c n i).length = 4 * n
  | 0, _ => rfl
  | n + 1, i => by simp [cellBytes, leBytes_len, cellBytes_len c n]; omega
theorem withPlace_len (b : List Byte) (x y : Nat) (r : Bool) : (withPlace b x y r).length ≤ b.length + 2 := by
  unfold withPlace
  have h1 := splice_len (splice b 47 (leBytes 1 x)) (leBytes 1 (y + (if r then 128 else 0))) 63
  have h2 := splice_len b (leBytes 1 x) 47
  simp only [leBytes_len] at h1 h2
  omega
theorem bankBytes_len (b : Bank) : (bankBytes b).length ≤ 128 * (128 * 4) :=
  range_len _ _ _ (fun _ => range_len _ _ _ (fun _ => by simp [leBytes_len]))
theorem engineBlock_len (e : Eng) (p : BitVec 12) (l : Bool) : (engineBlock e p l).length ≤ 48 := by
  cases l <;> simp [engineBlock, eloopBytes, leBytes_len, zeros_len]
theorem engineExt_len (c : Core) (e : Eng) : (engineExt c e).length ≤ 32 := by
  simp [engineExt, leBytes_len, zeros_len]
theorem strmBytes_len (c : Core) (q : Nat) : (strmBytes c q).length ≤ 8 := by
  unfold strmBytes; split <;> simp [leBytes_len, zeros_len]
theorem levelBytes_len (l : MLev) (i : Nat) : (levelBytes l i).length ≤ 40 := by
  simp [levelBytes, leBytes_len, zeros_len]
theorem nestBytes_len (m : Mat) : (nestBytes m).length ≤ 64 := by
  simp [nestBytes, leBytes_len, zeros_len]
theorem ruleBytes_len (r : Rule) : (ruleBytes r).length ≤ 32 := by
  simp only [ruleBytes, leBytes_len, zeros_len, List.length_append, List.length_take]; omega
theorem ksrHead_len (s : State) (c : Core) (h : KsrHead) : (ksrHead s c h).length ≤ 1000 := by
  have h' := range_len (fun n => leBytes 8 (c.ctl.rd (BitVec.ofNat 6 n)).toNat) 8 64 (fun _ => by simp [leBytes_len])
  simp only [ksrHead, List.length_append, leBytes_len, zeros_len, List.length_map, List.length_range]
  omega
theorem app_len {a b : List Byte} {m n : Nat} (h : a.length ≤ m) (h' : b.length ≤ n) : (a ++ b).length ≤ m + n := by
  rw [List.length_append]; exact Nat.add_le_add h h'
theorem kqBytes_len (q : List (Option W32)) : ((q.flatMap (fun (x : Option W32) => leBytes 4 ((x.getD 0).toNat)) ++ zeros 64).take 64).length ≤ 64 := by
  rw [List.length_take]; exact Nat.min_le_left _ _
theorem ksrFixed_len (s : State) (ex : Nat) (hs : ∀ n, (slotOf (coreAt s ex) n).length ≤ 64) : (ksrFixed s ex {}).length ≤ 100000 := by
  have a : ∀ x, (splice (ksrHead s (coreAt s ex) {}) 0x18 (leBytes 4 x)).length ≤ 1004 := fun x => by
    have h := splice_len (ksrHead s (coreAt s ex) {}) (leBytes 4 x) 0x18
    have h' := ksrHead_len s (coreAt s ex) {}
    rw [leBytes_len] at h
    exact Nat.le_trans h (Nat.add_le_add_right h' 4)
  have t : ∀ n, (withPlace (slotOf (coreAt s ex) n) 0 0 false).length ≤ 66 := fun n =>
    Nat.le_trans (withPlace_len _ _ _ _) (Nat.add_le_add_right (hs n) 2)
  unfold ksrFixed
  refine Nat.le_trans (app_len (app_len (app_len (app_len (app_len (app_len (app_len (app_len (app_len (app_len (app_len (app_len (app_len (app_len (app_len (app_len (app_len (app_len (app_len (app_len (a _)
    (vector_len loopBytes 24 _ (fun _ => by simp [loopBytes, leBytes_len])))
    (engineBlock_len _ _ _))
    (engineBlock_len _ _ _))
    (engineBlock_len _ _ _))
    (vector_len _ 4 (coreAt s ex).vec.a (fun _ => Nat.le_of_eq (leBytes_len _ _))))
    (range_len _ 8 _ (fun _ => Nat.le_of_eq (leBytes_len _ _))))
    (Nat.le_of_eq (leBytes_len _ _)))
    (Nat.le_of_eq (zeros_len _)))
    (range_len _ 8 _ (strmBytes_len _)))
    (vector_len _ 4 (coreAt s ex).sync.v (fun _ => Nat.le_of_eq (leBytes_len _ _))))
    (vector_len _ 4 (coreAt s ex).sync.p (fun _ => Nat.le_of_eq (leBytes_len _ _))))
    (range_len _ 32 _ (fun _ => ruleBytes_len _)))
    (range_len _ 40 _ (fun _ => levelBytes_len _ _)))
    (nestBytes_len _))
    (engineExt_len _ _))
    (engineExt_len _ _))
    (engineExt_len _ _))
    (range_len _ 66 _ t))
    (Nat.le_of_eq (List.length_map _)))
    (vector_len _ 64 _ kqBytes_len)) ?_
  rw [List.length_range]
  decide
theorem leNat_lt : ∀ l : List Byte, leNat l < 256 ^ l.length
  | [] => by simp [leNat]
  | b :: r => by
      have h := leNat_lt r
      have hb := b.isLt
      simp only [leNat, List.length_cons, Nat.pow_succ]
      omega
theorem field_lt4 (b : List Byte) (o : Nat) : field b o 4 < 2 ^ 32 := by
  have h := leNat_lt ((b.drop o).take 4)
  have : 256 ^ ((b.drop o).take 4).length ≤ 256 ^ 4 := Nat.pow_le_pow_right (by omega) (by simp only [List.length_take]; omega)
  unfold field
  omega
theorem picture_len (s : State) (ex : Nat) (hs : ∀ n, (slotOf (coreAt s ex) n).length ≤ 64) : (debugPicture s ex).length ≤ 2 ^ 35 := by
  have a := ksrFixed_len s ex hs
  have b := range_len (fun n => (vreg (coreAt s ex).vec n).toList.flatMap (fun x => leBytes 4 x.toNat)) 256 768
    (fun n => by have := vector_len (fun x => leBytes 4 x.toNat) 4 (vreg (coreAt s ex).vec n) (fun _ => by simp [leBytes_len]); simpa using this)
  have c : (stateBlock s ex).length ≤ 10000 := by
    have := vector_len (fun x => leBytes 8 x.toNat) 8 (coreAt s ex).csr.sscr (fun _ => by simp [leBytes_len])
    simp only [stateBlock, List.length_append, leBytes_len, zeros_len, openBytes_len]
    omega
  have d : (irbRegion (coreAt s ex)).length ≤ 48 * 288 := by simp only [irbRegion, List.length_take]; omega
  have e : (dqRegion (coreAt s ex)).length ≤ 0x2000 := by simp only [dqRegion, List.length_take]; omega
  have u := vector_len (fun q : List (Option W32) => (q.flatMap (fun (x : Option W32) => leBytes 4 ((x.getD 0).toNat)) ++ zeros 64).take 64) 64 (coreAt s ex).sync.kq
    (fun _ => by simp only [List.length_take]; omega)
  have f := bankBytes_len (coreAt s ex).mx.bank0
  have g := bankBytes_len (coreAt s ex).mx.bank1
  have i := range_len (ratRegion s (coreAt s ex)) (128 * 80) 16 (fun n => range_len _ _ _ (fun i => by
    simp only [List.length_append, List.length_take, openBytes_len]; omega))
  have j : (tagRegion (coreAt s ex)).length = 32768 := by simp only [tagRegion, List.length_map, List.length_range]
  have k : (spadRegion s (coreAt s ex)).length ≤ 2 ^ 32 := by
    simp only [spadRegion, List.length_take]
    refine Nat.le_trans (Nat.min_le_left _ _) (Nat.le_of_lt ?_)
    exact field_lt4 _ _
  have l := cellBytes_len (coreAt s ex) 320 0
  simp only [debugPicture, pictureOf, List.length_append, openBytes_len] at *
  omega

theorem witness_debug_read : (DebugDue (sDebug 2 0 true false) 2 ∧ debugRuns (sDebug 2 0 true false) = [0] ∧ (coreAt (sDebug 2 0 true false) 0).run.dstop = true) ∧
    RespTakes (sDebug 2 0 true false) (debugPicture (sDebug 2 0 true false) 0).length := by
  refine ⟨⟨by unfold DebugDue; decide +kernel, by decide +kernel, by decide +kernel⟩, by decide +kernel, ?_, linesOk_whole _ (by decide +kernel)⟩
  have h := picture_len (sDebug 2 0 true false) 0 (fun n => by
    have e : (coreAt (sDebug 2 0 true false) 0).cp.slots = [] := by decide +kernel
    simp [slotOf, e, tblGet, zeros_len])
  have r : (sDebug 2 0 true false).dev.mbox.resp.toNat = 0x800000000040 := by decide +kernel
  rw [r]; omega
theorem reportBody_len (s : State) : (reportBody s).length ≤ 1500 + 32 * s.dev.sec.meas.length + 4 * s.dev.retired.length := by
  have a := flatMap_len (fun m : List Byte => (m ++ zeros 32).take 32) 32 s.dev.sec.meas (fun _ _ => by simp only [List.length_take]; omega)
  have b := flatMap_len unitBytes 4 s.dev.retired (fun u _ => by cases u <;> simp [unitBytes, leBytes_len])
  simp only [reportBody, List.length_append, leBytes_len, zeros_len, List.length_take] at *
  omega
/-- Obligations.ManagementMailbox, its part MailboxCommands: the hypotheses of its ATTEST clause met together. -/
theorem witness_attest : mailRuns sMailKey 3 = true ∧ sMailKey.dev.sec.idKey = .held ∧ RespTakes sMailKey ((reportBody sMailKey).length + 2420) := by
  refine ⟨by decide +kernel, by decide +kernel, by decide +kernel, ?_, linesOk_whole _ (by decide +kernel)⟩
  have h := reportBody_len sMailKey
  have r : sMailKey.dev.mbox.resp.toNat = 0x800000000040 := by decide +kernel
  have m : sMailKey.dev.sec.meas.length = 8 := by decide +kernel
  have e : sMailKey.dev.retired.length = 0 := by decide +kernel
  have k : ∀ x y z w : Nat, x = 0x800000000040 → y = 8 → z = 0 → w ≤ 1500 + 32 * y + 4 * z → x + (w + 2420) ≤ 2 ^ 51 := by omega
  exact k _ _ _ _ r m e h
/-- A flit of flitC is whole exactly where it is said to be. -/
theorem whole_flitC (dst cls : Nat) (ok : Bool) (d : List Byte) (b : Bool) : Whole (sPort (flitC dst cls ok d) b) ↔ ok = true := by
  have e : flitBytes (theFlit (sPort (flitC dst cls ok d) b)) = flitBytes { src := 6, dst := BitVec.ofNat 16 dst, cls := BitVec.ofNat 2 cls, payload := d } := rfl
  have v : (sPort (flitC dst cls ok d) b).choice.v =
      Config.crc64 (flitBytes { src := 6, dst := BitVec.ofNat 16 dst, cls := BitVec.ofNat 2 cls, payload := d }) + (if ok then 0 else 1) := rfl
  unfold Whole
  rw [v, e]
  generalize Config.crc64 _ = x
  cases ok
  · simp
  · simp
theorem flitDue_flitC (dst cls : Nat) (d : List Byte) (b : Bool) (h : d.length ≤ 224) : FlitDue (sPort (flitC dst cls true d) b) := by
  refine ⟨show 2 < 18 by decide, by cases b <;> rfl, h, (whole_flitC ..).mpr rfl, ?_⟩
  have h0 : ∀ k : Fin 4, (Vector.replicate 4 0 : Vector Nat 4).get k = 0 := by decide
  cases b <;> exact h0 _
/-- Obligations.LinksPowerAndHeat, its part Links: the hypotheses of each clause about a flit met together. -/
theorem witness_Links_stutters : (portAt (sPort { flitC 5 3 true [] with n := 3 } false) 3).up = false ∧
    (¬ Whole (sPort (flitC 5 3 false []) false) ∧ (sPort { flitC 5 3 false [] with k := 0 } false).choice.k = 0) := by
  refine ⟨by decide, fun h => ?_, rfl⟩
  exact absurd ((whole_flitC 5 3 false [] false).mp h) (by decide)
theorem witness_Links_replay : let s := sPort (flitC 5 3 false []) false
    s.choice.n < 18 ∧ (portAt s s.choice.n).up = true ∧ s.choice.data.length ≤ 224 ∧ ¬ Whole s ∧ s.choice.k ≠ 0 :=
  ⟨by decide, by decide, by decide, fun h => absurd ((whole_flitC 5 3 false [] false).mp h) (by decide), by decide⟩
theorem witness_Links_time : let s := sPort (flitC 5 3 true []) false
    FlitDue s ∧ (theFlit s).cls = 3 ∧ (theFlit s).dst = s.dev.sysdev := ⟨flitDue_flitC _ _ _ _ (by decide), by decide, by decide⟩
theorem witness_Links_timeOnly : let s := sPort (flitC 5 1 true []) true
    FlitDue s ∧ (portAt s s.choice.n).timeOnly = true ∧ (theFlit s).cls ≠ 3 := ⟨flitDue_flitC _ _ _ _ (by decide), by decide, by decide⟩
theorem witness_Links_other : let s := sPort (flitC 9 1 true []) false
    FlitDue s ∧ ((portAt s s.choice.n).timeOnly = false ∨ (theFlit s).cls = 3) ∧ forwarded (theFlit s) = false ∧ (theFlit s).dst ≠ s.dev.sysdev :=
  ⟨flitDue_flitC _ _ _ _ (by decide), by decide, by decide, by decide⟩
theorem witness_Links_stranger : let s := (fun s : State => { s with dev := { s.dev with ports := s.dev.ports.set 2 { up := true, peer := 7, timeOnly := false } } }) (sPort (flitC 5 0 true []) false)
    FlitDue s ∧ (portAt s s.choice.n).timeOnly = false ∧ (theFlit s).cls = 0 ∧ (theFlit s).dst = s.dev.sysdev ∧ (theFlit s).src ≠ (portAt s s.choice.n).peer :=
  ⟨⟨by decide, by decide, by decide, (whole_flitC 5 0 true [] false).mpr rfl, by decide⟩, by decide, by decide, by decide, by decide⟩
theorem witness_Links_suspend : let s := sPort (flitC 5 2 true (leBytes 1 1 ++ leBytes 8 900)) false
    FlitDue s ∧ (portAt s s.choice.n).timeOnly = false ∧ (theFlit s).cls = 2 ∧ s.choice.data = leBytes 1 1 ++ leBytes 8 (900 : W64).toNat ∧
      s.dev.sus.st = .none ∧ s.gtc.toNat < (900 : W64).toNat :=
  ⟨flitDue_flitC _ _ _ _ (by decide), by decide, by decide, by decide, by decide, by decide⟩
theorem witness_StepKeepsMemory : MemInv (sTurn .control) ∧ StepsTo (sTurn .control) (stepOf (sTurn .control)) := by
  refine ⟨⟨by unfold MemWf; decide +kernel, linesOk_whole _ (by decide +kernel)⟩, ?_⟩
  have : (match step (sTurn .control) with | .next _ => true | _ => false) = true := by decide +kernel
  unfold StepsTo stepOf
  split at this
  · next h => rw [h]
  · cases this
theorem witness_RoutingArrivals_held : (sHeldMsg (.answer hdrA 0)).msgs.find? (fun y => y.id == (sHeldMsg (.answer hdrA 0)).choice.n && y.dst == (sHeldMsg (.answer hdrA 0)).ex.val) =
      some (msgA (.answer hdrA 0)) ∧ heldBack (sHeldMsg (.answer hdrA 0)) (msgA (.answer hdrA 0)) = true ∧
    ∀ n cap win hdr payload marks, (msgA (.answer hdrA 0)).kind ≠ .place n cap win hdr payload marks := by
  refine ⟨by decide +kernel, by decide +kernel, ?_⟩
  intros
  exact nofun

/-- A level above the last goes on to the next, with at most one page taken for its table. -/
theorem mapPage_next (m : MemSys) (va pte : W64) (f level t a : Nat) (l : List Nat) (h : level ≠ 3) :
    ∃ m' t' l', (l' = a :: l ∨ l' = l) ∧ mapPage m va pte (f + 1) level t (a :: l) = mapPage m' va pte f (level + 1) t' l' := by
  rw [mapPage, if_neg h]
  generalize t + 8 * (va.toNat / 2 ^ (if level = 1 then 42 else if level = 2 then 29 else 16) % 8192) = p
  dsimp only
  split
  · exact ⟨_, _, _, .inl rfl, rfl⟩
  · exact ⟨_, _, _, .inr rfl, rfl⟩
theorem mapPage_leaf (m : MemSys) (va pte : W64) (t : Nat) (l : List Nat) : (mapPage m va pte 1 3 t l).isSome = true := by
  unfold mapPage
  rw [if_pos rfl]
  rfl
/-- A page is mapped wherever two pages are at hand for its tables. -/
theorem mapPage_some (m : MemSys) (va pte : W64) (t a b : Nat) : (mapPage m va pte 3 1 t [a, b]).isSome = true := by
  obtain ⟨m1, t1, l1, hl, h1⟩ := mapPage_next m va pte 2 1 t a [b] (by decide)
  rw [h1]
  rcases hl with rfl | rfl
  · obtain ⟨m2, t2, l2, -, h2⟩ := mapPage_next m1 va pte 1 2 t1 a [b] (by decide)
    rw [h2]
    exact mapPage_leaf _ _ _ _ _
  · obtain ⟨m2, t2, l2, -, h2⟩ := mapPage_next m1 va pte 1 2 t1 b [] (by decide)
    rw [h2]
    exact mapPage_leaf _ _ _ _ _
/-- A load of a good file, its named base, its page and two more for tables. -/
def sPublish : State := (fun s : State => { s with choice := { s.choice with list2 := [601, 602] } }) (sImage fileG [])
/-- Obligations.ImageEvents, its publication: hypotheses met together. -/
theorem witness_ImageEvents_publish : let s := sPublish; let q := s.choice; let ps := imgPages q.data
    ∃ base i m, loadFile s q.n q.data q.pairs (if q.flag then some q.v else none) = .ok (base, i) ∧ q.m ≠ 0 ∧ tblGet none s.images q.m = none ∧ ctxAt s q.n ≠ none ∧
      pagesFor s ps.length q.list q.list2 = true ∧
      mapAll (bits ((ctxAt s q.n).getD {}).ptroot 50 16 * 65536) base (ps.zip q.list) (putPages i (ps.zip q.list) s.ms) q.list2 = some m := by
  have h : (match loadFile sPublish sPublish.choice.n sPublish.choice.data sPublish.choice.pairs (if sPublish.choice.flag then some sPublish.choice.v else none) with
    | .ok _ => true | _ => false) = true := by decide +kernel
  intro s q ps
  split at h
  case h_2 => cases h
  rename_i x hx
  obtain ⟨base, i⟩ := x
  have hz : (imgPages sPublish.choice.data).zip sPublish.choice.list = [((0, 5), 600)] := by decide +kernel
  have hm := mapPage_some (putPages i [((0, 5), 600)] sPublish.ms) (base + BitVec.ofNat 64 (65536 * 0)) (imgPte 600 5)
    (bits ((ctxAt sPublish sPublish.choice.n).getD {}).ptroot 50 16 * 65536) 601 602
  obtain ⟨y, hy⟩ := Option.isSome_iff_exists.mp hm
  refine ⟨base, i, y.1, hx, by decide +kernel, by decide +kernel, by decide +kernel, by decide +kernel, ?_⟩
  show mapAll _ base ((imgPages sPublish.choice.data).zip sPublish.choice.list) (putPages i ((imgPages sPublish.choice.data).zip sPublish.choice.list) sPublish.ms) [601, 602] = some y.1
  rw [hz, mapAll, hy]
  rfl

end Sys2Proof.Tests
end

section
/-! SUPPORT. What a predicate-false control word does (spec/03_encoding.md R50, R51), and the word that the statement about it leaves out. -/

namespace Sys2Proof.Laws

open Sys2Proof Sys2Proof.Machine Sys2Proof.Frame Sys2Proof.Claims

/-! ## The debug unit's part of a branch word -/

theorem slogBranch_frame (ex : Nat) (c : Core) :
    ∃ d x, slogBranch ex c = { c with dbg := d, csrd := { c.csrd with slctl := x } } := by
  unfold slogBranch
  dsimp only
  split
  · exact ⟨c.dbg, c.csrd.slctl, rfl⟩
  · obtain ⟨d, x, h⟩ := slogAt_frame ex c .control 4 c.dbg.brOut.length (cycleOf c .control)
      (BitVec.ofNat 64 (c.dbg.brOut.foldr (fun b n => (if b then 1 else 0) + 2 * n) 0))
    exact ⟨{ d with brOut := [] }, x, by rw [slog, h]⟩

/-- The outcome of a branch word goes to the debug unit and SLCTL alone (R436). -/
theorem branchOutcome_frame (g : Guard) (taken : Bool) (s : State) :
    ∃ d x, branchOutcome g taken s = setMe s { me s with dbg := d, csrd := { (me s).csrd with slctl := x } } := by
  unfold branchOutcome
  split
  · exact ⟨(me s).dbg, (me s).csrd.slctl, (setMe_me s).symm⟩
  · unfold onMe
    dsimp only
    split
    · exact ⟨(me s).dbg, (me s).csrd.slctl, rfl⟩
    · split
      · exact ⟨_, (me s).csrd.slctl, rfl⟩
      · obtain ⟨d, x, h⟩ := slogBranch_frame s.ex.val { me s with dbg := { (me s).dbg with brOut := (me s).dbg.brOut ++ [taken] } }
        exact ⟨d, x, by rw [h]⟩

/-! ## The meaning of a word whose predicate is false -/

/-- The guard of a predicate-false word that may wait and does not wait already. -/
theorem guardedW_off (g : Guard) (s : State) (f : State → State) (h : guardOk (me s).ctl g = false) (hw : (me s).cwait = none) :
    guardedW g s f = retire s := by
  have : waits s = false := by rw [waits, hw]; rfl
  rw [guardedW, this, if_neg Bool.false_ne_true, guarded_off g s f h]

theorem branch_off (g : Guard) (s : State) (target : State → W64) (pre : State → State) (h : guardOk (me s).ctl g = false) :
    branch g s target pre = retire (branchOutcome g false s) := by
  rw [branch, if_neg (by simp [h])]

/-- A predicate-false control word retires, a branch word once its outcome is recorded. A HALT that waits has read its predicate before, and its wait
stands in the state of the run, where `cwait` does not show it. -/
theorem exec_off (s : State) (i : Instr) (w : W64) (he : encode i = .control w) (hg : guardOk (me s).ctl (Dec.fG w) = false)
    (hw : (me s).cwait = none) (hh : (me s).run.st ≠ .halting) :
    exec i s = .next (retire (if isBranch i then branchOutcome (Dec.fG w) false s else s)) := by
  cases i with
  | nop => rfl
  | halt g =>
      cases he; rw [fG_ctl] at hg
      exact congrArg Host.Outcome.next ((if_neg hh).trans (guarded_off _ _ _ hg))
  | lbrk g lv =>
      cases he; rw [fG_ctl] at hg ⊢
      exact congrArg Host.Outcome.next (if_neg (by simp [hg]))
  | br | call | callr | jmpr | ret =>
      cases he; rw [fG_ctl] at hg ⊢
      exact congrArg Host.Outcome.next (branch_off _ _ _ _ hg)
  | ldfw | ldfe | stef | fence | waitc | bwait | bsync | waitq | qsend | qrecv | ewait | fork | join | epushRun | epushSetf | epushWaitf | sbind
  | loopq | seam | tlbinv | dcf =>
      cases he; rw [fG_ctl] at hg
      exact congrArg Host.Outcome.next (guardedW_off _ _ _ hg hw)
  | _ => -- the words of the other maps have no control word; every control word left stands under `guarded`
      cases he <;> rw [fG_ctl] at hg <;> exact congrArg Host.Outcome.next (guarded_off _ _ _ hg)

/-! ## What the retirement of such a word leaves unchanged -/

/-- The end of a word after a change of the debug unit and SLCTL. -/
theorem retire_of_debug (s : State) (d : Dbg) (x : W64) :
    let t := retire (setMe s { me s with dbg := d, csrd := { (me s).csrd with slctl := x } })
    nextWord s t ∧ regs s t [] ∧ preds s t [] ∧ Elsewhere s t ∧ Aside { me s with dbg := d, csrd := { (me s).csrd with slctl := x } } (me t) := by
  intro t
  obtain ⟨hregs, hpreds, haside, helse, hnext⟩ := register_word_none (setMe s { me s with dbg := d, csrd := { (me s).csrd with slctl := x } })
  refine ⟨?_, fun r h => (hregs r h).trans ?_, fun p h => (hpreds p h).trans ?_, elsewhere_trans (elsewhere_setMe s _) helse, ?_⟩
  · simpa [nextWord] using hnext
  · simp [rd]
  · simp
  · simpa using haside

/-- What `Obligations.PredicateFalseWords` says of a word holds of every predicate-false control word while no HALT waits. -/
theorem predicateFalse_of_not_halting (s : State) (i : Instr) (w : W64) (he : encode i = .control w) (hg : guardOk (me s).ctl (Dec.fG w) = false)
    (hw : (me s).cwait = none) (hh : (me s).run.st ≠ .halting) :
    Completes i s (fun t => nextWord s t ∧ regs s t [] ∧ preds s t [] ∧ Elsewhere s t ∧
      (∃ dbg slctl, Aside { me s with dbg := dbg, csrd := { (me s).csrd with slctl := slctl } } (me t)) ∧
      (isBranch i = false → RegisterWord s t [] [])) := by
  refine ⟨_, exec_off s i w he hg hw hh, ?_⟩
  cases hb : isBranch i with
  | false =>
      have h := register_word_none s
      exact ⟨h.next, h.regs, h.preds, h.elsewhere, ⟨(me s).dbg, (me s).csrd.slctl, h.aside⟩, fun _ => h⟩
  | true =>
      obtain ⟨d, x, hd⟩ := branchOutcome_frame (Dec.fG w) false s
      rw [if_pos rfl, hd]
      obtain ⟨hnext, hregs, hpreds, helse, haside⟩ := retire_of_debug s d x
      exact ⟨hnext, hregs, hpreds, helse, ⟨d, x, haside⟩, fun h => nomatch h⟩

/-- A BR that p1, false after reset, predicates: its hypotheses met together. -/
theorem predicateFalse_of_not_halting_br : ∃ t, exec (.br ⟨1, false⟩ 4) State.reset = .next t ∧ (me t).ctl.pc = 8 ∧ Elsewhere State.reset t := by
  obtain ⟨t, ht, hnext, -, -, helse, -⟩ := predicateFalse_of_not_halting State.reset (.br ⟨1, false⟩ 4) _ rfl (by rw [fG_ctl]; rfl) rfl (by decide)
  exact ⟨t, ht, hnext.1, helse⟩

/-! ## The word left out: a HALT that waits -/

/-- Executor 0 at a HALT that waits for its vector engine, with p1 false. -/
def haltWaiting : State :=
  setMe State.reset { ctl := { pc := 0x1000 }, run := { st := .halting, live := true }, ve := { st := .running } }

/-- The HALT stays at its pc: it has not retired. -/
theorem haltWaiting_stays : (me (haltStep haltWaiting)).ctl.pc = 0x1000 := by decide +kernel

/-- Refutes O1: a HALT that waits is known by the state `halting` of the run and has no `cwait`, so the hypotheses let it through with its predicate
now false; R51 has it read its predicate at its issue alone, and it goes on waiting at its pc (R304), where the statement asks for the next word. It is
the one exception: `predicateFalse_of_not_halting`. -/
theorem not_predicateFalseWords : ¬ Obligations.PredicateFalseWords := by
  unfold Obligations.PredicateFalseWords
  intro h
  have hoff : guardOk (me haltWaiting).ctl (Dec.fG (Enc.ctl 0x65 ⟨1, false⟩ 0 0 (Enc.fCr 0 0))) = false := by rw [fG_ctl]; rfl
  obtain ⟨t, ht, hnext, -⟩ := h haltWaiting (.halt ⟨1, false⟩) _ rfl hoff rfl
  have hstep : exec (.halt ⟨1, false⟩) haltWaiting = .next (haltStep haltWaiting) := congrArg Host.Outcome.next (if_pos rfl)
  obtain rfl : haltStep haltWaiting = t := Host.Outcome.next.inj (hstep.symm.trans ht)
  have hpc : (me (haltStep haltWaiting)).ctl.pc = 0x1008 := hnext.1
  exact absurd (haltWaiting_stays.symm.trans hpc) (by decide)

end Sys2Proof.Laws

end

section
/-! SUPPORT. The integer words of the control sequencer and the words of an immediate (spec/14_control.md R288, R289, R291; spec/03_encoding.md R47). -/

namespace Sys2Proof.Laws

open Sys2Proof Sys2Proof.Machine Sys2Proof.Frame Sys2Proof.Claims

/-! ## A result that a word may read some cycles later (R288) -/

/-- A late result is an ordinary write; it differs in the list of the results under way alone. -/
theorem Ctl_wrLate_eq (c : Ctl) (r : Reg) (v : W64) (n : Nat) : c.wrLate r v n = { c.wr r v with late := (c.wrLate r v n).late } := by
  unfold Ctl.wrLate
  split
  · next h => simp [Ctl.wr, h]
  · rfl

@[simp] theorem Ctl_rd_wrLate (c : Ctl) (r q : Reg) (v : W64) (n : Nat) : (c.wrLate r v n).rd q = (c.wr r v).rd q := by
  rw [Ctl_wrLate_eq]; rfl

@[simp] theorem Ctl_rdP_wrLate (c : Ctl) (r : Reg) (v : W64) (n : Nat) (p : BitVec 4) : (c.wrLate r v n).rdP p = c.rdP p := by
  rw [Ctl_wrLate_eq]; exact Ctl_rdP_wr c r v p

@[simp] theorem Ctl_pc_wrLate (c : Ctl) (r : Reg) (v : W64) (n : Nat) : (c.wrLate r v n).pc = c.pc := by
  rw [Ctl_wrLate_eq]; exact Ctl_pc_wr c r v

@[simp] theorem Ctl_loops_wrLate (c : Ctl) (r : Reg) (v : W64) (n : Nat) : (c.wrLate r v n).loops = c.loops := by
  rw [Ctl_wrLate_eq]; exact Ctl_loops_wr c r v

@[simp] theorem rd_wrLate (s : State) (r q : Reg) (v : W64) (n : Nat) : rd (wrLate s r v n) q = rd (wr s r v) q := by
  simp [rd, wrLate]

/-- A word that writes s[d] late and is complete. -/
theorem register_word_wrLate (s : State) (d : Reg) (v : W64) (n : Nat) : RegisterWord s (retire (wrLate s d v n)) [d] [] :=
  register_word s (fun c => c.wrLate d v n) [d] []
    (fun c r h => by rw [Ctl_rd_wrLate, Ctl_rd_wr, if_neg (fun e => h (by simp [e.1]))])
    (fun c p _ => Ctl_rdP_wrLate c d v n p) (fun c => Ctl_pc_wrLate c d v n) (fun c => Ctl_loops_wrLate c d v n)

theorem rd_retire_wrLate (s : State) (d : Reg) (v : W64) (n : Nat) : rd (retire (wrLate s d v n)) d = if d = 0 then 0 else v := by
  rw [rd_retire, rd_wrLate, ← rd_retire_wr, rd_retire]

/-! ## The values of the immediates (R47) -/

theorem slt_imm12s (x : W64) (imm : BitVec 12) : x.slt (imm12s imm) = decide (x.toInt < imm.toInt) := by
  rw [BitVec.slt, imm12s, sext64, BitVec.toInt_signExtend_of_le (by decide)]

theorem ult_imm12u (x : W64) (imm : BitVec 12) : x.ult (imm12u imm) = decide (x.toNat < imm.toNat) := by
  rw [BitVec.ult, imm12u, zext64, BitVec.toNat_setWidth_of_le (by decide)]

/-- A shift by 12 is a product with 4096. -/
theorem imm20_eq (imm : BitVec 20) : imm20 imm = imm.signExtend 64 * 4096 :=
  BitVec.shiftLeft_eq_mul_twoPow _ 12

/-! ## The shapes of the words

One lemma for each shape in which the model gives these words a meaning: the word writes the value of the shape's function. -/

section Shapes

variable {i : Instr} {s : State} {g : Guard} {d a b : Reg} {pd : BitVec 4}

theorem writesScalar_alu0 {f : State → W64} {v : W64} (hg : guardOk (me s).ctl g = true)
    (hi : exec i s = .next (alu0 g d s f)) (hv : f s = v) : WritesScalar i s d v := by
  subst hv
  rw [alu0, guarded_ok _ _ _ hg] at hi
  exact ⟨_, hi, rd_retire_wr s d _, register_word_wr s d _⟩

theorem writesScalar_alu1 {f : W64 → W64} {v : W64} (hg : guardOk (me s).ctl g = true)
    (hi : exec i s = .next (alu1 g d a s f)) (hv : f (rd s a) = v) : WritesScalar i s d v :=
  writesScalar_alu0 (f := fun s => f (rd s a)) hg hi hv

theorem writesScalar_alu2 {f : W64 → W64 → W64} {v : W64} (hg : guardOk (me s).ctl g = true)
    (hi : exec i s = .next (alu2 g d a b s f)) (hv : f (rd s a) (rd s b) = v) : WritesScalar i s d v :=
  writesScalar_alu0 (f := fun s => f (rd s a) (rd s b)) hg hi hv

theorem writesScalar_alu2Late {f : W64 → W64 → W64} {n : Nat} {v : W64} (hg : guardOk (me s).ctl g = true)
    (hi : exec i s = .next (alu2Late g d a b s n f)) (hv : f (rd s a) (rd s b) = v) : WritesScalar i s d v := by
  subst hv
  rw [alu2Late, guarded_ok _ _ _ hg] at hi
  exact ⟨_, hi, rd_retire_wrLate s d _ n, register_word_wrLate s d _ n⟩

theorem writesPredicate_cmp {f : State → Bool} {v : Bool} (hg : guardOk (me s).ctl g = true)
    (hi : exec i s = .next (Machine.cmp g pd s f)) (hv : f s = v) : WritesPredicate i s pd v := by
  subst hv
  rw [Machine.cmp, guarded_ok _ _ _ hg] at hi
  exact ⟨_, hi, rdP_retire_wrPred s pd _, register_word_wrPred s pd _⟩

/-! ## The words of a 12-bit immediate (R291) -/

theorem immediateWords_write (imm : BitVec 12) (hg : guardOk (me s).ctl g = true) :
    ∀ e ∈ immediateWords imm, WritesScalar (e.1 g d a imm) s d (e.2 (rd s a)) := by
  simp only [immediateWords, List.forall_mem_cons, List.not_mem_nil, false_imp_iff, implies_true, and_true]
  exact ⟨writesScalar_alu1 hg rfl rfl, writesScalar_alu1 hg rfl rfl, writesScalar_alu1 hg rfl rfl, writesScalar_alu1 hg rfl rfl⟩

/-- The shift amount of a legal word is below 64, so that the field IMM12[5:0] of R291 is the whole immediate. -/
theorem shiftWords_write (imm : BitVec 12) (hg : guardOk (me s).ctl g = true) (h : imm.toNat < 64) :
    ∀ e ∈ shiftWords imm, WritesScalar (e.1 g d a imm) s d (e.2 (rd s a)) := by
  have hmod : imm.toNat % 64 = imm.toNat := Nat.mod_eq_of_lt h
  simp only [shiftWords, List.forall_mem_cons, List.not_mem_nil, false_imp_iff, implies_true, and_true]
  exact ⟨writesScalar_alu1 hg rfl (congrArg (rd s a <<< ·) hmod), writesScalar_alu1 hg rfl (congrArg (rd s a >>> ·) hmod),
    writesScalar_alu1 hg rfl (congrArg (rd s a).sshiftRight hmod)⟩

theorem compareImmediateWords_write (imm : BitVec 12) (hg : guardOk (me s).ctl g = true) :
    ∀ e ∈ compareImmediateWords imm, WritesPredicate (e.1 g pd a imm) s pd (e.2 (rd s a)) := by
  simp only [compareImmediateWords, List.forall_mem_cons, List.not_mem_nil, false_imp_iff, implies_true, and_true]
  exact ⟨writesPredicate_cmp hg rfl rfl, writesPredicate_cmp hg rfl (slt_imm12s _ imm), writesPredicate_cmp hg rfl (ult_imm12u _ imm)⟩

end Shapes

/-! ## Every integer word and every immediate word (R289, R291) -/

theorem integerWordResults : IntegerWordResults := by
  intro s g d a b hg
  simp only [integerWords, List.forall_mem_cons, List.not_mem_nil, false_imp_iff, implies_true, and_true]
  exact ⟨
    writesScalar_alu2 hg rfl rfl, -- ADD
    writesScalar_alu2 hg rfl rfl, -- SUB
    writesScalar_alu2Late hg rfl rfl, -- MUL
    writesScalar_alu2Late hg rfl (mulhS_eq _ _),
    writesScalar_alu2Late hg rfl (mulhU_eq _ _),
    writesScalar_alu2Late hg rfl (divS_eq _ _),
    writesScalar_alu2Late hg rfl (divU_eq _ _),
    writesScalar_alu2Late hg rfl (remS_eq _ _),
    writesScalar_alu2Late hg rfl (remU_eq _ _),
    writesScalar_alu2 hg rfl rfl, -- AND
    writesScalar_alu2 hg rfl rfl, -- OR
    writesScalar_alu2 hg rfl rfl, -- XOR
    writesScalar_alu2 hg rfl rfl, -- ANDN
    writesScalar_alu2 hg rfl (shlW_eq _ _),
    writesScalar_alu2 hg rfl (shrW_eq _ _),
    writesScalar_alu2 hg rfl (sraW_eq _ _),
    writesScalar_alu2 hg rfl (minS_eq _ _),
    writesScalar_alu2 hg rfl (maxS_eq _ _),
    writesScalar_alu2 hg rfl (minU_eq _ _),
    writesScalar_alu2 hg rfl (maxU_eq _ _)⟩

theorem bitCountResults : BitCountResults := fun s _ _ a hg =>
  ⟨⟨clzN (rd s a) 64, clzN_spec (rd s a) 64, writesScalar_alu1 hg rfl rfl⟩,
    writesScalar_alu1 hg rfl (congrArg (BitVec.ofNat 64) (popcN_eq (rd s a) 64))⟩

theorem immediateWordResults : ImmediateWordResults := fun s _ _ _ _ imm wide _ hg =>
  ⟨immediateWords_write imm hg, shiftWords_write imm hg, compareImmediateWords_write imm hg,
    writesScalar_alu0 hg rfl (imm20_eq wide), -- SETHI
    writesScalar_alu0 hg rfl (congrArg ((me s).ctl.pc + ·) (imm20_eq wide)), -- ADDPC
    writesScalar_alu0 hg rfl rfl⟩ -- MOVI

/-- Settles O34: every word has one of five shapes, each of which writes the value of its function and retires; the laws of the integer functions give
the value. -/
theorem integerWords : Obligations.IntegerWords := ⟨integerWordResults, bitCountResults, immediateWordResults⟩

end Sys2Proof.Laws

end
